-- ==== Sys2Proof/Word.lean ====
section
/-! DEFINITION. The word types of the Halca H7 and their plainest arithmetic (R7, R12, R19, R35, R36). -/

namespace Sys2Proof

/-- A byte of memory. -/
abbrev Byte := BitVec 8

/-- A general register or control register, 64 bits (R12). -/
abbrev Word := BitVec 64

/-- A vector register, 512 bits (R19). -/
abbrev VWord := BitVec 512

/-- A 64-byte instruction line, byte 0 lowest (R38). -/
abbrev Line := BitVec 512

/-- A local byte address, bits [17:0] of PC and of every local address (R20). -/
abbrev LAddr := BitVec 18

/-- The 16-bit head of an instruction (R39). -/
abbrev Head := BitVec 16

/-- The opcode of a head: class in bits [11:8], function in bits [7:0] (R39). -/
abbrev Opcode := BitVec 12

/-- A 6-bit tail field (R40). -/
abbrev Field := BitVec 6

end Sys2Proof
end

