-- ==== Sys2Proof/Config.lean ====
section
/-! DEFINITION. What an implementation fixes and the values the spec leaves open: constants without a body, so that nothing can be proved of their values. -/

namespace Sys2Proof

/-- A free number, for times that the spec bounds and does not fix (R91; log 3, log 5). -/
opaque Config.latency : Nat → Nat

/-- A free 64-bit value (log 3). -/
opaque Config.freeWord : Nat → Word

/-- The field of a core record that a byte offset of it names: the spec gives no layout of the record (R433, R443; log 40). -/
opaque Config.recordField : Nat → Nat

/-- The field that a byte offset of a part of a save block names, by the part's place in the block: the spec gives no layout of the parts 1 to 4 (R433; log 54). -/
opaque Config.saveField : Nat → Nat → Nat

end Sys2Proof
end

