-- ==== Sys2Proof/Syntax.lean ====
section
/-! DEFINITION. The syntax of the machine's steps: one constructor per row of the opcode table.
An instruction keeps its whole tail, field by field (R40), so that no bit is lost before the checks of R53 and the stagger of R112.
An event of another agent or of the outside names what it happens to and carries the data that comes from outside; an event of one core without an operand happens to the core in turn.
Rows with operands come first and rows without come last, because a compiled constructor with fields needs a small index. -/

namespace Sys2Proof

/-- Tail form H, 2 bytes (R40). -/
structure TailH where
  a : Field
  b : Field
  f : BitVec 4
  deriving DecidableEq, Repr

/-- Tail form W, 4 bytes (R40). -/
structure TailW where
  d : Field
  a : Field
  b : Field
  c : Field
  m : BitVec 8
  deriving DecidableEq, Repr

/-- Tail form I, 4 bytes (R40). -/
structure TailI where
  d : Field
  a : Field
  imm : BitVec 20
  deriving DecidableEq, Repr

/-- Tail form L, 6 bytes (R40). -/
structure TailL where
  d : Field
  a : Field
  b : Field
  imm : BitVec 30
  deriving DecidableEq, Repr

/-- Tail form D, 8 bytes (R40). -/
structure TailD where
  d : Field
  a : Field
  b : Field
  c : Field
  m : BitVec 8
  imm : BitVec 32
  deriving DecidableEq, Repr

/-- What a near or global request does at its destination (R253 to R272). -/
inductive ReqOp where
  /-- A load of an integer type (R253). -/
  | load (bytes : Nat) (signed : Bool)
  /-- A load of 64 bytes (R254). -/
  | loadV
  /-- A store of a value's low bytes (R253, R254). -/
  | store (bytes value : Nat)
  /-- An atomic: operation, width and signedness, operand, and the comparand of .cas (R259). -/
  | amo (opn bytes : Nat) (signed : Bool) (x cmp : Int)
  /-- A store that then increments a counter (R261). -/
  | putc (bytes value k : Nat)
  /-- A wait for a word to differ (R263). -/
  | waita (bytes : Nat) (signed : Bool) (expected : Nat)
  /-- A wake (R264). -/
  | wake (all : Bool)
  /-- A flush of a range (R267). -/
  | flush (kind len : Nat)
  /-- A capability handover to a rank (R272). -/
  | capgive (target : Nat)
  /-- Elements of a type combined into memory, one by one (R303). -/
  | reduce (rop rtype bytes value : Nat)
  deriving DecidableEq, Repr

/-- A transaction on a Fjoel link, in one or more flits (R467 to R469): a request or a withdrawal goes to the package that holds the slice, and the others come back from it.
A request is named by the package and the number that it has where it was issued; the answers name that package too, toward which they are routed. -/
inductive LinkMsg where
  /-- A request at a slice-space address. -/
  | request (pkg pid req : Nat) (addr : Word) (op : ReqOp)
  /-- The withdrawal of a WAITA, and its answer when the entry was still armed (R265). -/
  | withdraw (pkg req : Nat) (addr : Word)
  | freed (pkg req : Nat)
  /-- A successful response, with its value and status (R263). -/
  | response (pkg req value status : Nat)
  /-- A failed response. -/
  | failure (pkg req : Nat) (code qual : Byte)
  deriving DecidableEq, Repr

/-- One step of the machine: an instruction of a core, or an event of another agent or of the outside. -/
inductive Instr where

  /-- J (R107). Checks the target, then jumps by a halfword displacement from the base of the instruction's line. -/
  | j (t : TailI)
  /-- JR (R107). Checks the target, then jumps to the address held in a general register. -/
  | jr (t : TailH)
  /-- CALL (R107). Checks the target, raises window or store spill when needed, pushes the return address, moves the window and jumps. -/
  | call (t : TailI)
  /-- CALLR (R107). Same as CALL, but takes the target from a register. -/
  | callr (t : TailH)
  /-- LOOP (R108). Sets up hardware loop level n with a count, a start and an end, or skips the body when the count is 0. -/
  | loop (t : TailL)
  /-- REP (R111). Starts a repetition that staggers register fields over a body of up to 8 instructions. -/
  | rep (t : TailI)
  /-- TRAP (R121). Enters software trap cause 0x17, with the trap number as qualifier. -/
  | trap (t : TailI)
  /-- MFC (R123). Reads a control register into a general register. -/
  | mfc (t : TailI)
  /-- MTC (R124). Writes a general register into a control register, subject to its access and fields. -/
  | mtc (t : TailI)
  /-- GD (R115). Guard prefix: the following target is squashed when the named bit, XOR the invert flag, is 0. -/
  | gd (t : TailH)
  /-- FMT (R116). Format prefix that supplies formats and modes to the following target. -/
  | fmt (t : TailW)
  /-- ADD (R90). Integer add, register form. -/
  | add (t : TailW)
  /-- SUB (R90). Integer subtract. -/
  | sub (t : TailW)
  /-- MUL (R90). Integer multiply, low half. -/
  | mul (t : TailW)
  /-- MULH (R90). Integer multiply, high half. -/
  | mulh (t : TailW)
  /-- DIV (R91). Integer divide truncating toward zero, with a variable-latency result. -/
  | div (t : TailW)
  /-- REM (R91). Integer remainder, with a variable-latency result. -/
  | rem (t : TailW)
  /-- AND (R90). Bitwise AND. -/
  | and (t : TailW)
  /-- OR (R90). Bitwise OR. -/
  | or (t : TailW)
  /-- XOR (R90). Bitwise exclusive OR. -/
  | xor (t : TailW)
  /-- ANDN (R90). x AND NOT y. -/
  | andn (t : TailW)
  /-- ORN (R90). x OR NOT y. -/
  | orn (t : TailW)
  /-- SHL (R90). Shift left. -/
  | shl (t : TailW)
  /-- SHR (R90). Logical shift right. -/
  | shr (t : TailW)
  /-- SAR (R90). Arithmetic shift right. -/
  | sar (t : TailW)
  /-- ROL (R90). Rotate left. -/
  | rol (t : TailW)
  /-- ROR (R90). Rotate right. -/
  | ror (t : TailW)
  /-- MIN (R90). Lesser of two operands. -/
  | min (t : TailW)
  /-- MAX (R90). Greater of two operands. -/
  | max (t : TailW)
  /-- ADDS (R92). Saturating add that sets STAT.SAT when it clamps. -/
  | adds (t : TailW)
  /-- SUBS (R92). Saturating subtract that sets STAT.SAT when it clamps. -/
  | subs (t : TailW)
  /-- ABS (R90). Absolute value. -/
  | abs (t : TailW)
  /-- NEG (R90). Negation. -/
  | neg (t : TailW)
  /-- CLZ (R90). Counts leading zero bits. -/
  | clz (t : TailW)
  /-- CTZ (R90). Counts trailing zero bits. -/
  | ctz (t : TailW)
  /-- POPC (R90). Counts one bits. -/
  | popc (t : TailW)
  /-- BREV (R90). Reverses the bit order. -/
  | brev (t : TailW)
  /-- BSWAP (R90). Reverses the byte order. -/
  | bswap (t : TailW)
  /-- CMP (R93). Compares two registers and writes the result into one bit of a register. -/
  | cmp (t : TailW)
  /-- SEL (R94). Selects one of two registers by a register bit. -/
  | sel (t : TailW)
  /-- BFX (R95). Extracts a bit field. -/
  | bfx (t : TailW)
  /-- BFI (R95). Inserts a bit field. -/
  | bfi (t : TailW)
  /-- BSET (R96). Sets the bit indexed by a register. -/
  | bset (t : TailW)
  /-- BCLR (R96). Clears the bit indexed by a register. -/
  | bclr (t : TailW)
  /-- BTGL (R96). Inverts the bit indexed by a register. -/
  | btgl (t : TailW)
  /-- CLMUL (R97). Carry-less multiply, low 64 bits. -/
  | clmul (t : TailW)
  /-- CLMULH (R97). Carry-less multiply, high bits. -/
  | clmulh (t : TailW)
  /-- ADD_IMM (R98). Add with an immediate. -/
  | addImm (t : TailL)
  /-- MUL_IMM (R98). Multiply by an immediate. -/
  | mulImm (t : TailL)
  /-- AND_IMM (R98). AND with an immediate. -/
  | andImm (t : TailL)
  /-- OR_IMM (R98). OR with an immediate. -/
  | orImm (t : TailL)
  /-- XOR_IMM (R98). XOR with an immediate. -/
  | xorImm (t : TailL)
  /-- SHL_IMM (R98). Shift left by an immediate. -/
  | shlImm (t : TailL)
  /-- SHR_IMM (R98). Logical shift right by an immediate. -/
  | shrImm (t : TailL)
  /-- SAR_IMM (R98). Arithmetic shift right by an immediate. -/
  | sarImm (t : TailL)
  /-- ROL_IMM (R98). Rotate left by an immediate. -/
  | rolImm (t : TailL)
  /-- ROR_IMM (R98). Rotate right by an immediate. -/
  | rorImm (t : TailL)
  /-- MIN_IMM (R98). Lesser of a register and an immediate. -/
  | minImm (t : TailL)
  /-- MAX_IMM (R98). Greater of a register and an immediate. -/
  | maxImm (t : TailL)
  /-- ADDS_IMM (R98). Saturating add of an immediate. -/
  | addsImm (t : TailL)
  /-- CMP_IMM (R98). Compares with an immediate into one register bit. -/
  | cmpImm (t : TailL)
  /-- BSET_IMM (R96). Sets the bit given by an immediate index. -/
  | bsetImm (t : TailL)
  /-- BCLR_IMM (R96). Clears the bit given by an immediate index. -/
  | bclrImm (t : TailL)
  /-- BTGL_IMM (R96). Inverts the bit given by an immediate index. -/
  | btglImm (t : TailL)
  /-- LI (R99). Loads a sign-extended 32-bit immediate. -/
  | li (t : TailD)
  /-- LIH (R99). Sets the upper 32 bits of a register. -/
  | lih (t : TailD)
  /-- LEA (R100). Computes base plus scaled index plus displacement, without touching memory. -/
  | lea (t : TailD)
  /-- LD (R102). Local load of a typed integer. -/
  | ld (t : TailL)
  /-- ST (R102). Local store of a typed integer. -/
  | st (t : TailL)
  /-- LDV (R103). Local load of a 64-byte vector. -/
  | ldv (t : TailL)
  /-- STV (R103). Local store of a 64-byte vector. -/
  | stv (t : TailL)
  /-- LDVS (R104). Strided local vector load. -/
  | ldvs (t : TailW)
  /-- STVS (R104). Strided local vector store. -/
  | stvs (t : TailW)
  /-- LDP (R105). Loads a pair of doublewords. -/
  | ldp (t : TailL)
  /-- STP (R105). Stores a pair of doublewords. -/
  | stp (t : TailL)
  /-- LDN (R253). Near load from a slice of the super-group. -/
  | ldn (t : TailD)
  /-- STN (R253). Near store to a slice of the super-group. -/
  | stn (t : TailD)
  /-- LDG (R253). Global load. -/
  | ldg (t : TailD)
  /-- STG (R253). Global store. -/
  | stg (t : TailD)
  /-- LDGV (R254). Global load of 64 bytes into a vector register. -/
  | ldgv (t : TailD)
  /-- STGV (R254). Global store of 64 bytes from a vector register. -/
  | stgv (t : TailD)
  /-- AMO (R259). Atomic read-modify-write at the destination that returns the old value. -/
  | amo (t : TailD)
  /-- PUTC (R261). Stores to a slice and increments a message counter of the slice's core. -/
  | putc (t : TailD)
  /-- WAITC (R262). Sleeps until a message counter reaches a value, optionally consuming it; acts as an acquire. -/
  | waitc (t : TailW)
  /-- WAITA (R263). Sleeps until a memory word differs from an expected value, using a monitor. -/
  | waita (t : TailD)
  /-- WAKE (R264). Wakes one or all armed monitors on a word with status 1. -/
  | wake (t : TailD)
  /-- FENCE (R266). Drain point with acquire, release or both at a scope. -/
  | fence (t : TailW)
  /-- FLUSH (R267). Writes back or invalidates a range in the host path. -/
  | flush (t : TailD)
  /-- INBOX (R269). Dequeues the oldest inbox message, optionally sleeping until one arrives. -/
  | inbox (t : TailW)
  /-- CAPGIVE (R272). Hands the write capability of an owned granule to another core. -/
  | capgive (t : TailD)
  /-- VADD (R149). Floating-point vector add. -/
  | vadd (t : TailW)
  /-- VSUB (R149). Floating-point vector subtract. -/
  | vsub (t : TailW)
  /-- VMUL (R149). Floating-point vector multiply. -/
  | vmul (t : TailW)
  /-- VFMA (R149). Fused multiply-add. -/
  | vfma (t : TailW)
  /-- VFMS (R149). Fused multiply-subtract. -/
  | vfms (t : TailW)
  /-- VFNMA (R149). Fused negated multiply-add. -/
  | vfnma (t : TailW)
  /-- VDIV (R149). Floating-point vector divide. -/
  | vdiv (t : TailW)
  /-- VSQRT (R149). Floating-point vector square root. -/
  | vsqrt (t : TailW)
  /-- VRCP (R149). Correctly rounded reciprocal. -/
  | vrcp (t : TailW)
  /-- VRSQ (R149). Correctly rounded reciprocal square root. -/
  | vrsq (t : TailW)
  /-- VEXP2 (R149). Correctly rounded 2^x. -/
  | vexp2 (t : TailW)
  /-- VLOG2 (R149). Correctly rounded log2 x. -/
  | vlog2 (t : TailW)
  /-- VMIN (R151). Lane-wise floating minimum. -/
  | vmin (t : TailW)
  /-- VMAX (R151). Lane-wise floating maximum. -/
  | vmax (t : TailW)
  /-- VABS (R151). Clears the sign bit of each lane. -/
  | vabs (t : TailW)
  /-- VNEG (R151). Flips the sign bit of each lane. -/
  | vneg (t : TailW)
  /-- VCMP (R152). Floating compare that writes a lane mask to a general register. -/
  | vcmp (t : TailW)
  /-- VSEL (R153). Selects lanes by a mask register. -/
  | vsel (t : TailW)
  /-- VCLASS (R154). Classifies each floating lane. -/
  | vclass (t : TailW)
  /-- VIADD (R155). Integer lane add. -/
  | viadd (t : TailW)
  /-- VISUB (R155). Integer lane subtract. -/
  | visub (t : TailW)
  /-- VIMUL (R155). Integer lane multiply, low bits. -/
  | vimul (t : TailW)
  /-- VIMAD (R155). Integer lane multiply-add. -/
  | vimad (t : TailW)
  /-- VIMIN (R155). Integer lane minimum. -/
  | vimin (t : TailW)
  /-- VIMAX (R155). Integer lane maximum. -/
  | vimax (t : TailW)
  /-- VAND (R155). Bitwise AND of vectors. -/
  | vand (t : TailW)
  /-- VOR (R155). Bitwise OR of vectors. -/
  | vor (t : TailW)
  /-- VXOR (R155). Bitwise XOR of vectors. -/
  | vxor (t : TailW)
  /-- VSHL (R155). Lane shift left. -/
  | vshl (t : TailW)
  /-- VSHR (R155). Lane logical shift right. -/
  | vshr (t : TailW)
  /-- VSAR (R155). Lane arithmetic shift right. -/
  | vsar (t : TailW)
  /-- VIADDS (R155). Saturating integer lane add. -/
  | viadds (t : TailW)
  /-- VICMP (R156). Integer lane compare into a mask register. -/
  | vicmp (t : TailW)
  /-- VCLMUL (R157). Carry-less multiply of 64-bit lanes. -/
  | vclmul (t : TailW)
  /-- VRNG (R158). Fills a vector from a counter-based random mixing function. -/
  | vrng (t : TailD)
  /-- VMOV (R159). Copies a vector register. -/
  | vmov (t : TailW)
  /-- VBCAST (R159). Broadcasts a scalar to every lane. -/
  | vbcast (t : TailW)
  /-- VINS (R159). Inserts a scalar into one lane. -/
  | vins (t : TailW)
  /-- VEXT (R159). Extracts one lane to a scalar. -/
  | vext (t : TailW)
  /-- VPERM (R159). Permutes lanes by index lanes. -/
  | vperm (t : TailW)
  /-- VROT (R159). Rotates lanes. -/
  | vrot (t : TailW)
  /-- VCVT (R161). Converts elements between formats by part. -/
  | vcvt (t : TailW)
  /-- VPACK (R162). Converts two registers into one of half the width. -/
  | vpack (t : TailW)
  /-- VUNPK (R162). Converts one register into two of double the width. -/
  | vunpk (t : TailW)
  /-- VQNT (R163). Quantises into blocks with computed E8M0 scales. -/
  | vqnt (t : TailW)
  /-- VDQNT (R164). Dequantises scaled blocks to a wide format. -/
  | vdqnt (t : TailW)
  /-- VRED (R165). Reduces lanes to one value by a fixed tree. -/
  | vred (t : TailW)
  /-- VDOT (R168). Accumulates a block dot product into an FP32 register. -/
  | vdot (t : TailW)
  /-- VDIST (R172). Computes distances between a query and up to 16 candidate vectors in the slice. -/
  | vdist (t : TailD)
  /-- VTOPK (R173). Merges 16 candidates into a sorted top-k list. -/
  | vtopk (t : TailW)
  /-- VGATH (R170). Gathers elements from slice addresses. -/
  | vgath (t : TailW)
  /-- VSCAT (R171). Scatters elements to slice addresses. -/
  | vscat (t : TailW)
  /-- VPOPC (R167). Counts the one bits of each lane. -/
  | vpopc (t : TailW)
  /-- VSCAN (R166). Inclusive prefix scan over lanes. -/
  | vscan (t : TailW)
  /-- SEND (R221). Sends a word over the exchange fabric to a slot of every core in the route. -/
  | send (t : TailH)
  /-- MUXSEL (R222). Sets the core's exchange route. -/
  | muxsel (t : TailI)
  /-- RECV (R223). Reads a receive slot into a general register. -/
  | recv (t : TailI)
  /-- RECVM (R223). Reads a receive slot into one lane of a vector register. -/
  | recvm (t : TailI)
  /-- MCLAIM (R320). Claims the lowest run of n free operand slots. -/
  | mclaim (t : TailW)
  /-- MREL (R321). Queues the release of n claimed slots. -/
  | mrel (t : TailW)
  /-- MLOAD (R325). Queues a load of an operand image into a slot. -/
  | mload (t : TailD)
  /-- MSTORE (R325). Queues a store of a slot part to memory. -/
  | mstore (t : TailD)
  /-- MZERO (R328). Queues zeroing of an accumulator bank. -/
  | mzero (t : TailW)
  /-- MGANG (R330). Contributes the core to the pod's next gang; the eighth member forms and checks the gang. -/
  | mgang (t : TailW)
  /-- MDRAIN (R333). Queues the conversion and write of an accumulator bank to local memory. -/
  | mdrain (t : TailD)
  /-- MGEO (R323). Derives the core's edge descriptor for an output tile. -/
  | mgeo (t : TailW)
  /-- COPY (R298). Reads a descriptor and submits a copy job, waiting for the queue. -/
  | copy (t : TailD)
  /-- JTEST (R308). Tests a copy job handle. -/
  | jtest (t : TailW)
  /-- JWAIT (R308). Sleeps until a copy job handle is no longer running. -/
  | jwait (t : TailW)
  /-- BOARD (R348). Arms a boarding context to catch frames of a layer from the ring. -/
  | board (t : TailD)
  /-- BSTAT (R354). Reads a boarding context, raising a pending corrupt mark first. -/
  | bstat (t : TailW)
  /-- COVQ_NEXT (R190). Takes the walker's next point and sets WID. -/
  | covqNext (t : TailW)
  /-- COVQ_RANK (R190). Returns the walker count and rank. -/
  | covqRank (t : TailW)
  /-- COVQ_INFO (R387). Returns the side-buffer VALUE address when the last point is a sample. -/
  | covqInfo (t : TailW)
  /-- COVQ_KEEP (R387). Tests whether an identifier is kept under the rung in force. -/
  | covqKeep (t : TailW)
  /-- TRACE (R448). Queues a KIND 0x01 trace record when tracing is enabled. -/
  | trace (t : TailD)
  /-- LACC (R273). Reads a latency account. -/
  | lacc (t : TailW)
  /-- LACCZ (R273). Reads and clears a latency account. -/
  | laccz (t : TailW)
  /-- GOV (R377). Sets the activity governor budget. -/
  | gov (t : TailI)
  /-- WSE_READ (R34). A read of WSE returns register-stack entry PX and advances PX. -/
  | wseRead (t : TailI)
  /-- WSE_WRITE (R34). A write of WSE writes register-stack entry PX and advances PX. -/
  | wseWrite (t : TailI)
  /-- RASE_READ (R18). A read of RASE removes and returns the oldest return-address entry. -/
  | raseRead (t : TailI)
  /-- RASE_WRITE (R18). A write of RASE inserts the value as the oldest return-address entry. -/
  | raseWrite (t : TailI)
  /-- VAR_RESULT_ARRIVAL (R51). A variable-latency result arrives, is written and is released from the scoreboard. -/
  | varResultArrival (core k : Nat)
  /-- WORK_QUEUE_DOORBELL (R463). A doorbell write sets a queue's TAIL when it is in range. -/
  | workQueueDoorbell (vf queue : Nat) (value : Word)
  /-- LAUNCH_BLOCK_FETCH (R464). While HEAD differs from TAIL, a launch block is fetched, HEAD advances and the block is checked. -/
  | launchBlockFetch (queue : Nat)
  /-- LAUNCH_START (R179). A checked launch starts once its super-groups and Chorus contexts are free, installs its lap segments, searches a grant and sends its wake message. -/
  | launchStart (launch : Nat)
  /-- WAKE_MESSAGE (R180). A wake message arrives at a router, is flooded once and is handed to super-groups that hold the range. -/
  | wakeMessage (launch router : Nat)
  /-- BOOT_IMAGE_ARRIVAL (R182). A role image arrives at a boot-tree position and is forwarded to its children. -/
  | bootImageArrival (launch core : Nat)
  /-- LAUNCH_COMPLETION (R193). When every core of the range has retired, the launch drains, writes its record and increments its DONE words. -/
  | launchCompletion (launch : Nat)
  /-- CHORUS_START (R198). A Chorus unit clears its context and starts its sequencer at the edge after the wake message. -/
  | chorusStart (launch level unit : Nat)
  /-- CHORUS_RECORD_READ (R198). A sequencer reads one stream record, feeding, passing over or expanding it, or stops at END or a malformed record. -/
  | chorusRecordRead (launch level unit : Nat)
  /-- MASK_FIRE (R203). A mask fires when all its members wait, releasing or reporting upward. -/
  | maskFire (launch level unit idx : Nat)
  /-- CHORUS_REPORT_ARRIVAL (R204). A report arrives at a higher unit and is assigned to a mask. -/
  | chorusReportArrival (launch level unit sender : Nat)
  /-- CHORUS_RELEASE (R205). Members resume on the release edge after the fixed delay, add to SSC, and apply EXCH, YIELD and RATIO. -/
  | chorusRelease (release : Nat)
  /-- ORPHAN_WAIT (R210). A waiting core or report finds no mask after the sequencer is done and takes fault 0x11. -/
  | orphanWait (launch level unit : Nat)
  /-- CHORUS_WATCHDOG (R211). The chorus watchdog expires and faults the unassigned waiters with 0x1C. -/
  | chorusWatchdog (launch level unit : Nat)
  /-- EXCHANGE_WORD_ARRIVAL (R220). An exchange word arrives in a receive slot at its fixed delay. -/
  | exchangeWordArrival (word : Nat)
  /-- DESTINATION_REQUEST (R234). A near or global request arrives at its destination, is checked and translated, takes effect and is answered. -/
  | destinationRequest (req : Nat)
  /-- RESPONSE_ARRIVAL (R245). A response enters the issuing interface, is counted in a latency account, and any failure is held. -/
  | responseArrival (req : Nat)
  /-- RELEASE_SEND (R252). A release held at the interface is sent once the earlier writes of its scope are acknowledged, and TSM is pruned. -/
  | releaseSend (req : Nat)
  /-- INBOX_MESSAGE_ARRIVAL (R268). A message enters an inbox, after waiting for a free entry if the inbox is full. -/
  | inboxMessageArrival (msg : Nat)
  /-- CAPABILITY_HANDOVER (R272). At instant H the capability holder changes, and a KIND 0x04 message is posted. -/
  | capabilityHandover (req : Nat)
  /-- PACKET_ARRIVAL (R237). A packet arrives at a router input and enters its VC buffer. -/
  | packetArrival (packet : Nat)
  /-- OUTPUT_ARBITRATION (R239). A router output grants one input and VC by urgency or weighted round-robin. -/
  | outputArbitration (router port : Nat)
  /-- AGE_URGENT (R240). A packet's AGE reaches 64 and it becomes urgent. -/
  | ageUrgent (router port vc : Nat)
  /-- COPY_ACCEPT (R296). A waiting COPY's job is accepted into a free entry, its ranges are recorded and the handle is written. -/
  | copyAccept (pod : Nat)
  /-- COPY_JOB_START (R296). A queued job becomes active when a slot and buffer place are free, and is checked. -/
  | copyJobStart (pod : Nat)
  /-- COPY_REQUEST_ISSUE (R296). A copy unit sends one request of an active job on VC1. -/
  | copyRequestIssue (pod : Nat)
  /-- COPY_PIECE_WRITE (R296). Once all of a piece's data has arrived, its write is sent. -/
  | copyPieceWrite (pod entry piece : Nat)
  /-- NVME_COMPLETION (R304). An NVMe completion for a storage copy arrives. -/
  | nvmeCompletion (pod entry : Nat) (status : BitVec 16)
  /-- COPY_JOB_COMPLETE (R306). A job completes: counters are incremented, the status is set, ranges are cleared, the message is posted and the entry is freed. -/
  | copyJobComplete (pod entry : Nat)
  /-- MATRIX_COMMAND_ACCEPT (R324). The engine accepts a queued command in issue order and frees its queue entry. -/
  | matrixCommandAccept (pod core : Nat)
  /-- GANG_COMPLETE (R332). A gang finishes and writes its banks and flags. -/
  | gangComplete (pod : Nat)
  /-- MLOAD_COMPLETE (R326). An MLOAD finishes moving its image, or fails and posts a KIND 0x05 message. -/
  | mloadComplete (pod cmd : Nat)
  /-- MSTORE_COMPLETE (R326). An MSTORE finishes writing its image, or fails and posts a message. -/
  | mstoreComplete (pod cmd : Nat)
  /-- MDRAIN_COMPLETE (R334). A drain finishes, ORs flags into STAT.FX and clears its range. -/
  | mdrainComplete (pod cmd : Nat)
  /-- MREL_FREE (R321). Slots are freed once earlier commands on them have finished. -/
  | mrelFree (pod cmd : Nat)
  /-- FEEDER_FRAME_DELIVERY (R344). A feeder delivers a frame read from HBM to station 0, or reports a failed read. -/
  | feederFrameDelivery (die : Nat)
  /-- BOARD_ARM_EFFECT (R348). A boarding arming takes effect 16 network cycles after issue. -/
  | boardArmEffect (pod ctx : Nat)
  /-- SEGMENT_HEADER_ARRIVAL (R349). A segment's first header reaches a station and armed contexts catch it. -/
  | segmentHeaderArrival (station flips : Nat)
  /-- TAP_FRAME_ACT (R350). Fourteen cycles after a frame header, the tap writes the frame or marks it bad, and updates the context state. -/
  | tapFrameAct (pod ctx flips : Nat)
  /-- CAP_TOKEN (R370). A cap token over MCTP is checked, accepted or ignored, and answered. -/
  | capToken (token : BitVec 128)
  /-- VPT_WRITE (R363). The hypervisor remaps a virtual performance table entry, which triggers a search when the entry is in use. -/
  | vptWrite (vf entry : Nat) (value : BitVec 32)
  /-- AXOLOTL_RUN (R388). After the cores retire and jobs complete, Axolotl fills skipped points and measures the sample error. -/
  | axolotlRun (launch : Nat)
  /-- PARTITION_STOP (R403). A stop command makes a stop request pending for the partition. -/
  | partitionStop (part : Nat)
  /-- STOP_COMPLETE (R404). The stop completes when all cores are parked or stopped and the engines have drained, and a notice is sent. -/
  | stopComplete (part : Nat)
  /-- YIELD_DEADLINE (R407). The yield deadline expires and the stop is forced. -/
  | yieldDeadline (part : Nat)
  /-- EXCHANGE_GRACE (R408). The grace expires with a core still in exchange mode, so the stop fails and the partition is reset. -/
  | exchangeGrace (part : Nat)
  /-- PARTITION_RESUME (R406). A resume command restarts the stopped cores on one network edge. -/
  | partitionResume (part : Nat)
  /-- PARTITION_RESET (R438). A reset command stops the partition, drops its traffic, completes its launches and scrubs it. -/
  | partitionReset (part : Nat)
  /-- PARTITION_REPLAY (R453). A replay command starts a logged launch from a queue with the logged inputs. -/
  | partitionReplay (part queue : Nat)
  /-- CONTEXT_SAVE_COMPLETE (R433). A stopped partition's context has been saved to its save area. -/
  | contextSaveComplete (part : Nat)
  /-- SCRUB_COMPLETE (R439). A super-group scrub finishes. -/
  | scrubComplete (sg : Nat)
  /-- CONTEXT_RESTORE_COMPLETE (R436). A saved partition is restored and resumes at edge U. -/
  | contextRestoreComplete (part : Nat)
  /-- PARTITION_COMMIT (R428). A PTCMD write commits a partition-table entry or refuses it. -/
  | partitionCommit (command : Word)
  /-- INV_STAGE1_PAGE (R421). Posts a stage-1 page invalidation. -/
  | invStage1Page (vf space : Nat) (va : Word)
  /-- INV_STAGE1_ALL (R421). Posts a stage-1 invalidation of the whole function. -/
  | invStage1All (vf : Nat)
  /-- INV_STAGE2_FRAME (R421). Posts a stage-2 guest-frame invalidation. -/
  | invStage2Frame (vf space : Nat) (frame : Word)
  /-- INV_STAGE2_ALL (R421). Posts a stage-2 invalidation of the whole function. -/
  | invStage2All (vf : Nat)
  /-- INVALIDATION_COMPLETE (R421). All interfaces have dropped the matching entries, and the completion word is incremented as a release. -/
  | invalidationComplete (inv : Nat)
  /-- DBG_READ (R443). A debug read of a stopped core's record, slice or resume PC through DBGDATA. -/
  | dbgRead (part : Nat)
  /-- DBG_WRITE (R443). A debug write that takes effect at the resume edge. -/
  | dbgWrite (part : Nat) (value : Word)
  /-- HOST_WINDOW_WRITE (R452). A host write to a coherent window arrives; it is held in deterministic mode and logged in record mode. -/
  | hostWindowWrite (die off : Nat) (mask : Byte) (value : Word)
  /-- LINK_FLIT_ARRIVAL (R467). A Fjoel flit arrives and is checked, and replayed on a CRC failure. -/
  | linkFlitArrival (port : Nat) (crcOk : Bool) (msg : LinkMsg)
  /-- LINK_TIMEOUT (R410). A cross-link request receives no response in time and fails with 0x1D. -/
  | linkTimeout (req : Nat)
  /-- UNIT_READY (R460). A function passes bring-up and its READY bit is set. -/
  | unitReady (reg bit : Nat)
  /-- UNIT_NOT_READY (R460). A READY bit clears, for example on link down, and the function leaves service. -/
  | unitNotReady (reg bit : Nat)
  /-- REGISTER_WRITE (R10). A driver or hypervisor write to a register or table that has no behaviour of its own. -/
  | registerWrite (block off : Nat) (value : Word)
  /-- UNASSIGNED_OPCODE (R55). A head with an unassigned class or function code, or a COVQ with an unassigned m, reaches issue and raises illegal instruction with QUAL 0x00 or 0x03. -/
  | unassignedOpcode (op : Opcode) (t : TailW)
  /-- SPARE_SWAP (R440). The driver maps a worn core, engine slice, HBM row or pseudo-channel, ring lane or Fjoel lane to its spare, which takes over the unit's identity. -/
  | spareSwap (kind unit spare : Nat)
  /-- HOST_PCIE_COMPLETION (R462). A PCIe completion from the host for a device read of host memory, or for a flush, arrives at a host port, which fills its read cache and answers the waiting request. -/
  | hostPcieCompletion (req : Nat)
  /-- BAR2_PEER_WRITE (R466). An NVMe controller writes read data into HBM through BAR2 for a storage copy, and the blocks land in any order. -/
  | bar2PeerWrite (pod entry block : Nat) (data : List Byte)
  /-- NOP (R123). Does nothing. -/
  | nop
  /-- RET (R107). Raises store fill, return underflow or window fill when needed; otherwise pops the newest return address, moves the window back and jumps. -/
  | ret
  /-- RETT (R120). Checks EPC, restores STAT from ESTAT, replays held failed accesses, discards the fetch buffer and returns, resuming any repetition. -/
  | rett
  /-- HALT (R123). Waits for earlier results, drains, and then retires the core. -/
  | halt
  /-- ISYNC (R123). Waits for earlier stores to take effect, then discards the fetch buffer and refetches. -/
  | isync
  /-- BKPT (R121). Enters breakpoint cause 0x16, or requests a breakpoint stop when DBGCTL.BKS is set. -/
  | bkpt
  /-- WAIT (R208). Drains, then waits at the Chorus unit for a release, withdrawal or fault. -/
  | wait
  /-- TIMER_EXPIRY (R33). REFT reaches TCMP and the timer interrupt becomes pending. -/
  | timerExpiry
  /-- TIMER_INTERRUPT (R119). A pending timer interrupt is taken at a boundary with IE = 1 and HM = 0. -/
  | timerInterrupt
  /-- GRANT_EVENT_INTERRUPT (R367). A pending grant-event interrupt is taken at a boundary. -/
  | grantEventInterrupt
  /-- CORE_START (R181). Once its image and forwarding are complete, a core sets TVEC, WSTK, RASB and PC and issues. -/
  | coreStart
  /-- WAIT_WITHDRAWAL (R209). An interrupt's withdrawal reaches the unit and removes an unfired member. -/
  | waitWithdrawal
  /-- WAITA_WITHDRAWAL (R265). An interrupt's WAITA withdrawal reaches the destination and frees an armed entry. -/
  | waitaWithdrawal
  /-- LAP_START (R344). A lap starts, with pending image, RINGCTL and lane changes taking effect. -/
  | lapStart
  /-- FRAME_INJECT (R344). Station 0 injects a frame's beats. -/
  | frameInject
  /-- MODULE_ALARM (R368). A regulator or temperature alarm triggers an emergency cut. -/
  | moduleAlarm
  /-- PAUSE_END (R368). All domains resume together after the emergency pause. -/
  | pauseEnd
  /-- LEASE_EXPIRY (R370). A cap lease expires and the cap drops to the floor. -/
  | leaseExpiry
  /-- NET_MEM_SWITCH (R366). The package network and memory multipliers change at the qualifying edge, followed by a re-search. -/
  | netMemSwitch
  /-- BUDGET_INTERVAL (R371). A byte-budget interval ends, counts reset and held requests are admitted. -/
  | budgetInterval
  /-- QUANTUM_END (R432). A quantum ends and a switch begins with stop requests. -/
  | quantumEnd
  /-- PACKAGE_RESET (R460). A package reset sets every register, table, cap, lap counter and grant to its reset value, and bring-up then begins. -/
  | packageReset
  deriving DecidableEq, Repr

end Sys2Proof
end

