-- ==== Sys2Proof/WellFormed.lean ====
section
/-! DEFINITION. Well-formed instructions: each constructor holds what its row of the opcode table names, and an event names things the package has (R3, R34, R55, R183, R190, R387). -/

namespace Sys2Proof

/-- The number of the control register WSE, which MFC and MTC reach under rows of their own (R34). -/
def wseNumber : BitVec 8 := 0x09

/-- The number of the control register RASE, which MFC and MTC reach under rows of their own (R18, R34). -/
def raseNumber : BitVec 8 := 0x0C

/-- The control-register number of an MFC or MTC tail, imm20[7:0] (R123). -/
def TailI.crNumber (t : TailI) : BitVec 8 := t.imm.extractLsb' 0 8

/-- An opcode that R56 to R68 do not list (R55). -/
def Opcode.isUnassigned (op : Opcode) : Bool :=
  !(assignedFunctions (op.extractLsb' 8 4) |>.contains (op.extractLsb' 0 8))
where
  /-- The function codes of each class (R56 to R68). -/
  assignedFunctions (c : BitVec 4) : List (BitVec 8) :=
    match c.toNat with
    | 0 => [0x00, 0x01, 0x02, 0x03, 0x04, 0x05, 0x06, 0x07, 0x08, 0x09, 0x0A, 0x0B, 0x0C, 0x0D, 0x0E, 0x0F, 0x10, 0x11]
    | 1 => [0x00, 0x01, 0x02, 0x03, 0x04, 0x05, 0x06, 0x07, 0x08, 0x09, 0x0A, 0x0B, 0x0C, 0x0D, 0x0E, 0x0F, 0x10, 0x11, 0x12, 0x13, 0x14, 0x15, 0x16, 0x17, 0x18, 0x19, 0x1A, 0x1B, 0x1C, 0x1D, 0x1E, 0x1F, 0x20, 0x21, 0x22, 0x23]
    | 2 => [0x00, 0x02, 0x06, 0x07, 0x08, 0x0B, 0x0C, 0x0D, 0x0E, 0x0F, 0x10, 0x11, 0x12, 0x1B, 0x1F, 0x20, 0x21, 0x30, 0x31, 0x32]
    | 3 => [0x00, 0x01, 0x02, 0x03, 0x04, 0x05, 0x06, 0x07]
    | 4 => [0x00, 0x01, 0x02, 0x03, 0x04, 0x05, 0x06, 0x07, 0x08, 0x09, 0x0A, 0x0B, 0x0C, 0x0D, 0x0E]
    | 5 => [0x00, 0x01, 0x02, 0x03, 0x04, 0x05, 0x06, 0x07, 0x08, 0x09, 0x0A, 0x0B, 0x0C, 0x0D, 0x0E, 0x0F, 0x10, 0x11, 0x12]
    | 6 => [0x00, 0x01, 0x02, 0x03, 0x04, 0x05, 0x06, 0x07, 0x08, 0x09, 0x0A, 0x0B, 0x0C, 0x0D, 0x0E, 0x0F]
    | 7 => [0x00, 0x01, 0x02, 0x03, 0x04, 0x05, 0x06, 0x07, 0x08, 0x09, 0x0A]
    | 8 => [0x00, 0x01, 0x02, 0x03, 0x04, 0x05, 0x06, 0x07]
    | 9 => [0x00, 0x01, 0x02, 0x03]
    | 10 => [0x00, 0x01, 0x02, 0x03, 0x04, 0x05, 0x06, 0x07]
    | 11 => [0x00, 0x01, 0x02, 0x03, 0x04, 0x05]
    | 12 => [0x00, 0x01, 0x02, 0x03]
    | _ => []

/-- Cores of the package (R3). -/
def coreCount : Nat := 8192

/-- Pods of the package (R3). -/
def podCount : Nat := 1024

/-- Units of one Chorus level: super-groups, dies, the package (R197). -/
def chorusUnits : Nat → Nat
  | 0 => 128
  | 1 => 8
  | 2 => 1
  | _ => 0

/-- Well-formedness of one step. -/
def Instr.wf : Instr → Bool
  | .j _ => true
  | .jr _ => true
  | .call _ => true
  | .callr _ => true
  | .loop _ => true
  | .rep _ => true
  | .trap _ => true
  | .mfc t => t.crNumber != wseNumber && t.crNumber != raseNumber
  | .mtc t => t.crNumber != wseNumber && t.crNumber != raseNumber
  | .gd _ => true
  | .fmt _ => true
  | .add _ => true
  | .sub _ => true
  | .mul _ => true
  | .mulh _ => true
  | .div _ => true
  | .rem _ => true
  | .and _ => true
  | .or _ => true
  | .xor _ => true
  | .andn _ => true
  | .orn _ => true
  | .shl _ => true
  | .shr _ => true
  | .sar _ => true
  | .rol _ => true
  | .ror _ => true
  | .min _ => true
  | .max _ => true
  | .adds _ => true
  | .subs _ => true
  | .abs _ => true
  | .neg _ => true
  | .clz _ => true
  | .ctz _ => true
  | .popc _ => true
  | .brev _ => true
  | .bswap _ => true
  | .cmp _ => true
  | .sel _ => true
  | .bfx _ => true
  | .bfi _ => true
  | .bset _ => true
  | .bclr _ => true
  | .btgl _ => true
  | .clmul _ => true
  | .clmulh _ => true
  | .addImm _ => true
  | .mulImm _ => true
  | .andImm _ => true
  | .orImm _ => true
  | .xorImm _ => true
  | .shlImm _ => true
  | .shrImm _ => true
  | .sarImm _ => true
  | .rolImm _ => true
  | .rorImm _ => true
  | .minImm _ => true
  | .maxImm _ => true
  | .addsImm _ => true
  | .cmpImm _ => true
  | .bsetImm _ => true
  | .bclrImm _ => true
  | .btglImm _ => true
  | .li _ => true
  | .lih _ => true
  | .lea _ => true
  | .ld _ => true
  | .st _ => true
  | .ldv _ => true
  | .stv _ => true
  | .ldvs _ => true
  | .stvs _ => true
  | .ldp _ => true
  | .stp _ => true
  | .ldn _ => true
  | .stn _ => true
  | .ldg _ => true
  | .stg _ => true
  | .ldgv _ => true
  | .stgv _ => true
  | .amo _ => true
  | .putc _ => true
  | .waitc _ => true
  | .waita _ => true
  | .wake _ => true
  | .fence _ => true
  | .flush _ => true
  | .inbox _ => true
  | .capgive _ => true
  | .vadd _ => true
  | .vsub _ => true
  | .vmul _ => true
  | .vfma _ => true
  | .vfms _ => true
  | .vfnma _ => true
  | .vdiv _ => true
  | .vsqrt _ => true
  | .vrcp _ => true
  | .vrsq _ => true
  | .vexp2 _ => true
  | .vlog2 _ => true
  | .vmin _ => true
  | .vmax _ => true
  | .vabs _ => true
  | .vneg _ => true
  | .vcmp _ => true
  | .vsel _ => true
  | .vclass _ => true
  | .viadd _ => true
  | .visub _ => true
  | .vimul _ => true
  | .vimad _ => true
  | .vimin _ => true
  | .vimax _ => true
  | .vand _ => true
  | .vor _ => true
  | .vxor _ => true
  | .vshl _ => true
  | .vshr _ => true
  | .vsar _ => true
  | .viadds _ => true
  | .vicmp _ => true
  | .vclmul _ => true
  | .vrng _ => true
  | .vmov _ => true
  | .vbcast _ => true
  | .vins _ => true
  | .vext _ => true
  | .vperm _ => true
  | .vrot _ => true
  | .vcvt _ => true
  | .vpack _ => true
  | .vunpk _ => true
  | .vqnt _ => true
  | .vdqnt _ => true
  | .vred _ => true
  | .vdot _ => true
  | .vdist _ => true
  | .vtopk _ => true
  | .vgath _ => true
  | .vscat _ => true
  | .vpopc _ => true
  | .vscan _ => true
  | .send _ => true
  | .muxsel _ => true
  | .recv _ => true
  | .recvm _ => true
  | .mclaim _ => true
  | .mrel _ => true
  | .mload _ => true
  | .mstore _ => true
  | .mzero _ => true
  | .mgang _ => true
  | .mdrain _ => true
  | .mgeo _ => true
  | .copy _ => true
  | .jtest _ => true
  | .jwait _ => true
  | .board _ => true
  | .bstat _ => true
  | .covqNext t => t.m == 0
  | .covqRank t => t.m == 1
  | .covqInfo t => t.m == 2
  | .covqKeep t => t.m == 3
  | .trace _ => true
  | .lacc _ => true
  | .laccz _ => true
  | .gov _ => true
  | .wseRead t => t.crNumber == wseNumber
  | .wseWrite t => t.crNumber == wseNumber
  | .raseRead t => t.crNumber == raseNumber
  | .raseWrite t => t.crNumber == raseNumber
  | .varResultArrival core _ => decide (core < coreCount)
  | .workQueueDoorbell _ _ _ => true
  | .launchBlockFetch _ => true
  | .launchStart _ => true
  | .wakeMessage _ router => decide (router < 128)
  | .bootImageArrival _ core => decide (core < coreCount)
  | .launchCompletion _ => true
  | .chorusStart _ level unit => decide (unit < chorusUnits level)
  | .chorusRecordRead _ level unit => decide (unit < chorusUnits level)
  | .maskFire _ level unit _ => decide (unit < chorusUnits level)
  | .chorusReportArrival _ level unit _ => decide (unit < chorusUnits level)
  | .chorusRelease _ => true
  | .orphanWait _ level unit => decide (unit < chorusUnits level)
  | .chorusWatchdog _ level unit => decide (unit < chorusUnits level)
  | .exchangeWordArrival _ => true
  | .destinationRequest _ => true
  | .responseArrival _ => true
  | .releaseSend _ => true
  | .inboxMessageArrival _ => true
  | .capabilityHandover _ => true
  | .packetArrival _ => true
  | .outputArbitration router _ => decide (router < 128)
  | .ageUrgent router _ _ => decide (router < 128)
  | .copyAccept pod => decide (pod < podCount)
  | .copyJobStart pod => decide (pod < podCount)
  | .copyRequestIssue pod => decide (pod < podCount)
  | .copyPieceWrite pod _ _ => decide (pod < podCount)
  | .nvmeCompletion pod _ _ => decide (pod < podCount)
  | .copyJobComplete pod _ => decide (pod < podCount)
  | .matrixCommandAccept pod core => decide (core < coreCount) && decide (pod < podCount)
  | .gangComplete pod => decide (pod < podCount)
  | .mloadComplete pod _ => decide (pod < podCount)
  | .mstoreComplete pod _ => decide (pod < podCount)
  | .mdrainComplete pod _ => decide (pod < podCount)
  | .mrelFree pod _ => decide (pod < podCount)
  | .feederFrameDelivery die => decide (die < 8)
  | .boardArmEffect pod _ => decide (pod < podCount)
  | .segmentHeaderArrival station _ => decide (station < 8)
  | .tapFrameAct pod _ _ => decide (pod < podCount)
  | .capToken _ => true
  | .vptWrite _ _ _ => true
  | .axolotlRun _ => true
  | .partitionStop part => decide (part < 128)
  | .stopComplete part => decide (part < 128)
  | .yieldDeadline part => decide (part < 128)
  | .exchangeGrace part => decide (part < 128)
  | .partitionResume part => decide (part < 128)
  | .partitionReset part => decide (part < 128)
  | .partitionReplay part _ => decide (part < 128)
  | .contextSaveComplete part => decide (part < 128)
  | .scrubComplete sg => decide (sg < 128)
  | .contextRestoreComplete part => decide (part < 128)
  | .partitionCommit _ => true
  | .invStage1Page _ _ _ => true
  | .invStage1All _ => true
  | .invStage2Frame _ _ _ => true
  | .invStage2All _ => true
  | .invalidationComplete _ => true
  | .dbgRead part => decide (part < 128)
  | .dbgWrite part _ => decide (part < 128)
  | .hostWindowWrite die _ _ _ => decide (die < 8)
  | .linkFlitArrival _ _ _ => true
  | .linkTimeout _ => true
  | .unitReady _ _ => true
  | .unitNotReady _ _ => true
  | .registerWrite _ _ _ => true
  | .unassignedOpcode op t => (op.isUnassigned && t == ⟨0, 0, 0, 0, 0⟩) || (op == 0xB05 && 3 < t.m)
  | .spareSwap _ _ _ => true
  | .hostPcieCompletion _ => true
  | .bar2PeerWrite pod _ _ _ => decide (pod < podCount)
  | .nop => true
  | .ret => true
  | .rett => true
  | .halt => true
  | .isync => true
  | .bkpt => true
  | .wait => true
  | .timerExpiry => true
  | .timerInterrupt => true
  | .grantEventInterrupt => true
  | .coreStart => true
  | .waitWithdrawal => true
  | .waitaWithdrawal => true
  | .lapStart => true
  | .frameInject => true
  | .moduleAlarm => true
  | .pauseEnd => true
  | .leaseExpiry => true
  | .netMemSwitch => true
  | .budgetInterval => true
  | .quantumEnd => true
  | .packageReset => true

end Sys2Proof
end

