-- ==== Sys2Proof/Decode.lean ====
section
/-! DEFINITION. Decoding of instruction lines, heads and tails, and the encoder (R38 to R43, R55 to R68). -/

namespace Sys2Proof

/-- Fields of an H tail (R40). -/
def TailH.ofBits (t : BitVec 64) : TailH :=
  ⟨t.extractLsb' 0 6, t.extractLsb' 6 6, t.extractLsb' 12 4⟩

/-- Fields of a W tail (R40). -/
def TailW.ofBits (t : BitVec 64) : TailW :=
  ⟨t.extractLsb' 0 6, t.extractLsb' 6 6, t.extractLsb' 12 6, t.extractLsb' 18 6, t.extractLsb' 24 8⟩

/-- Fields of an I tail (R40). -/
def TailI.ofBits (t : BitVec 64) : TailI :=
  ⟨t.extractLsb' 0 6, t.extractLsb' 6 6, t.extractLsb' 12 20⟩

/-- Fields of an L tail (R40). -/
def TailL.ofBits (t : BitVec 64) : TailL :=
  ⟨t.extractLsb' 0 6, t.extractLsb' 6 6, t.extractLsb' 12 6, t.extractLsb' 18 30⟩

/-- Fields of a D tail (R40). -/
def TailD.ofBits (t : BitVec 64) : TailD :=
  ⟨t.extractLsb' 0 6, t.extractLsb' 6 6, t.extractLsb' 12 6, t.extractLsb' 18 6, t.extractLsb' 24 8,
    t.extractLsb' 32 32⟩

/-- The integer of an H tail (R40). -/
def TailH.toBits (t : TailH) : BitVec 16 := (t.f ++ t.b ++ t.a).cast (by decide)

/-- The integer of a W tail (R40). -/
def TailW.toBits (t : TailW) : BitVec 32 := (t.m ++ t.c ++ t.b ++ t.a ++ t.d).cast (by decide)

/-- The integer of an I tail (R40). -/
def TailI.toBits (t : TailI) : BitVec 32 := (t.imm ++ t.a ++ t.d).cast (by decide)

/-- The integer of an L tail (R40). -/
def TailL.toBits (t : TailL) : BitVec 48 := (t.imm ++ t.b ++ t.a ++ t.d).cast (by decide)

/-- The integer of a D tail (R40). -/
def TailD.toBits (t : TailD) : BitVec 64 := (t.imm ++ t.m ++ t.c ++ t.b ++ t.a ++ t.d).cast (by decide)

/-- An MFC or MTC, split by the register it names: WSE and RASE have rows of their own (R18, R34). -/
def decodeCr (t : TailI) (other wse rase : TailI → Instr) : Instr :=
  if t.crNumber = wseNumber then wse t
  else if t.crNumber = raseNumber then rase t
  else other t

/-- COVQ, split by its m field; an m value that no rule assigns is an unassigned form (R190, R387). -/
def decodeCovq (t : TailW) : Instr :=
  if t.m = 0 then .covqNext t
  else if t.m = 1 then .covqRank t
  else if t.m = 2 then .covqInfo t
  else if t.m = 3 then .covqKeep t
  else .unassignedOpcode 0xB05 t


/-- The bytes of tail that an opcode takes (R40, R56 to R68); an unassigned opcode counts as form Z. -/
def tailBytes (op : Opcode) : Nat :=
  match op.toNat with
  | 0x002 | 0x004 | 0x00E | 0x900 => 2
  | 0x001 | 0x003 | 0x007 | 0x008 | 0x00C | 0x00D | 0x00F | 0x100 | 0x101 | 0x102 => 4
  | 0x103 | 0x104 | 0x105 | 0x106 | 0x107 | 0x108 | 0x109 | 0x10A | 0x10B | 0x10C => 4
  | 0x10D | 0x10E | 0x10F | 0x110 | 0x111 | 0x112 | 0x113 | 0x114 | 0x115 | 0x116 => 4
  | 0x117 | 0x118 | 0x119 | 0x11A | 0x11B | 0x11C | 0x11D | 0x11E | 0x11F | 0x120 => 4
  | 0x121 | 0x122 | 0x123 | 0x304 | 0x305 | 0x408 | 0x40B | 0x40D | 0x500 | 0x501 => 4
  | 0x502 | 0x503 | 0x504 | 0x505 | 0x506 | 0x507 | 0x508 | 0x509 | 0x50A | 0x50B => 4
  | 0x50C | 0x50D | 0x50E | 0x50F | 0x510 | 0x511 | 0x512 | 0x600 | 0x601 | 0x602 => 4
  | 0x603 | 0x604 | 0x605 | 0x606 | 0x607 | 0x608 | 0x609 | 0x60A | 0x60B | 0x60C => 4
  | 0x60D | 0x60E | 0x700 | 0x701 | 0x702 | 0x703 | 0x704 | 0x705 | 0x706 | 0x707 => 4
  | 0x708 | 0x709 | 0x70A | 0x800 | 0x801 | 0x803 | 0x804 | 0x805 | 0x806 | 0x807 => 4
  | 0x901 | 0x902 | 0x903 | 0xA00 | 0xA01 | 0xA04 | 0xA05 | 0xA07 | 0xB01 | 0xB02 => 4
  | 0xB04 | 0xB05 | 0xC01 | 0xC02 | 0xC03 => 4
  | 0x006 | 0x200 | 0x202 | 0x206 | 0x207 | 0x208 | 0x20B | 0x20C | 0x20D | 0x20E => 6
  | 0x20F | 0x210 | 0x211 | 0x212 | 0x21B | 0x21F | 0x220 | 0x221 | 0x300 | 0x301 => 6
  | 0x302 | 0x303 | 0x306 | 0x307 => 6
  | 0x230 | 0x231 | 0x232 | 0x400 | 0x401 | 0x402 | 0x403 | 0x404 | 0x405 | 0x406 => 8
  | 0x407 | 0x409 | 0x40A | 0x40C | 0x40E | 0x60F | 0x802 | 0xA02 | 0xA03 | 0xA06 => 8
  | 0xB00 | 0xB03 | 0xC00 => 8
  | _ => 0

/-- Class 0x0 of the opcode map: the instruction of function `f` with tail `t` (R56). -/
def decodeClass0 (f : Nat) (t : BitVec 64) : Option Instr :=
  match f with
  | 0x00 => some .nop
  | 0x01 => some (.j (TailI.ofBits t))
  | 0x02 => some (.jr (TailH.ofBits t))
  | 0x03 => some (.call (TailI.ofBits t))
  | 0x04 => some (.callr (TailH.ofBits t))
  | 0x05 => some .ret
  | 0x06 => some (.loop (TailL.ofBits t))
  | 0x07 => some (.rep (TailI.ofBits t))
  | 0x08 => some (.trap (TailI.ofBits t))
  | 0x09 => some .rett
  | 0x0A => some .halt
  | 0x0B => some .isync
  | 0x0C => some (decodeCr (TailI.ofBits t) Instr.mfc Instr.wseRead Instr.raseRead)
  | 0x0D => some (decodeCr (TailI.ofBits t) Instr.mtc Instr.wseWrite Instr.raseWrite)
  | 0x0E => some (.gd (TailH.ofBits t))
  | 0x0F => some (.fmt (TailW.ofBits t))
  | 0x10 => some .bkpt
  | 0x11 => some .wait
  | _ => none

/-- Class 0x1 of the opcode map: the instruction of function `f` with tail `t` (R57). -/
def decodeClass1 (f : Nat) (t : BitVec 64) : Option Instr :=
  match f with
  | 0x00 => some (.add (TailW.ofBits t))
  | 0x01 => some (.sub (TailW.ofBits t))
  | 0x02 => some (.mul (TailW.ofBits t))
  | 0x03 => some (.mulh (TailW.ofBits t))
  | 0x04 => some (.div (TailW.ofBits t))
  | 0x05 => some (.rem (TailW.ofBits t))
  | 0x06 => some (.and (TailW.ofBits t))
  | 0x07 => some (.or (TailW.ofBits t))
  | 0x08 => some (.xor (TailW.ofBits t))
  | 0x09 => some (.andn (TailW.ofBits t))
  | 0x0A => some (.orn (TailW.ofBits t))
  | 0x0B => some (.shl (TailW.ofBits t))
  | 0x0C => some (.shr (TailW.ofBits t))
  | 0x0D => some (.sar (TailW.ofBits t))
  | 0x0E => some (.rol (TailW.ofBits t))
  | 0x0F => some (.ror (TailW.ofBits t))
  | 0x10 => some (.min (TailW.ofBits t))
  | 0x11 => some (.max (TailW.ofBits t))
  | 0x12 => some (.adds (TailW.ofBits t))
  | 0x13 => some (.subs (TailW.ofBits t))
  | 0x14 => some (.abs (TailW.ofBits t))
  | 0x15 => some (.neg (TailW.ofBits t))
  | 0x16 => some (.clz (TailW.ofBits t))
  | 0x17 => some (.ctz (TailW.ofBits t))
  | 0x18 => some (.popc (TailW.ofBits t))
  | 0x19 => some (.brev (TailW.ofBits t))
  | 0x1A => some (.bswap (TailW.ofBits t))
  | 0x1B => some (.cmp (TailW.ofBits t))
  | 0x1C => some (.sel (TailW.ofBits t))
  | 0x1D => some (.bfx (TailW.ofBits t))
  | 0x1E => some (.bfi (TailW.ofBits t))
  | 0x1F => some (.bset (TailW.ofBits t))
  | 0x20 => some (.bclr (TailW.ofBits t))
  | 0x21 => some (.btgl (TailW.ofBits t))
  | 0x22 => some (.clmul (TailW.ofBits t))
  | 0x23 => some (.clmulh (TailW.ofBits t))
  | _ => none

/-- Class 0x2 of the opcode map: the instruction of function `f` with tail `t` (R58). -/
def decodeClass2 (f : Nat) (t : BitVec 64) : Option Instr :=
  match f with
  | 0x00 => some (.addImm (TailL.ofBits t))
  | 0x02 => some (.mulImm (TailL.ofBits t))
  | 0x06 => some (.andImm (TailL.ofBits t))
  | 0x07 => some (.orImm (TailL.ofBits t))
  | 0x08 => some (.xorImm (TailL.ofBits t))
  | 0x0B => some (.shlImm (TailL.ofBits t))
  | 0x0C => some (.shrImm (TailL.ofBits t))
  | 0x0D => some (.sarImm (TailL.ofBits t))
  | 0x0E => some (.rolImm (TailL.ofBits t))
  | 0x0F => some (.rorImm (TailL.ofBits t))
  | 0x10 => some (.minImm (TailL.ofBits t))
  | 0x11 => some (.maxImm (TailL.ofBits t))
  | 0x12 => some (.addsImm (TailL.ofBits t))
  | 0x1B => some (.cmpImm (TailL.ofBits t))
  | 0x1F => some (.bsetImm (TailL.ofBits t))
  | 0x20 => some (.bclrImm (TailL.ofBits t))
  | 0x21 => some (.btglImm (TailL.ofBits t))
  | 0x30 => some (.li (TailD.ofBits t))
  | 0x31 => some (.lih (TailD.ofBits t))
  | 0x32 => some (.lea (TailD.ofBits t))
  | _ => none

/-- Class 0x3 of the opcode map: the instruction of function `f` with tail `t` (R59). -/
def decodeClass3 (f : Nat) (t : BitVec 64) : Option Instr :=
  match f with
  | 0x00 => some (.ld (TailL.ofBits t))
  | 0x01 => some (.st (TailL.ofBits t))
  | 0x02 => some (.ldv (TailL.ofBits t))
  | 0x03 => some (.stv (TailL.ofBits t))
  | 0x04 => some (.ldvs (TailW.ofBits t))
  | 0x05 => some (.stvs (TailW.ofBits t))
  | 0x06 => some (.ldp (TailL.ofBits t))
  | 0x07 => some (.stp (TailL.ofBits t))
  | _ => none

/-- Class 0x4 of the opcode map: the instruction of function `f` with tail `t` (R60). -/
def decodeClass4 (f : Nat) (t : BitVec 64) : Option Instr :=
  match f with
  | 0x00 => some (.ldn (TailD.ofBits t))
  | 0x01 => some (.stn (TailD.ofBits t))
  | 0x02 => some (.ldg (TailD.ofBits t))
  | 0x03 => some (.stg (TailD.ofBits t))
  | 0x04 => some (.ldgv (TailD.ofBits t))
  | 0x05 => some (.stgv (TailD.ofBits t))
  | 0x06 => some (.amo (TailD.ofBits t))
  | 0x07 => some (.putc (TailD.ofBits t))
  | 0x08 => some (.waitc (TailW.ofBits t))
  | 0x09 => some (.waita (TailD.ofBits t))
  | 0x0A => some (.wake (TailD.ofBits t))
  | 0x0B => some (.fence (TailW.ofBits t))
  | 0x0C => some (.flush (TailD.ofBits t))
  | 0x0D => some (.inbox (TailW.ofBits t))
  | 0x0E => some (.capgive (TailD.ofBits t))
  | _ => none

/-- Class 0x5 of the opcode map: the instruction of function `f` with tail `t` (R61). -/
def decodeClass5 (f : Nat) (t : BitVec 64) : Option Instr :=
  match f with
  | 0x00 => some (.vadd (TailW.ofBits t))
  | 0x01 => some (.vsub (TailW.ofBits t))
  | 0x02 => some (.vmul (TailW.ofBits t))
  | 0x03 => some (.vfma (TailW.ofBits t))
  | 0x04 => some (.vfms (TailW.ofBits t))
  | 0x05 => some (.vfnma (TailW.ofBits t))
  | 0x06 => some (.vdiv (TailW.ofBits t))
  | 0x07 => some (.vsqrt (TailW.ofBits t))
  | 0x08 => some (.vrcp (TailW.ofBits t))
  | 0x09 => some (.vrsq (TailW.ofBits t))
  | 0x0A => some (.vexp2 (TailW.ofBits t))
  | 0x0B => some (.vlog2 (TailW.ofBits t))
  | 0x0C => some (.vmin (TailW.ofBits t))
  | 0x0D => some (.vmax (TailW.ofBits t))
  | 0x0E => some (.vabs (TailW.ofBits t))
  | 0x0F => some (.vneg (TailW.ofBits t))
  | 0x10 => some (.vcmp (TailW.ofBits t))
  | 0x11 => some (.vsel (TailW.ofBits t))
  | 0x12 => some (.vclass (TailW.ofBits t))
  | _ => none

/-- Class 0x6 of the opcode map: the instruction of function `f` with tail `t` (R62). -/
def decodeClass6 (f : Nat) (t : BitVec 64) : Option Instr :=
  match f with
  | 0x00 => some (.viadd (TailW.ofBits t))
  | 0x01 => some (.visub (TailW.ofBits t))
  | 0x02 => some (.vimul (TailW.ofBits t))
  | 0x03 => some (.vimad (TailW.ofBits t))
  | 0x04 => some (.vimin (TailW.ofBits t))
  | 0x05 => some (.vimax (TailW.ofBits t))
  | 0x06 => some (.vand (TailW.ofBits t))
  | 0x07 => some (.vor (TailW.ofBits t))
  | 0x08 => some (.vxor (TailW.ofBits t))
  | 0x09 => some (.vshl (TailW.ofBits t))
  | 0x0A => some (.vshr (TailW.ofBits t))
  | 0x0B => some (.vsar (TailW.ofBits t))
  | 0x0C => some (.viadds (TailW.ofBits t))
  | 0x0D => some (.vicmp (TailW.ofBits t))
  | 0x0E => some (.vclmul (TailW.ofBits t))
  | 0x0F => some (.vrng (TailD.ofBits t))
  | _ => none

/-- Class 0x7 of the opcode map: the instruction of function `f` with tail `t` (R63). -/
def decodeClass7 (f : Nat) (t : BitVec 64) : Option Instr :=
  match f with
  | 0x00 => some (.vmov (TailW.ofBits t))
  | 0x01 => some (.vbcast (TailW.ofBits t))
  | 0x02 => some (.vins (TailW.ofBits t))
  | 0x03 => some (.vext (TailW.ofBits t))
  | 0x04 => some (.vperm (TailW.ofBits t))
  | 0x05 => some (.vrot (TailW.ofBits t))
  | 0x06 => some (.vcvt (TailW.ofBits t))
  | 0x07 => some (.vpack (TailW.ofBits t))
  | 0x08 => some (.vunpk (TailW.ofBits t))
  | 0x09 => some (.vqnt (TailW.ofBits t))
  | 0x0A => some (.vdqnt (TailW.ofBits t))
  | _ => none

/-- Class 0x8 of the opcode map: the instruction of function `f` with tail `t` (R64). -/
def decodeClass8 (f : Nat) (t : BitVec 64) : Option Instr :=
  match f with
  | 0x00 => some (.vred (TailW.ofBits t))
  | 0x01 => some (.vdot (TailW.ofBits t))
  | 0x02 => some (.vdist (TailD.ofBits t))
  | 0x03 => some (.vtopk (TailW.ofBits t))
  | 0x04 => some (.vgath (TailW.ofBits t))
  | 0x05 => some (.vscat (TailW.ofBits t))
  | 0x06 => some (.vpopc (TailW.ofBits t))
  | 0x07 => some (.vscan (TailW.ofBits t))
  | _ => none

/-- Class 0x9 of the opcode map: the instruction of function `f` with tail `t` (R65). -/
def decodeClass9 (f : Nat) (t : BitVec 64) : Option Instr :=
  match f with
  | 0x00 => some (.send (TailH.ofBits t))
  | 0x01 => some (.muxsel (TailI.ofBits t))
  | 0x02 => some (.recv (TailI.ofBits t))
  | 0x03 => some (.recvm (TailI.ofBits t))
  | _ => none

/-- Class 0xA of the opcode map: the instruction of function `f` with tail `t` (R66). -/
def decodeClassA (f : Nat) (t : BitVec 64) : Option Instr :=
  match f with
  | 0x00 => some (.mclaim (TailW.ofBits t))
  | 0x01 => some (.mrel (TailW.ofBits t))
  | 0x02 => some (.mload (TailD.ofBits t))
  | 0x03 => some (.mstore (TailD.ofBits t))
  | 0x04 => some (.mzero (TailW.ofBits t))
  | 0x05 => some (.mgang (TailW.ofBits t))
  | 0x06 => some (.mdrain (TailD.ofBits t))
  | 0x07 => some (.mgeo (TailW.ofBits t))
  | _ => none

/-- Class 0xB of the opcode map: the instruction of function `f` with tail `t` (R67). -/
def decodeClassB (f : Nat) (t : BitVec 64) : Option Instr :=
  match f with
  | 0x00 => some (.copy (TailD.ofBits t))
  | 0x01 => some (.jtest (TailW.ofBits t))
  | 0x02 => some (.jwait (TailW.ofBits t))
  | 0x03 => some (.board (TailD.ofBits t))
  | 0x04 => some (.bstat (TailW.ofBits t))
  | 0x05 => some (decodeCovq (TailW.ofBits t))
  | _ => none

/-- Class 0xC of the opcode map: the instruction of function `f` with tail `t` (R68). -/
def decodeClassC (f : Nat) (t : BitVec 64) : Option Instr :=
  match f with
  | 0x00 => some (.trace (TailD.ofBits t))
  | 0x01 => some (.lacc (TailW.ofBits t))
  | 0x02 => some (.laccz (TailW.ofBits t))
  | 0x03 => some (.gov (TailI.ofBits t))
  | _ => none

/-- The instruction of a head's opcode and its tail: total, since an unassigned opcode is an instruction that faults (R55). -/
def decodeInstr (op : Opcode) (t : BitVec 64) : Instr :=
  let f := (op.extractLsb' 0 8).toNat
  let r :=
    match (op.extractLsb' 8 4).toNat with
    | 0x0 => decodeClass0 f t
    | 0x1 => decodeClass1 f t
    | 0x2 => decodeClass2 f t
    | 0x3 => decodeClass3 f t
    | 0x4 => decodeClass4 f t
    | 0x5 => decodeClass5 f t
    | 0x6 => decodeClass6 f t
    | 0x7 => decodeClass7 f t
    | 0x8 => decodeClass8 f t
    | 0x9 => decodeClass9 f t
    | 0xA => decodeClassA f t
    | 0xB => decodeClassB f t
    | 0xC => decodeClassC f t
    | _ => none
  r.getD (.unassignedOpcode op ⟨0, 0, 0, 0, 0⟩)

/-- L of a head: the last head of its line (R39). -/
def Head.last (h : Head) : Bool := h.getLsbD 15

/-- S of a head: the stall count (R39). -/
def Head.stall (h : Head) : Nat := (h.extractLsb' 12 3).toNat

/-- OP of a head (R39). -/
def Head.op (h : Head) : Opcode := h.extractLsb' 0 12

/-- One instruction of a decoded line: its head and its tail. -/
structure LineSlot where
  head : Head
  tail : BitVec 64
  deriving DecidableEq, Repr

/-- Why a line is malformed (R41). -/
inductive LineError where
  /-- The heads and the tails run into each other. -/
  | headsMeetTails
  /-- A byte between the last head and the lowest tail is not zero. -/
  | paddingNotZero
  /-- No head of the line has L = 1. -/
  | noLastHead
  deriving DecidableEq, Repr

/-- The head at byte 2i of a line (R38, R41). -/
def Line.headAt (l : Line) (i : Nat) : Head := l.extractLsb' (16 * i) 16

/-- The tail of `size` bytes whose topmost byte lies `used` bytes below the end of the line (R41). -/
def Line.tailAt (l : Line) (used size : Nat) : BitVec 64 :=
  (l.extractLsb' (8 * (64 - used - size)) 64) &&& BitVec.ofNat 64 (2 ^ (8 * size) - 1)

/-- Whether every byte from byte `lo` up to but not including byte `hi` is zero. -/
def Line.zeroBetween (l : Line) (lo hi : Nat) : Bool :=
  (l.toNat / 2 ^ (8 * lo)) % 2 ^ (8 * (hi - lo)) == 0

/-- The loop of DecodeLine from head `i` on, with `used` tail bytes taken so far (R41). -/
def decodeLineFrom (l : Line) : (fuel i used : Nat) → Except LineError (List LineSlot)
  | 0, _, _ => .error .noLastHead
  | fuel + 1, i, used =>
    let h := Line.headAt l i
    let size := tailBytes (Head.op h)
    let used' := used + size
    if 64 < 2 * (i + 1) + used' then .error .headsMeetTails
    else
      let slot : LineSlot := ⟨h, Line.tailAt l used size⟩
      if Head.last h then
        if Line.zeroBetween l (2 * (i + 1)) (64 - used') then .ok [slot] else .error .paddingNotZero
      else
        match decodeLineFrom l fuel (i + 1) used' with
        | .ok rest => .ok (slot :: rest)
        | .error e => .error e

/-- DecodeLine (R41): the heads and tails of a line, or why it is malformed. -/
def decodeLine (l : Line) : Except LineError (List LineSlot) := decodeLineFrom l 32 0 0

/-- The instruction that one slot of a line holds. -/
def LineSlot.instr (x : LineSlot) : Instr := decodeInstr (Head.op x.head) x.tail

/-- Why a string of bytes is no instruction. -/
inductive DecodeError where
  /-- Fewer than two bytes: no head. -/
  | truncatedHead
  /-- Fewer bytes than the opcode's tail takes. -/
  | truncatedTail
  deriving DecidableEq, Repr

/-- The little-endian value of the first `n` bytes (R7). -/
def leNat : (n : Nat) → List Byte → Nat
  | 0, _ => 0
  | _ + 1, [] => 0
  | n + 1, b :: bs => b.toNat + 256 * leNat n bs

/-- A head followed by its tail, as bytes: the head and instruction read, and the bytes that follow.
Total on every byte string; the tail's size is the one its opcode fixes (R40). -/
def decode (bs : List Byte) : Except DecodeError (Head × Instr × List Byte) :=
  match bs with
  | b0 :: b1 :: rest =>
    let h : Head := b1 ++ b0
    let size := tailBytes (Head.op h)
    if rest.length < size then .error .truncatedTail
    else .ok (h, decodeInstr (Head.op h) (BitVec.ofNat 64 (leNat size rest)), rest.drop size)
  | _ => .error .truncatedHead


/-- The opcode and the tail bits of an instruction, from the same tables (R40, R56 to R68); none for an event, which has no encoding. -/
def Instr.code : Instr → Option (Opcode × BitVec 64)
  | .j t => some (0x001, t.toBits.setWidth 64)
  | .jr t => some (0x002, t.toBits.setWidth 64)
  | .call t => some (0x003, t.toBits.setWidth 64)
  | .callr t => some (0x004, t.toBits.setWidth 64)
  | .loop t => some (0x006, t.toBits.setWidth 64)
  | .rep t => some (0x007, t.toBits.setWidth 64)
  | .trap t => some (0x008, t.toBits.setWidth 64)
  | .mfc t => some (0x00C, t.toBits.setWidth 64)
  | .mtc t => some (0x00D, t.toBits.setWidth 64)
  | .gd t => some (0x00E, t.toBits.setWidth 64)
  | .fmt t => some (0x00F, t.toBits.setWidth 64)
  | .add t => some (0x100, t.toBits.setWidth 64)
  | .sub t => some (0x101, t.toBits.setWidth 64)
  | .mul t => some (0x102, t.toBits.setWidth 64)
  | .mulh t => some (0x103, t.toBits.setWidth 64)
  | .div t => some (0x104, t.toBits.setWidth 64)
  | .rem t => some (0x105, t.toBits.setWidth 64)
  | .and t => some (0x106, t.toBits.setWidth 64)
  | .or t => some (0x107, t.toBits.setWidth 64)
  | .xor t => some (0x108, t.toBits.setWidth 64)
  | .andn t => some (0x109, t.toBits.setWidth 64)
  | .orn t => some (0x10A, t.toBits.setWidth 64)
  | .shl t => some (0x10B, t.toBits.setWidth 64)
  | .shr t => some (0x10C, t.toBits.setWidth 64)
  | .sar t => some (0x10D, t.toBits.setWidth 64)
  | .rol t => some (0x10E, t.toBits.setWidth 64)
  | .ror t => some (0x10F, t.toBits.setWidth 64)
  | .min t => some (0x110, t.toBits.setWidth 64)
  | .max t => some (0x111, t.toBits.setWidth 64)
  | .adds t => some (0x112, t.toBits.setWidth 64)
  | .subs t => some (0x113, t.toBits.setWidth 64)
  | .abs t => some (0x114, t.toBits.setWidth 64)
  | .neg t => some (0x115, t.toBits.setWidth 64)
  | .clz t => some (0x116, t.toBits.setWidth 64)
  | .ctz t => some (0x117, t.toBits.setWidth 64)
  | .popc t => some (0x118, t.toBits.setWidth 64)
  | .brev t => some (0x119, t.toBits.setWidth 64)
  | .bswap t => some (0x11A, t.toBits.setWidth 64)
  | .cmp t => some (0x11B, t.toBits.setWidth 64)
  | .sel t => some (0x11C, t.toBits.setWidth 64)
  | .bfx t => some (0x11D, t.toBits.setWidth 64)
  | .bfi t => some (0x11E, t.toBits.setWidth 64)
  | .bset t => some (0x11F, t.toBits.setWidth 64)
  | .bclr t => some (0x120, t.toBits.setWidth 64)
  | .btgl t => some (0x121, t.toBits.setWidth 64)
  | .clmul t => some (0x122, t.toBits.setWidth 64)
  | .clmulh t => some (0x123, t.toBits.setWidth 64)
  | .addImm t => some (0x200, t.toBits.setWidth 64)
  | .mulImm t => some (0x202, t.toBits.setWidth 64)
  | .andImm t => some (0x206, t.toBits.setWidth 64)
  | .orImm t => some (0x207, t.toBits.setWidth 64)
  | .xorImm t => some (0x208, t.toBits.setWidth 64)
  | .shlImm t => some (0x20B, t.toBits.setWidth 64)
  | .shrImm t => some (0x20C, t.toBits.setWidth 64)
  | .sarImm t => some (0x20D, t.toBits.setWidth 64)
  | .rolImm t => some (0x20E, t.toBits.setWidth 64)
  | .rorImm t => some (0x20F, t.toBits.setWidth 64)
  | .minImm t => some (0x210, t.toBits.setWidth 64)
  | .maxImm t => some (0x211, t.toBits.setWidth 64)
  | .addsImm t => some (0x212, t.toBits.setWidth 64)
  | .cmpImm t => some (0x21B, t.toBits.setWidth 64)
  | .bsetImm t => some (0x21F, t.toBits.setWidth 64)
  | .bclrImm t => some (0x220, t.toBits.setWidth 64)
  | .btglImm t => some (0x221, t.toBits.setWidth 64)
  | .li t => some (0x230, t.toBits.setWidth 64)
  | .lih t => some (0x231, t.toBits.setWidth 64)
  | .lea t => some (0x232, t.toBits.setWidth 64)
  | .ld t => some (0x300, t.toBits.setWidth 64)
  | .st t => some (0x301, t.toBits.setWidth 64)
  | .ldv t => some (0x302, t.toBits.setWidth 64)
  | .stv t => some (0x303, t.toBits.setWidth 64)
  | .ldvs t => some (0x304, t.toBits.setWidth 64)
  | .stvs t => some (0x305, t.toBits.setWidth 64)
  | .ldp t => some (0x306, t.toBits.setWidth 64)
  | .stp t => some (0x307, t.toBits.setWidth 64)
  | .ldn t => some (0x400, t.toBits.setWidth 64)
  | .stn t => some (0x401, t.toBits.setWidth 64)
  | .ldg t => some (0x402, t.toBits.setWidth 64)
  | .stg t => some (0x403, t.toBits.setWidth 64)
  | .ldgv t => some (0x404, t.toBits.setWidth 64)
  | .stgv t => some (0x405, t.toBits.setWidth 64)
  | .amo t => some (0x406, t.toBits.setWidth 64)
  | .putc t => some (0x407, t.toBits.setWidth 64)
  | .waitc t => some (0x408, t.toBits.setWidth 64)
  | .waita t => some (0x409, t.toBits.setWidth 64)
  | .wake t => some (0x40A, t.toBits.setWidth 64)
  | .fence t => some (0x40B, t.toBits.setWidth 64)
  | .flush t => some (0x40C, t.toBits.setWidth 64)
  | .inbox t => some (0x40D, t.toBits.setWidth 64)
  | .capgive t => some (0x40E, t.toBits.setWidth 64)
  | .vadd t => some (0x500, t.toBits.setWidth 64)
  | .vsub t => some (0x501, t.toBits.setWidth 64)
  | .vmul t => some (0x502, t.toBits.setWidth 64)
  | .vfma t => some (0x503, t.toBits.setWidth 64)
  | .vfms t => some (0x504, t.toBits.setWidth 64)
  | .vfnma t => some (0x505, t.toBits.setWidth 64)
  | .vdiv t => some (0x506, t.toBits.setWidth 64)
  | .vsqrt t => some (0x507, t.toBits.setWidth 64)
  | .vrcp t => some (0x508, t.toBits.setWidth 64)
  | .vrsq t => some (0x509, t.toBits.setWidth 64)
  | .vexp2 t => some (0x50A, t.toBits.setWidth 64)
  | .vlog2 t => some (0x50B, t.toBits.setWidth 64)
  | .vmin t => some (0x50C, t.toBits.setWidth 64)
  | .vmax t => some (0x50D, t.toBits.setWidth 64)
  | .vabs t => some (0x50E, t.toBits.setWidth 64)
  | .vneg t => some (0x50F, t.toBits.setWidth 64)
  | .vcmp t => some (0x510, t.toBits.setWidth 64)
  | .vsel t => some (0x511, t.toBits.setWidth 64)
  | .vclass t => some (0x512, t.toBits.setWidth 64)
  | .viadd t => some (0x600, t.toBits.setWidth 64)
  | .visub t => some (0x601, t.toBits.setWidth 64)
  | .vimul t => some (0x602, t.toBits.setWidth 64)
  | .vimad t => some (0x603, t.toBits.setWidth 64)
  | .vimin t => some (0x604, t.toBits.setWidth 64)
  | .vimax t => some (0x605, t.toBits.setWidth 64)
  | .vand t => some (0x606, t.toBits.setWidth 64)
  | .vor t => some (0x607, t.toBits.setWidth 64)
  | .vxor t => some (0x608, t.toBits.setWidth 64)
  | .vshl t => some (0x609, t.toBits.setWidth 64)
  | .vshr t => some (0x60A, t.toBits.setWidth 64)
  | .vsar t => some (0x60B, t.toBits.setWidth 64)
  | .viadds t => some (0x60C, t.toBits.setWidth 64)
  | .vicmp t => some (0x60D, t.toBits.setWidth 64)
  | .vclmul t => some (0x60E, t.toBits.setWidth 64)
  | .vrng t => some (0x60F, t.toBits.setWidth 64)
  | .vmov t => some (0x700, t.toBits.setWidth 64)
  | .vbcast t => some (0x701, t.toBits.setWidth 64)
  | .vins t => some (0x702, t.toBits.setWidth 64)
  | .vext t => some (0x703, t.toBits.setWidth 64)
  | .vperm t => some (0x704, t.toBits.setWidth 64)
  | .vrot t => some (0x705, t.toBits.setWidth 64)
  | .vcvt t => some (0x706, t.toBits.setWidth 64)
  | .vpack t => some (0x707, t.toBits.setWidth 64)
  | .vunpk t => some (0x708, t.toBits.setWidth 64)
  | .vqnt t => some (0x709, t.toBits.setWidth 64)
  | .vdqnt t => some (0x70A, t.toBits.setWidth 64)
  | .vred t => some (0x800, t.toBits.setWidth 64)
  | .vdot t => some (0x801, t.toBits.setWidth 64)
  | .vdist t => some (0x802, t.toBits.setWidth 64)
  | .vtopk t => some (0x803, t.toBits.setWidth 64)
  | .vgath t => some (0x804, t.toBits.setWidth 64)
  | .vscat t => some (0x805, t.toBits.setWidth 64)
  | .vpopc t => some (0x806, t.toBits.setWidth 64)
  | .vscan t => some (0x807, t.toBits.setWidth 64)
  | .send t => some (0x900, t.toBits.setWidth 64)
  | .muxsel t => some (0x901, t.toBits.setWidth 64)
  | .recv t => some (0x902, t.toBits.setWidth 64)
  | .recvm t => some (0x903, t.toBits.setWidth 64)
  | .mclaim t => some (0xA00, t.toBits.setWidth 64)
  | .mrel t => some (0xA01, t.toBits.setWidth 64)
  | .mload t => some (0xA02, t.toBits.setWidth 64)
  | .mstore t => some (0xA03, t.toBits.setWidth 64)
  | .mzero t => some (0xA04, t.toBits.setWidth 64)
  | .mgang t => some (0xA05, t.toBits.setWidth 64)
  | .mdrain t => some (0xA06, t.toBits.setWidth 64)
  | .mgeo t => some (0xA07, t.toBits.setWidth 64)
  | .copy t => some (0xB00, t.toBits.setWidth 64)
  | .jtest t => some (0xB01, t.toBits.setWidth 64)
  | .jwait t => some (0xB02, t.toBits.setWidth 64)
  | .board t => some (0xB03, t.toBits.setWidth 64)
  | .bstat t => some (0xB04, t.toBits.setWidth 64)
  | .covqNext t => some (0xB05, t.toBits.setWidth 64)
  | .covqRank t => some (0xB05, t.toBits.setWidth 64)
  | .covqInfo t => some (0xB05, t.toBits.setWidth 64)
  | .covqKeep t => some (0xB05, t.toBits.setWidth 64)
  | .trace t => some (0xC00, t.toBits.setWidth 64)
  | .lacc t => some (0xC01, t.toBits.setWidth 64)
  | .laccz t => some (0xC02, t.toBits.setWidth 64)
  | .gov t => some (0xC03, t.toBits.setWidth 64)
  | .wseRead t => some (0x00C, t.toBits.setWidth 64)
  | .wseWrite t => some (0x00D, t.toBits.setWidth 64)
  | .raseRead t => some (0x00C, t.toBits.setWidth 64)
  | .raseWrite t => some (0x00D, t.toBits.setWidth 64)
  | .varResultArrival _ _ => none
  | .workQueueDoorbell _ _ _ => none
  | .launchBlockFetch _ => none
  | .launchStart _ => none
  | .wakeMessage _ _ => none
  | .bootImageArrival _ _ => none
  | .launchCompletion _ => none
  | .chorusStart _ _ _ => none
  | .chorusRecordRead _ _ _ => none
  | .maskFire _ _ _ _ => none
  | .chorusReportArrival _ _ _ _ => none
  | .chorusRelease _ => none
  | .orphanWait _ _ _ => none
  | .chorusWatchdog _ _ _ => none
  | .exchangeWordArrival _ => none
  | .destinationRequest _ => none
  | .responseArrival _ => none
  | .releaseSend _ => none
  | .inboxMessageArrival _ => none
  | .capabilityHandover _ => none
  | .packetArrival _ => none
  | .outputArbitration _ _ => none
  | .ageUrgent _ _ _ => none
  | .copyAccept _ => none
  | .copyJobStart _ => none
  | .copyRequestIssue _ => none
  | .copyPieceWrite _ _ _ => none
  | .nvmeCompletion _ _ _ => none
  | .copyJobComplete _ _ => none
  | .matrixCommandAccept _ _ => none
  | .gangComplete _ => none
  | .mloadComplete _ _ => none
  | .mstoreComplete _ _ => none
  | .mdrainComplete _ _ => none
  | .mrelFree _ _ => none
  | .feederFrameDelivery _ => none
  | .boardArmEffect _ _ => none
  | .segmentHeaderArrival _ _ => none
  | .tapFrameAct _ _ _ => none
  | .capToken _ => none
  | .vptWrite _ _ _ => none
  | .axolotlRun _ => none
  | .partitionStop _ => none
  | .stopComplete _ => none
  | .yieldDeadline _ => none
  | .exchangeGrace _ => none
  | .partitionResume _ => none
  | .partitionReset _ => none
  | .partitionReplay _ _ => none
  | .contextSaveComplete _ => none
  | .scrubComplete _ => none
  | .contextRestoreComplete _ => none
  | .partitionCommit _ => none
  | .invStage1Page _ _ _ => none
  | .invStage1All _ => none
  | .invStage2Frame _ _ _ => none
  | .invStage2All _ => none
  | .invalidationComplete _ => none
  | .dbgRead _ => none
  | .dbgWrite _ _ => none
  | .hostWindowWrite _ _ _ _ => none
  | .linkFlitArrival _ _ _ => none
  | .linkTimeout _ => none
  | .unitReady _ _ => none
  | .unitNotReady _ _ => none
  | .registerWrite _ _ _ => none
  | .unassignedOpcode op t => some (op, t.toBits.setWidth 64)
  | .spareSwap _ _ _ => none
  | .hostPcieCompletion _ => none
  | .bar2PeerWrite _ _ _ _ => none
  | .nop => some (0x000, 0)
  | .ret => some (0x005, 0)
  | .rett => some (0x009, 0)
  | .halt => some (0x00A, 0)
  | .isync => some (0x00B, 0)
  | .bkpt => some (0x010, 0)
  | .wait => some (0x011, 0)
  | .timerExpiry => none
  | .timerInterrupt => none
  | .grantEventInterrupt => none
  | .coreStart => none
  | .waitWithdrawal => none
  | .waitaWithdrawal => none
  | .lapStart => none
  | .frameInject => none
  | .moduleAlarm => none
  | .pauseEnd => none
  | .leaseExpiry => none
  | .netMemSwitch => none
  | .budgetInterval => none
  | .quantumEnd => none
  | .packageReset => none

/-- The bytes of a value, lowest first (R7). -/
def leBytes : (n v : Nat) → List Byte
  | 0, _ => []
  | n + 1, v => BitVec.ofNat 8 v :: leBytes n (v / 256)

/-- A head with the given L, S and OP (R39). -/
def Head.make (last : Bool) (stall : BitVec 3) (op : Opcode) : Head :=
  ((BitVec.ofBool last ++ stall ++ op).cast (by decide))

/-- The head and tail bytes of an instruction (R39, R40); none for an event. -/
def encode (i : Instr) (last : Bool) (stall : BitVec 3) : Option (List Byte) :=
  match i.code with
  | some (op, t) => some (leBytes 2 (Head.make last stall op).toNat ++ leBytes (tailBytes op) t.toNat)
  | none => none

/-- The slot of a line that holds an instruction; none for an event. -/
def encodeSlot (i : Instr) (last : Bool) (stall : BitVec 3) : Option LineSlot :=
  match i.code with
  | some (op, t) => some ⟨Head.make last stall op, t⟩
  | none => none

/-- The integer of a line that holds the given slots from head `i` on (R38). -/
def packLineFrom : (slots : List LineSlot) → (i used : Nat) → Nat
  | [], _, _ => 0
  | x :: xs, i, used =>
    let size := tailBytes (Head.op x.head)
    x.head.toNat * 2 ^ (16 * i) + x.tail.toNat * 2 ^ (8 * (64 - used - size)) + packLineFrom xs (i + 1) (used + size)

/-- A line that holds the given slots (R38). -/
def packLine (slots : List LineSlot) : Line := BitVec.ofNat 512 (packLineFrom slots 0 0)

/-- The decoder on a row's bits as the opcode table numbers them: the head is bits 15 to 0 and the tail follows it from bit 16 up; bits at and above `nbits` are zero. -/
def decodeTableWord (nbits w : Nat) : Option Instr :=
  match decode (leBytes 10 (w % 2 ^ nbits)) with
  | .ok (_, i, _) => some i
  | .error _ => none

end Sys2Proof
end

