-- ==== Sys2Proof/Machine/Bits.lean ====
section
/-! DEFINITION. Bit-field, sign-extension, byte-order and checksum helpers (R7, R35, R36). -/

namespace Sys2Proof.Machine

/-- Trunc(x, n): the low n bits of an integer, as a natural number (R36). -/
def truncI (x : Int) (n : Nat) : Nat := (x % (2 ^ n : Int)).toNat

/-- ZeroExt(x, n) (R36). -/
def zeroExt (x n : Nat) : Nat := x % 2 ^ n

/-- SignExt(x, n) (R36). -/
def signExt (x n : Nat) : Int :=
  let y := x % 2 ^ n
  if n ≠ 0 ∧ 2 ^ (n - 1) ≤ y then (y : Int) - 2 ^ n else y

/-- Sat(x, lo, hi) (R36). -/
def sat (x lo hi : Int) : Int := if x < lo then lo else if hi < x then hi else x

/-- SatI(x, n) (R36). -/
def satI (x : Int) (n : Nat) : Int := sat x (-(2 ^ (n - 1))) (2 ^ (n - 1) - 1)

/-- SatN(x, n) (R36). -/
def satN (x : Int) (n : Nat) : Int := sat x 0 (2 ^ n - 1)

/-- The register pattern of an integer: its low 64 bits (R36). -/
def wordOf (x : Int) : Word := BitVec.ofInt 64 x

/-- x[hi:lo] of a word, as a natural number (R11). -/
def bitsOf (x : Word) (hi lo : Nat) : Nat := (x.toNat / 2 ^ lo) % 2 ^ (hi + 1 - lo)

/-- A word with its bits [hi:lo] replaced. -/
def setBits (x : Word) (hi lo v : Nat) : Word :=
  let n := hi + 1 - lo
  BitVec.ofNat 64 (x.toNat / 2 ^ (hi + 1) * 2 ^ (hi + 1) + (v % 2 ^ n) * 2 ^ lo + x.toNat % 2 ^ lo)

/-- Bits [hi:lo] of a natural number. -/
def natBits (x hi lo : Nat) : Nat := (x / 2 ^ lo) % 2 ^ (hi + 1 - lo)

/-- A word in which the bits of `mask` come from `new` and the others from `old`. -/
def maskWrite (old new mask : Word) : Word := (old &&& ~~~mask) ||| (new &&& mask)

/-- A word with ones at bits [hi:lo]. -/
def fieldMask (hi lo : Nat) : Word := BitVec.ofNat 64 ((2 ^ (hi + 1 - lo) - 1) * 2 ^ lo)

/-- Number of one bits among the low `n` bits. -/
def popCount : (n x : Nat) → Nat
  | 0, _ => 0
  | n + 1, x => x % 2 + popCount n (x / 2)

/-- The trailing zero bits of the low `n` bits; n when they are all zero. -/
def countTrailing : (n x : Nat) → Nat
  | 0, _ => 0
  | n + 1, x => if x % 2 = 1 then 0 else 1 + countTrailing n (x / 2)

/-- The leading zero bits of the low `n` bits; n when they are all zero. -/
def countLeading : (n x : Nat) → Nat
  | 0, _ => 0
  | n + 1, x => if x / 2 ^ n % 2 = 1 then 0 else 1 + countLeading n x

/-- The low `n` bits with bit i moved to bit n − 1 − i. -/
def reverseBits : (n x : Nat) → Nat
  | 0, _ => 0
  | n + 1, x => (x % 2) * 2 ^ n + reverseBits n (x / 2)

/-- The low `n` bytes with byte j moved to byte n − 1 − j. -/
def reverseBytes : (n x : Nat) → Nat
  | 0, _ => 0
  | n + 1, x => (x % 256) * 256 ^ n + reverseBytes n (x / 256)

/-- The carry-less product of two naturals, over the low `n` bits of the second (R97). -/
def clmulNat (x : Nat) : (n y : Nat) → Nat
  | 0, _ => 0
  | n + 1, y => (if y % 2 = 1 then x else 0) ^^^ (2 * clmulNat x n (y / 2))

/-- One bit step of CRC-32C, reflected, polynomial 0x82F63B78. -/
def crcBit (c : Nat) : Nat := if c % 2 = 1 then (c / 2) ^^^ 0x82F63B78 else c / 2

/-- One byte step of CRC-32C. -/
def crcByte (c b : Nat) : Nat :=
  let x := c ^^^ b
  crcBit (crcBit (crcBit (crcBit (crcBit (crcBit (crcBit (crcBit x)))))))

/-- CRC-32C of bytes. -/
def crc32c (bs : List Byte) : Nat := (bs.foldl (fun c b => crcByte c b.toNat) 0xFFFFFFFF) ^^^ 0xFFFFFFFF

/-- The little-endian value of a list of bytes (R7). -/
def leValue : List Byte → Nat
  | [] => 0
  | b :: bs => b.toNat + 256 * leValue bs

/-- The first `n` bytes of a value, lowest first (R7). -/
def bytesOf : (n v : Nat) → List Byte
  | 0, _ => []
  | n + 1, v => BitVec.ofNat 8 v :: bytesOf n (v / 256)

/-- The field of `n` bytes at offset `off` of a list of bytes, little-endian (R7). -/
def fieldAt (bs : List Byte) (off n : Nat) : Nat := leValue ((bs.drop off).take n)

/-- The least multiple of `p` that is not below `t`. -/
def ceilTo (p t : Nat) : Nat := ((t + p - 1) / p) * p

/-- The square root of `n`, rounded down, found bit by bit from bit `k` down. -/
def isqrtFrom (n : Nat) : (k root : Nat) → Nat
  | 0, r => if (r + 1) * (r + 1) ≤ n then r + 1 else r
  | k + 1, r =>
    let r' := r + 2 ^ (k + 1)
    isqrtFrom n k (if r' * r' ≤ n then r' else r)

/-- The square root of a number below 2^(2k+2), rounded down. -/
def isqrt (k n : Nat) : Nat := isqrtFrom n k 0

/-- The number of bits a natural takes, for numbers below 2^k. -/
def bitLen (k x : Nat) : Nat := k - countLeading k x

end Sys2Proof.Machine
end

