-- ==== Sys2Proof/Machine/Float.lean ====
section
/-! DEFINITION. Number formats, exact values, rounding, flags and the order of sums (R125 to R144). -/

namespace Sys2Proof.Machine

/-- The formats of R125. -/
inductive Fmt where
  | f32 | bf16 | f16 | e4m3 | e5m2 | e3m2 | e2m3 | e2m1 | ds8 | sc | i8 | i16 | i32 | n8 | n16 | n32
  deriving DecidableEq, Repr

/-- The format of a 6-bit code; none for an unassigned code and for 0x00, the target's default (R125). -/
def Fmt.ofCode (c : Field) : Option Fmt :=
  match c.toNat with
  | 0x01 => some .f32
  | 0x02 => some .bf16
  | 0x03 => some .f16
  | 0x04 => some .e4m3
  | 0x05 => some .e5m2
  | 0x06 => some .e3m2
  | 0x07 => some .e2m3
  | 0x08 => some .e2m1
  | 0x09 => some .ds8
  | 0x0A => some .sc
  | 0x10 => some .i8
  | 0x11 => some .i16
  | 0x12 => some .i32
  | 0x14 => some .n8
  | 0x15 => some .n16
  | 0x16 => some .n32
  | _ => none

/-- Bits of one element (R145, R160). -/
def Fmt.width : Fmt → Nat
  | .f32 | .i32 | .n32 => 32
  | .bf16 | .f16 | .i16 | .n16 => 16
  | .e3m2 | .e2m3 => 6
  | .e2m1 => 4
  | _ => 8

/-- The wide formats of R147. -/
def Fmt.isWide : Fmt → Bool
  | .f32 | .bf16 | .f16 => true
  | _ => false

/-- The narrow formats of R147. -/
def Fmt.isNarrow : Fmt → Bool
  | .e4m3 | .e5m2 | .e3m2 | .e2m3 | .e2m1 | .ds8 => true
  | _ => false

/-- The integer formats, and whether they are signed (R125). -/
def Fmt.isInt : Fmt → Option Bool
  | .i8 | .i16 | .i32 => some true
  | .n8 | .n16 | .n32 => some false
  | _ => none

/-- Mantissa bits (R128). -/
def Fmt.mb : Fmt → Nat
  | .f32 => 23
  | .bf16 => 7
  | .f16 => 10
  | .e4m3 => 3
  | .e5m2 => 2
  | .e3m2 => 2
  | .e2m3 => 3
  | .e2m1 => 1
  | _ => 0

/-- Exponent bits (R128). -/
def Fmt.eb : Fmt → Nat
  | .f32 => 8
  | .bf16 => 8
  | .f16 => 5
  | .e4m3 => 4
  | .e5m2 => 5
  | .e3m2 => 3
  | .e2m3 => 2
  | .e2m1 => 2
  | _ => 0

/-- The exponent of the smallest normal (R128). -/
def Fmt.emin : Fmt → Int
  | .f32 => -126
  | .bf16 => -126
  | .f16 => -14
  | .e4m3 => -6
  | .e5m2 => -14
  | .e3m2 => -2
  | _ => 0

/-- The code of the largest finite value, without its sign (R128). -/
def Fmt.maxCode : Fmt → Nat
  | .f32 => 0x7F7FFFFF
  | .bf16 => 0x7F7F
  | .f16 => 0x7BFF
  | .e5m2 => 0x7B
  | .e4m3 => 0x7E
  | .e3m2 => 0x1F
  | .e2m3 => 0x1F
  | .e2m1 => 0x7
  | _ => 0

/-- The code of +∞, for formats that have one (R128). -/
def Fmt.infCode : Fmt → Option Nat
  | .f32 => some 0x7F800000
  | .bf16 => some 0x7F80
  | .f16 => some 0x7C00
  | .e5m2 => some 0x7C
  | _ => none

/-- The canonical NaN, for formats that have one (R128). -/
def Fmt.nanCode : Fmt → Option Nat
  | .f32 => some 0x7FC00000
  | .bf16 => some 0x7FC0
  | .f16 => some 0x7E00
  | .e5m2 => some 0x7E
  | .e4m3 => some 0x7F
  | _ => none

/-- An exact value: NaN, an infinity, or a number given by its sign and magnitude. -/
inductive FVal where
  | nan (signalling : Bool)
  | inf (neg : Bool)
  | num (neg : Bool) (mag : Rat)
  deriving DecidableEq, Repr

/-- 2^e (R129). -/
def pow2 (e : Int) : Rat := if 0 ≤ e then ((2 ^ e.toNat : Nat) : Rat) else 1 / ((2 ^ (-e).toNat : Nat) : Rat)

/-- floor(log2 a) of a positive rational (R136). -/
def floorLog2 (a : Rat) : Int :=
  let e : Int := (Nat.log2 a.num.toNat : Int) - (Nat.log2 a.den : Int)
  if a < pow2 e then e - 1 else e

/-- The signed value of a DS8 code in multiples of 2^−6 (R134). -/
def ds8Units (c : Nat) : Int :=
  let term (s e : Nat) : Int := if e = 7 then 0 else (if s = 1 then -1 else 1) * 2 ^ (6 - e)
  term (natBits c 7 7) (natBits c 6 4) + term (natBits c 3 3) (natBits c 2 0)

/-- A signed rational as an exact value. -/
def FVal.ofRat (x : Rat) : FVal := .num (decide (x < 0)) (if x < 0 then -x else x)

/-- The signed rational of a number; 0 for NaN and infinities. -/
def FVal.toRat : FVal → Rat
  | .num n m => if n then -m else m
  | _ => 0

/-- Val(F, c): the value of code c in format F (R129, R131, R134). -/
def val (F : Fmt) (c : Nat) : FVal :=
  match F with
  | .ds8 => FVal.ofRat ((ds8Units c : Rat) / 64)
  | .sc => if c % 256 = 0xFF then .nan false else .num false (pow2 ((c % 256 : Nat) - 127))
  | .i8 | .i16 | .i32 => FVal.ofRat (signExt c F.width : Rat)
  | .n8 | .n16 | .n32 => .num false ((c % 2 ^ F.width : Nat) : Rat)
  | _ =>
    let mb := F.mb
    let mag := c % 2 ^ (mb + F.eb)
    let neg := decide (c / 2 ^ (mb + F.eb) % 2 = 1)
    let m := mag % 2 ^ mb
    let e := mag / 2 ^ mb
    if F.infCode = some mag then .inf neg
    else if F.maxCode < mag then .nan (F.isWide && decide (m < 2 ^ (mb - 1)))
    else if e = 0 then .num neg (pow2 (F.emin - mb) * ((m : Nat) : Rat))
    else .num neg (pow2 (F.emin + (e - 1 : Nat) - mb) * ((2 ^ mb + m : Nat) : Rat))

/-- The rounding modes of R126. -/
inductive RMode where
  | rne | rtz | rup | rdn | sr
  deriving DecidableEq, Repr

/-- STAT.FX and STAT.SAT bits (R30). -/
def fxInvalid : Word := 0x100000
/-- STAT.FX divide by zero (R30). -/
def fxDivZero : Word := 0x80000
/-- STAT.FX overflow (R30). -/
def fxOverflow : Word := 0x40000
/-- STAT.FX underflow (R30). -/
def fxUnderflow : Word := 0x20000
/-- STAT.FX inexact (R30). -/
def fxInexact : Word := 0x10000
/-- STAT.SAT (R30). -/
def statSat : Word := 0x8000

/-- A code together with the flags its rounding sets. -/
structure Coded where
  code : Nat
  flags : Word
  deriving DecidableEq, Repr

/-- The sign bit of a format, set or clear. -/
def Fmt.sign (F : Fmt) (neg : Bool) : Nat := if neg then 2 ^ (F.mb + F.eb) else 0

/-- Overflow(F, s, rm) without flags (R137). -/
def overflowCode (F : Fmt) (neg : Bool) (rm : RMode) (satf : Bool) : Nat :=
  let max := F.sign neg + F.maxCode
  if satf then max
  else
    match F.infCode with
    | some inf =>
      match rm, neg with
      | .rtz, _ => max
      | .rup, true => max
      | .rdn, false => max
      | _, _ => F.sign neg + inf
    | none => if F = .e4m3 then 0x7F else max

/-- Whether a value between k and k + 1 spacings rounds up (R136). `t` is the value in spacings and `u` the random value of SR. -/
def roundsUp (rm : RMode) (neg : Bool) (k : Nat) (t : Rat) (u : Nat) : Bool :=
  let frac := t - (k : Rat)
  match rm with
  | .rne => decide (1 / 2 < frac) || (decide (frac = 1 / 2) && decide (k % 2 = 1))
  | .rtz => false
  | .rup => !neg
  | .rdn => neg
  | .sr => decide (u < (frac * 65536).floor.toNat)

/-- The codes of DS8, as signed multiples of 2^−6 (R134). -/
def ds8All : List Int := (List.range 256).map ds8Units

/-- The smallest byte that encodes a DS8 value (R134). -/
def ds8Code (v : Int) : Nat := (ds8All.findIdx (· = v))

/-- Trailing zero bits of a multiple of 2^−6; zero has more than any other (R134). -/
def ds8Zeros (n : Nat) : Nat := if n = 0 then 64 else countTrailing 8 n

/-- The encoder of DS8 (R134). -/
def encDs8 (x : FVal) (rm : RMode) : Coded :=
  match x with
  | .nan _ => ⟨ds8Code 0, fxInvalid⟩
  | .inf neg => ⟨ds8Code (if neg then -128 else 128), 0⟩
  | .num neg a =>
    let t := a * 64
    if 128 < t then ⟨ds8Code (if neg then -128 else 128), fxOverflow ||| fxInexact⟩
    else
      let mags := ds8All.map Int.natAbs
      let lo := mags.foldl (fun m v => if ((v : Nat) : Rat) ≤ t ∧ m < v then v else m) 0
      let hi := mags.foldl (fun m v => if t ≤ ((v : Nat) : Rat) ∧ v < m then v else m) 128
      if ((lo : Nat) : Rat) = t then ⟨ds8Code (if neg then -(lo : Int) else lo), 0⟩
      else
        let two := 2 * t
        let mid : Rat := ((lo + hi : Nat) : Rat)
        let up :=
          match rm with
          | .rne => decide (mid < two) || (decide (mid = two) && decide (ds8Zeros lo < ds8Zeros hi))
          | .rtz => false
          | .rup => !neg
          | .rdn => neg
          | .sr => false
        let r := if up then hi else lo
        ⟨ds8Code (if neg then -(r : Int) else r), fxInexact ||| (if t < 1 then fxUnderflow else 0)⟩

/-- Enc(F, x, rm, u) with SATF and the flush mode (R130, R136, R137, R139, R140). -/
def enc (F : Fmt) (x : FVal) (rm : RMode) (u : Nat) (satf fz : Bool) : Coded :=
  match F with
  | .ds8 => encDs8 x rm
  | _ =>
    match x with
    | .nan sig =>
      match F.nanCode with
      | some c => ⟨c, if sig then fxInvalid else 0⟩
      | none => ⟨0, fxInvalid⟩
    | .inf neg =>
      match F.infCode with
      | some c => ⟨F.sign neg + c, 0⟩
      | none => ⟨overflowCode F neg rm satf, 0⟩
    | .num neg a =>
      if a = 0 then ⟨F.sign neg, 0⟩
      else
        let tiny := decide (a < pow2 F.emin)
        if fz && F.isWide && tiny then ⟨F.sign neg, fxUnderflow ||| fxInexact⟩
        else
          let e := max (floorLog2 a) F.emin
          let t := a / pow2 (e - F.mb)
          let k := t.floor.toNat
          let exact := decide (t = (k : Rat))
          let r := if !exact && roundsUp rm neg k t u then k + 1 else k
          let code := (e - F.emin).toNat * 2 ^ F.mb + r
          if F.maxCode < code then ⟨overflowCode F neg rm satf, fxOverflow ||| fxInexact⟩
          else ⟨F.sign neg + code, if exact then 0 else fxInexact ||| (if tiny then fxUnderflow else 0)⟩

/-- RoundNE(x, F) (R136). -/
def roundNE (x : FVal) (F : Fmt) : Coded := enc F x .rne 0 false false

/-- A source element: under STAT.FZ a wide subnormal reads as zero of its sign (R140). -/
def srcVal (F : Fmt) (c : Nat) (fz : Bool) : FVal :=
  match val F c with
  | .num neg a => if fz && F.isWide && decide (a < pow2 F.emin) then .num neg 0 else .num neg a
  | x => x

/-- Invalid for a signalling NaN operand (R130). -/
def sigFlag : FVal → Word
  | .nan true => fxInvalid
  | _ => 0

/-- Whether a value is NaN. -/
def FVal.isNan : FVal → Bool
  | .nan _ => true
  | _ => false

/-- The sign of a value; + for NaN. -/
def FVal.neg : FVal → Bool
  | .nan _ => false
  | .inf n => n
  | .num n _ => n

/-- A value with its sign flipped. -/
def FVal.negate : FVal → FVal
  | .nan s => .nan s
  | .inf n => .inf (!n)
  | .num n m => .num (!n) m

/-- An exact result with the flags its operation sets. -/
structure Exact where
  v : FVal
  flags : Word
  deriving DecidableEq, Repr

/-- The invalid result of an operation on operands none of which is NaN (R150). -/
def invalidResult : Exact := ⟨.nan false, fxInvalid⟩

/-- x + y, with the zero signs of R149. -/
def fAdd (rm : RMode) (x y : FVal) : Exact :=
  match x, y with
  | .nan a, .nan b => ⟨.nan false, if a || b then fxInvalid else 0⟩
  | .nan a, _ => ⟨.nan false, if a then fxInvalid else 0⟩
  | _, .nan b => ⟨.nan false, if b then fxInvalid else 0⟩
  | .inf a, .inf b => if a = b then ⟨.inf a, 0⟩ else invalidResult
  | .inf a, .num _ _ => ⟨.inf a, 0⟩
  | .num _ _, .inf b => ⟨.inf b, 0⟩
  | .num a m, .num b n =>
    if m = 0 ∧ n = 0 ∧ a = b then ⟨.num a 0, 0⟩
    else
      let s := FVal.toRat (.num a m) + FVal.toRat (.num b n)
      if s = 0 then ⟨.num (rm = .rdn) 0, 0⟩ else ⟨FVal.ofRat s, 0⟩

/-- x × y (R149, R150). -/
def fMul (x y : FVal) : Exact :=
  match x, y with
  | .nan a, .nan b => ⟨.nan false, if a || b then fxInvalid else 0⟩
  | .nan a, _ => ⟨.nan false, if a then fxInvalid else 0⟩
  | _, .nan b => ⟨.nan false, if b then fxInvalid else 0⟩
  | .inf a, .inf b => ⟨.inf (a != b), 0⟩
  | .inf a, .num b n => if n = 0 then invalidResult else ⟨.inf (a != b), 0⟩
  | .num a m, .inf b => if m = 0 then invalidResult else ⟨.inf (a != b), 0⟩
  | .num a m, .num b n => ⟨.num (a != b) (m * n), 0⟩

/-- x × y + z with one rounding to come (R149, R150). A NaN operand gives invalid only when it is signalling. -/
def fFma (rm : RMode) (x y z : FVal) : Exact :=
  if x.isNan || y.isNan || z.isNan then ⟨.nan false, sigFlag x ||| sigFlag y ||| sigFlag z⟩
  else
    let p := fMul x y
    if p.v.isNan then p else fAdd rm p.v z

/-- x / y (R149, R150). -/
def fDiv (x y : FVal) : Exact :=
  match x, y with
  | .nan a, .nan b => ⟨.nan false, if a || b then fxInvalid else 0⟩
  | .nan a, _ => ⟨.nan false, if a then fxInvalid else 0⟩
  | _, .nan b => ⟨.nan false, if b then fxInvalid else 0⟩
  | .inf _, .inf _ => invalidResult
  | .inf a, .num b _ => ⟨.inf (a != b), 0⟩
  | .num a _, .inf b => ⟨.num (a != b) 0, 0⟩
  | .num a m, .num b n =>
    if n = 0 then (if m = 0 then invalidResult else ⟨.inf (a != b), fxDivZero⟩)
    else ⟨.num (a != b) (m / n), 0⟩

/-- Bits kept below the spacing of every format, by the approximations of roots, powers and logarithms. -/
def rootBits : Nat := 512

/-- The square root of a positive rational: exact where it is a multiple of 2^−512, and otherwise between the two multiples it lies between, which no rounding of R136 can tell from the exact root. -/
def ratSqrt (a : Rat) : Rat :=
  let scaled := (a * ((2 ^ (2 * rootBits) : Nat) : Rat)).floor.toNat
  let r := isqrt 640 scaled
  let unit : Rat := 1 / ((2 ^ rootBits : Nat) : Rat)
  if ((r * r : Nat) : Rat) = a * ((2 ^ (2 * rootBits) : Nat) : Rat) then (r : Rat) * unit
  else ((r : Rat) + 1 / 2) * unit

/-- √x (R149, R150). -/
def fSqrt (x : FVal) : Exact :=
  match x with
  | .nan a => ⟨.nan false, if a then fxInvalid else 0⟩
  | .inf false => ⟨.inf false, 0⟩
  | .inf true => invalidResult
  | .num neg m => if m = 0 then ⟨.num neg 0, 0⟩ else if neg then invalidResult else ⟨.num false (ratSqrt m), 0⟩

/-- 1 / x (R149, R150). -/
def fRcp (x : FVal) : Exact := fDiv (.num false 1) x

/-- 1 / √x (R149, R150). -/
def fRsq (x : FVal) : Exact :=
  match x with
  | .nan a => ⟨.nan false, if a then fxInvalid else 0⟩
  | .inf false => ⟨.num false 0, 0⟩
  | .inf true => invalidResult
  | .num neg m =>
    if m = 0 then ⟨.inf neg, fxDivZero⟩ else if neg then invalidResult else ⟨.num false (ratSqrt (1 / m)), 0⟩

/-- Fraction bits of the power and logarithm computations. -/
def powBits : Nat := 400

/-- The product of the 2^(2^−i) for the bits i = 1, 2, … of a fraction, in fixed point with `powBits` bits; `root` is 2^(2^−(i−1)). -/
def exp2Loop : (n : Nat) → (frac : Rat) → (root acc : Nat) → Nat
  | 0, _, _, acc => acc
  | n + 1, frac, root, acc =>
    let root' := isqrt (powBits + 1) (root * 2 ^ powBits)
    let f2 := frac * 2
    if 1 ≤ f2 then exp2Loop n (f2 - 1) root' (acc * root' / 2 ^ powBits) else exp2Loop n f2 root' acc

/-- 2^x for a rational x: exact for an integer, and otherwise to within 2^−380 of its own size. -/
def ratExp2 (x : Rat) : Rat :=
  let n := x.floor
  let f := x - (n : Rat)
  if f = 0 then pow2 n
  else
    let acc := exp2Loop 200 f (2 * 2 ^ powBits) (2 ^ powBits)
    pow2 n * (((acc : Rat) + 1 / 2) / ((2 ^ powBits : Nat) : Rat))

/-- 2^x (R149, R150). Beyond ±2,048 every format overflows or underflows alike. -/
def fExp2 (x : FVal) : Exact :=
  match x with
  | .nan a => ⟨.nan false, if a then fxInvalid else 0⟩
  | .inf false => ⟨.inf false, 0⟩
  | .inf true => ⟨.num false 0, 0⟩
  | .num neg m =>
    if 2048 < m then ⟨.num false (pow2 (if neg then -2048 else 2048)), 0⟩
    else ⟨.num false (ratExp2 (FVal.toRat (.num neg m))), 0⟩

/-- The first `n` fraction bits of log2 of a number y in [1, 2), by squaring, in fixed point with `powBits` bits. -/
def log2Loop : (n : Nat) → (y acc : Nat) → Nat
  | 0, _, acc => acc
  | n + 1, y, acc =>
    let y2 := y * y / 2 ^ powBits
    if 2 ^ (powBits + 1) ≤ y2 then log2Loop n (y2 / 2) (2 * acc + 1) else log2Loop n y2 (2 * acc)

/-- log2 of a positive rational: exact for a power of two, and otherwise to within 2^−160. -/
def ratLog2 (a : Rat) : Rat :=
  let e := floorLog2 a
  let m := a / pow2 e
  if m = 1 then (e : Rat)
  else
    let bits := log2Loop 160 ((m * ((2 ^ powBits : Nat) : Rat)).floor.toNat) 0
    (e : Rat) + ((bits : Rat) + 1 / 2) / ((2 ^ 160 : Nat) : Rat)

/-- log2 x (R149, R150). -/
def fLog2 (x : FVal) : Exact :=
  match x with
  | .nan a => ⟨.nan false, if a then fxInvalid else 0⟩
  | .inf false => ⟨.inf false, 0⟩
  | .inf true => invalidResult
  | .num neg m =>
    if m = 0 then ⟨.inf true, fxDivZero⟩
    else if neg then invalidResult
    else
      let r := ratLog2 m
      if r = 0 then ⟨.num false 0, 0⟩ else ⟨FVal.ofRat r, 0⟩

/-- The order of values, with −0 below +0 and no NaN: whether x lies below y (R151). -/
def FVal.below (x y : FVal) : Bool :=
  match x, y with
  | .inf a, .inf b => a && !b
  | .inf a, .num _ _ => a
  | .num _ _, .inf b => !b
  | .num a m, .num b n =>
    decide (FVal.toRat (.num a m) < FVal.toRat (.num b n)) || (decide (m = 0) && decide (n = 0) && a && !b)
  | _, _ => false

/-- VMIN and VMAX of two values (R151). -/
def fMinMax (greatest : Bool) (x y : FVal) : Exact :=
  if x.isNan || y.isNan then ⟨.nan false, sigFlag x ||| sigFlag y⟩
  else if greatest then ⟨if FVal.below x y then y else x, 0⟩
  else ⟨if FVal.below y x then y else x, 0⟩

/-- Equality of numbers; +0 and −0 are equal (R152). -/
def FVal.eqv (x y : FVal) : Bool :=
  match x, y with
  | .inf a, .inf b => a = b
  | .num a m, .num b n => decide (FVal.toRat (.num a m) = FVal.toRat (.num b n))
  | _, _ => false

/-- Numeric less-than; +0 and −0 are equal (R152). -/
def FVal.lt (x y : FVal) : Bool := FVal.below x y && !FVal.eqv x y

/-- Lane or element `i` of `n` bits of a pattern (R145). -/
def laneOf (x n i : Nat) : Nat := x / 2 ^ (n * i) % 2 ^ n

/-- A pattern made of lanes of `n` bits, the first lowest (R145). -/
def packLanes (n : Nat) : List Nat → Nat
  | [] => 0
  | x :: xs => x % 2 ^ n + 2 ^ n * packLanes n xs

/-- The lanes of a pattern (R145). -/
def lanesOf (x n count : Nat) : List Nat := (List.range count).map (laneOf x n)

/-- A rational integer rounded by a mode (R141). -/
def roundInt (x : Rat) (rm : RMode) : Int :=
  let neg := decide (x < 0)
  let a := if x < 0 then -x else x
  let k := a.floor.toNat
  let r : Int := if decide (a ≠ (k : Rat)) && roundsUp rm neg k a 0 then k + 1 else k
  if neg then -r else r

/-- A value written to an integer format (R141). -/
def toIntFmt (F : Fmt) (signed : Bool) (x : FVal) (rm : RMode) : Coded :=
  let n := F.width
  let clamp (v : Int) : Int := if signed then satI v n else satN v n
  match x with
  | .nan _ => ⟨0, fxInvalid⟩
  | .inf neg => ⟨truncI (clamp (if neg then -(2 ^ 64) else 2 ^ 64)) n, statSat⟩
  | .num neg m =>
    let q := FVal.toRat (.num neg m)
    let r := roundInt q rm
    let c := clamp r
    ⟨truncI c n, (if c ≠ r then statSat else 0) ||| (if (r : Rat) ≠ q then fxInexact else 0)⟩

/-- One element converted from a format to another (R160, R141). -/
def convert (D A : Fmt) (c : Nat) (rm : RMode) (u : Nat) (satf fz : Bool) : Coded :=
  match D.isInt, A.isInt with
  | some signed, some _ =>
    let x : Int := if A.isInt = some true then signExt c A.width else (c % 2 ^ A.width : Nat)
    let y := if signed then satI x D.width else satN x D.width
    ⟨truncI y D.width, if y ≠ x then statSat else 0⟩
  | some signed, none => toIntFmt D signed (srcVal A c fz) rm
  | none, _ => enc D (srcVal A c fz) rm u satf fz

/-- An exact sum in progress: whether a NaN, +∞ or −∞ was met, and the sum of the finite terms (R142). -/
structure BlockSum where
  nan : Bool
  pos : Bool
  neg : Bool
  invalid : Bool
  sum : Rat
  deriving DecidableEq, Repr

/-- The empty sum. -/
def BlockSum.zero : BlockSum := ⟨false, false, false, false, 0⟩

/-- One exact term added to a sum. -/
def BlockSum.add (b : BlockSum) (t : Exact) : BlockSum :=
  let b := { b with invalid := b.invalid || t.flags != 0 }
  match t.v with
  | .nan _ => { b with nan := true }
  | .inf true => { b with neg := true }
  | .inf false => { b with pos := true }
  | .num n m => { b with sum := b.sum + FVal.toRat (.num n m) }

/-- The value of a sum (R142): ∞ − ∞ is NaN. -/
def BlockSum.value (b : BlockSum) : FVal :=
  if b.nan || (b.pos && b.neg) then .nan false
  else if b.pos then .inf false
  else if b.neg then .inf true
  else FVal.ofRat b.sum

/-- Invalid of a sum, for VDOT and VDIST: a signalling operand (R130), a product of 0 and an infinity, or ∞ − ∞ beside no NaN; the last two are the model's choice (log 22). -/
def BlockSum.flag (b : BlockSum) : Word :=
  if b.invalid || (!b.nan && b.pos && b.neg) then fxInvalid else 0

/-- One block sum added into an FP32 accumulator; an exact zero leaves it as it is (R142). -/
def accumulate (acc : Nat) (p : FVal) (flags : Word) : Coded :=
  match p with
  | .num _ m =>
    if m = 0 then ⟨acc, flags⟩
    else
      let e := fAdd .rne (val .f32 acc) p
      let r := roundNE e.v .f32
      ⟨r.code, flags ||| e.flags ||| r.flags⟩
  | _ =>
    let e := fAdd .rne (val .f32 acc) p
    let r := roundNE e.v .f32
    ⟨r.code, flags ||| e.flags ||| r.flags⟩

/-- The exact sum of the products of two rows of values (R142). -/
def dotSum (xs ys : List FVal) : BlockSum :=
  (xs.zip ys).foldl (fun b e => b.add (fMul e.1 e.2)) BlockSum.zero

/-- One block of BlockDot: its elements and scales (R142). -/
structure DotBlock where
  a : List FVal
  b : List FVal
  scaleA : FVal
  scaleB : FVal
  deriving DecidableEq, Repr

/-- The scaled sum of one block, and its flags (R132, R142). -/
def DotBlock.term (k : DotBlock) : FVal × Word :=
  let s := dotSum k.a k.b
  let scaled := fMul (fMul s.value k.scaleA).v k.scaleB
  (scaled.v, s.flag)

/-- The scaled sum of one block of a gang, and its invalid flag: a signalling element sets it (R130), and so does a sum that is NaN from operands none of which is NaN (R332). -/
def DotBlock.gangTerm (k : DotBlock) : FVal × Word :=
  let p := k.term.1
  let elems := k.a ++ k.b
  let quiet := !(k.scaleA :: k.scaleB :: elems).any FVal.isNan
  (p, if elems.contains (.nan true) || (p.isNan && quiet) then fxInvalid else 0)

/-- Blocks added into acc in increasing order, each by its term (R142). -/
def blockDotBy (term : DotBlock → FVal × Word) (acc : Nat) (blocks : List DotBlock) : Coded :=
  blocks.foldl (fun r k => let t := term k; let n := accumulate r.code t.1 t.2; ⟨n.code, r.flags ||| n.flags⟩) ⟨acc, 0⟩

/-- BlockDot (R142). -/
def blockDot (acc : Nat) (blocks : List DotBlock) : Coded := blockDotBy DotBlock.term acc blocks

/-- BlockDot as a gang forms it, with R332's invalid flag. -/
def gangDot (acc : Nat) (blocks : List DotBlock) : Coded := blockDotBy DotBlock.gangTerm acc blocks

end Sys2Proof.Machine
end

