-- ==== Sys2Proof/Machine/Map.lean ====
section
/-! DEFINITION. Sparse maps from numbers to data, in one canonical form: keys strictly rising, and no entry equal to what its key reads as when it is not listed.
Memory is such a map from addresses to bytes. -/

namespace Sys2Proof.Machine

/-- Data listed by number. -/
abbrev SMap (α : Type) := List (Nat × α)

/-- The listed entry of a key. -/
def SMap.find {α : Type} : SMap α → Nat → Option α
  | [], _ => none
  | (k, v) :: r, n => if k = n then some v else SMap.find r n

/-- What a key reads as: its listed entry, or else its default. -/
def SMap.get {α : Type} (dflt : Nat → α) (m : SMap α) (n : Nat) : α := (SMap.find m n).getD (dflt n)

/-- A map without a key. -/
def SMap.erase {α : Type} (m : SMap α) (n : Nat) : SMap α := m.filter (fun e => e.1 != n)

/-- A new entry put before the first entry of a greater key. -/
def SMap.insert {α : Type} : SMap α → Nat → α → SMap α
  | [], n, x => [(n, x)]
  | (k, v) :: r, n, x => if n < k then (n, x) :: (k, v) :: r else (k, v) :: SMap.insert r n x

/-- A map with one key set; setting a key to its default unlists it. -/
def SMap.set {α : Type} [DecidableEq α] (dflt : Nat → α) (m : SMap α) (n : Nat) (x : α) : SMap α :=
  if x = dflt n then SMap.erase m n else SMap.insert (SMap.erase m n) n x

/-- A map without defaults with one key set. -/
def SMap.put {α : Type} (m : SMap α) (n : Nat) (x : α) : SMap α := SMap.insert (SMap.erase m n) n x

/-- The listed data in rising order of key. -/
def SMap.vals {α : Type} (m : SMap α) : List α := m.map Prod.snd

/-- The listed keys in rising order. -/
def SMap.keys {α : Type} (m : SMap α) : List Nat := m.map Prod.fst

/-- Every listed entry changed by `f`. -/
def SMap.mapVals {α : Type} (f : Nat → α → α) (m : SMap α) : SMap α := m.map (fun e => (e.1, f e.1 e.2))

/-- The least number above every listed key: the next identifier of a map whose keys number things in order. -/
def SMap.fresh {α : Type} (m : SMap α) : Nat := m.foldl (fun n e => max n (e.1 + 1)) 0

/-- The bytes of every memory of the package, listed by one address key. -/
abbrev Memory := List Host.Cell

/-- What a byte that nothing has written reads as (DESIGN CHOICE, log 4). -/
def Memory.unwritten (_ : Nat) : Byte := 0

/-- The byte at an address key. -/
def Memory.read (m : Memory) (a : Nat) : Byte := SMap.get Memory.unwritten m a

/-- Memory after one byte is written. -/
def Memory.write (m : Memory) (a : Nat) (b : Byte) : Memory := SMap.set Memory.unwritten m a b

/-- The canonical form: addresses strictly rising, and no entry equal to what an unlisted address reads as. -/
def Memory.wf : Memory → Bool
  | [] => true
  | (a, b) :: r => decide (b ≠ Memory.unwritten a) && r.all (fun e => decide (a < e.1)) && Memory.wf r

/-- The little-endian value of `n` bytes from an address (R7). -/
def Memory.readLE (m : Memory) (a : Nat) : (n : Nat) → Nat
  | 0 => 0
  | n + 1 => (Memory.read m a).toNat + 256 * Memory.readLE m (a + 1) n

/-- Memory after `n` bytes of a value are written from an address, lowest byte first (R7). -/
def Memory.writeLE (m : Memory) (a : Nat) : (n v : Nat) → Memory
  | 0, _ => m
  | n + 1, v => Memory.writeLE (Memory.write m a (BitVec.ofNat 8 v)) (a + 1) n (v / 256)

/-- The bytes from an address on. -/
def Memory.readBytes (m : Memory) (a : Nat) : (n : Nat) → List Byte
  | 0 => []
  | n + 1 => Memory.read m a :: Memory.readBytes m (a + 1) n

/-- Memory after a run of bytes is written from an address. -/
def Memory.writeBytes (m : Memory) (a : Nat) : List Byte → Memory
  | [] => m
  | b :: bs => Memory.writeBytes (Memory.write m a b) (a + 1) bs

end Sys2Proof.Machine
end

