-- ==== Sys2Proof/Machine/State.lean ====
section
/-! DEFINITION. The state of the Halca H7: every piece of state the spec gives the machine, as plain data, and the state after reset. -/

namespace Sys2Proof.Machine

/-- The units of time in one ref tick: the least common multiple of 1 to 24, so that every multiplier of R5 divides it. -/
def tickUnits : Nat := 5354228880

/-- The units of time in one cycle of a domain at a multiplier of the 100 MHz reference clock (R5). -/
def periodOf (multiplier : Nat) : Nat := tickUnits / multiplier

/-- The edges of a clock: they stand at whole periods from a base edge, at which its multiplier last changed (R205, R216, R226; log 49). -/
structure Grid where
  base : Nat
  period : Nat
  deriving DecidableEq, Repr

/-- The number of the last edge at or before a time, counted from the base edge. -/
def Grid.index (g : Grid) (t : Nat) : Nat := (t - g.base) / g.period

/-- The edge of a number. -/
def Grid.edge (g : Grid) (k : Nat) : Nat := g.base + k * g.period

/-- Whether an edge stands at a time. -/
def Grid.on (g : Grid) (t : Nat) : Bool := decide (g.edge (g.index t) = t)

/-- The number of the first edge at or after a time. -/
def Grid.indexUp (g : Grid) (t : Nat) : Nat := (t - g.base + g.period - 1) / g.period

/-- The first edge at or after a time. -/
def Grid.ceil (g : Grid) (t : Nat) : Nat := g.edge (g.indexUp t)

/-- The first edge after a time. -/
def Grid.after (g : Grid) (t : Nat) : Nat := g.edge (g.index t + 1)

/-- The edge that ends the cycle cut short when a clock changes at a time: the new clock has an edge there and the old one has none (log 49). -/
def Grid.cutShort (old new : Grid) (t : Nat) : Nat := if new.on t && !old.on t then 1 else 0

/-- A time of an old clock carried over to a new one at a time `t`: as many edges lie between it and the change. -/
def Grid.carry (old new : Grid) (t due : Nat) : Nat :=
  if due ≤ t then due else new.edge (new.index t + (old.indexUp due - (old.index t + old.cutShort new t)))

/-- The same for a time that may be past: as many edges lie between it and the change. -/
def Grid.shift (old new : Grid) (t due : Nat) : Nat :=
  if due ≤ t then new.edge (new.index t) - (old.index t + old.cutShort new t - old.index due) * new.period else old.carry new t due

/-- A general register of the machine, wherever it is held (R12 to R14). -/
inductive PReg where
  /-- g1 to g15, by number (R12). -/
  | glob (n : Nat)
  /-- An entry of the register stack (R13). -/
  | stack (n : Nat)
  /-- An entry of the handler bank (R14). -/
  | hbank (n : Nat)
  deriving DecidableEq, Repr

/-- The kinds of point a walker hands out, kept for COVQ.info (R387). -/
inductive PointKind where
  | none
  | plain
  /-- A sample, with its number among the samples of its walker. -/
  | sample (n : Nat)
  deriving DecidableEq, Repr

/-- The Leapfrog walker of a core (R187, R386). -/
structure Walker where
  /-- Rank in the walker set; none outside it. -/
  rank : Option Nat
  /-- The size C of the walker set. -/
  count : Nat
  /-- The next own point to consider. -/
  next : Nat
  /-- Points handed out. -/
  taken : Nat
  /-- Skipped points passed over. -/
  skipped : Nat
  /-- Of the skipped points considered, how many (R386). -/
  skipIdx : Nat
  /-- Samples handed out. -/
  samples : Nat
  /-- The index of the last point handed out. -/
  last : Option Nat
  /-- What that point is. -/
  lastKind : PointKind
  deriving DecidableEq, Repr

/-- A walker that holds nothing. -/
def Walker.empty : Walker := ⟨none, 0, 0, 0, 0, 0, 0, none, .none⟩

/-- Where an instruction's result goes. -/
inductive Dest where
  /-- A general register; none for g0, which discards the write (R12). -/
  | gen (r : Option PReg) (x : Word)
  /-- A vector register (R19). -/
  | vec (n : Nat) (x : VWord)
  /-- One 64-bit lane of a vector register, the others kept (R223). -/
  | lane (n i : Nat) (x : Word)
  /-- Flags ORed into STAT (R30); no bit set marks an instruction that may set one (R52). -/
  | flags (bits : Word)
  /-- WID and the walker, with the register that takes the point (R191). -/
  | walker (w : Walker) (wid : Word)
  deriving DecidableEq, Repr

/-- A fixed-latency result in flight: it is written at its time (R49). -/
structure Flight where
  due : Nat
  dest : Dest
  deriving DecidableEq, Repr

/-- What answers a variable-latency result that is pending (R51). -/
inductive VarSource where
  /-- The result is known and arrives at a time. -/
  | at (due : Nat)
  /-- The response of a near or global request. -/
  | req (id : Nat)
  deriving DecidableEq, Repr

/-- A result tracked by the scoreboard (R51): the registers it writes, and what it writes once it has arrived. -/
structure VarResult where
  id : Nat
  source : VarSource
  gens : List PReg
  vecs : List Nat
  writes : List Dest
  flags : Bool
  deriving DecidableEq, Repr

/-- A message of an inbox, 16 bytes (R268). -/
structure Message where
  kind : Byte
  status : Byte
  tag : BitVec 16
  src : BitVec 32
  data : Word
  deriving DecidableEq, Repr

/-- A receive slot of the exchange fabric: the word held, with the edge it arrived on and its sender (R219, R220). -/
structure XSlot where
  value : Word
  arrival : Nat
  sender : Nat
  deriving DecidableEq, Repr

/-- Why a core stands at an instruction that it has issued, or that waits to issue, with nothing further issued. -/
inductive Sleep where
  /-- WAITC, JWAIT or INBOX.wait, whose condition does not hold (R262, R269, R308). -/
  | condition
  /-- WAITA, whose entry is armed or whose request is on its way; `withdrawn` once a withdrawal has been sent (R263, R265). -/
  | waita (req : Nat) (withdrawn : Bool)
  /-- A COPY that waits for acceptance (R299). -/
  | copy
  /-- An MGANG that waits for its gang to form (R330). -/
  | gang
  deriving DecidableEq, Repr

/-- The conditions in which a stop finds a core (R407, R442); part of its core record (R433). -/
inductive StopCond where
  /-- Parked by a release flagged YIELD; whether that release carried EXCH (R403, R406). -/
  | parked (exch : Bool)
  /-- Stopped at an instruction boundary, or before a held instruction (R407). -/
  | boundary
  /-- Withdrawn from a sleep or from a gang barrier (R407). -/
  | withdrawn
  /-- Waiting at WAIT, still a member (R407). -/
  | waiting
  /-- Stopped at the WAIT that ended an exchange phase (R407). -/
  | exchange
  /-- Stopped at a BKPT by a breakpoint stop (R442). -/
  | breakpoint
  deriving DecidableEq, Repr

/-- What a core is doing (R123, R181, R192, R208, R403, R442). -/
inductive RunState where
  /-- In no launch, or not yet woken. -/
  | off
  /-- Woken; it waits for its image (R181, R182). -/
  | booting
  /-- Its image has arrived; it may start (R181). -/
  | ready
  /-- It issues instructions. -/
  | running
  /-- It stands at an instruction and issues nothing further. -/
  | sleeping (why : Sleep)
  /-- It waits at WAIT; `withdrawn` once an interrupt has sent its withdrawal (R208, R209). -/
  | waiting (withdrawn : Bool)
  /-- Stopped, with its condition (R407, R442). -/
  | stopped (cond : StopCond)
  /-- Retired by HALT (R192). -/
  | halted
  /-- Retired by a double fault (R122, R192, R401). -/
  | doubleFaulted
  deriving DecidableEq, Repr

/-- A range of the own slice that an engine works on (R309). -/
structure RangeEntry where
  /-- The lowest and the highest byte. -/
  lo : Nat
  hi : Nat
  /-- A destination range; otherwise a source range. -/
  dest : Bool
  /-- An MDRAIN's range, which drain points wait for (R335). -/
  drain : Bool
  /-- The job or command it belongs to: a copy entry of the pod, or 64 and above for a matrix command. -/
  owner : Nat
  deriving DecidableEq, Repr

/-- A failed access, or a release held behind one, kept until it is replayed or discarded (R255, R257). -/
structure HeldAccess where
  req : Nat
  /-- The cause and qualifier of its response; none for a release held behind a failure. -/
  failure : Option (Byte × Byte)
  /-- Issued in handler mode (R258). -/
  handler : Bool
  deriving DecidableEq, Repr

/-- A trace record waiting in a core's trace queue, 64 bytes (R445, R448). -/
abbrev TraceRecord := List Byte

/-- The clocks of one core: counts kept at a base time, from which they run on (R33, R216, R374, R404). -/
structure CoreClock where
  /-- The base time. -/
  base : Nat
  /-- CYC, REFT and the number of the core's own cycle, at the base time. -/
  cyc : Nat
  reft : Nat
  seq : Nat
  /-- The vector clock, and the clock that drives the core. -/
  vec : Grid
  pipe : Grid
  /-- False while the partition is stopped, when the counts stand still (R404). -/
  running : Bool
  deriving DecidableEq, Repr

/-- Units of time in a vector cycle. -/
abbrev CoreClock.vecPeriod (k : CoreClock) : Nat := k.vec.period

/-- Units of time in a cycle of the clock that drives the core. -/
abbrev CoreClock.pipePeriod (k : CoreClock) : Nat := k.pipe.period

/-- A line held in the fetch buffer: its number, its bytes as they were read, and the lowest byte address of a bad word in it (R21, R22, R398). -/
structure FetchedLine where
  num : Nat
  line : Line
  bad : Option Nat
  deriving DecidableEq, Repr

/-- Everything one core holds. -/
structure Core where
  /-- What the core is doing (R123, R181, R192, R208, R403, R442). -/
  run : RunState
  /-- PC, bits [17:0] (R20). -/
  pc : LAddr
  /-- The fetch buffer, at most two lines (R21). -/
  fbuf : List FetchedLine
  /-- STAT and ESTAT (R30). -/
  stat : Word
  estat : Word
  /-- EPC, bits [17:0] (R34). -/
  epc : LAddr
  /-- ECAUSE, EADDR, EPFX, TVEC (R26, R32). -/
  ecause : Word
  eaddr : Word
  epfx : Word
  tvec : Word
  /-- WBASE: PX, RES and SLOT (R34). -/
  px : BitVec 8
  res : BitVec 3
  slot : BitVec 8
  /-- WSTK and RASB, bits [17:3] (R34). -/
  wstk : Word
  rasb : Word
  /-- The return-address store, newest entry first (R17). -/
  ras : List LAddr
  /-- RASD.SAVED (R34). -/
  rasSaved : BitVec 32
  /-- REPS (R29) and TCMP (R33). -/
  reps : Word
  tcmp : Word
  /-- LC0, LS0, LE0, LC1, LS1, LE1 (R28). -/
  lc0 : BitVec 32
  ls0 : LAddr
  le0 : LAddr
  lc1 : BitVec 32
  ls1 : LAddr
  le1 : LAddr
  /-- PROT0 to PROT7 (R24). -/
  prot : Vector Word 8
  /-- PART (R184), WID (R189), GEOM (R322), SSC (R206). -/
  part : Word
  wid : Word
  geom : Word
  ssc : Word
  /-- MFR.V, OPC and REG; PEND is computed from the accesses held (R256). -/
  mfr : Word
  /-- TSM (R247), LACCI (R246) and the latency accounts (R245). -/
  tsm : Word
  lacci : Word
  accounts : Vector Word 64
  /-- The responses counted at the time of the last one: the time, the account, the account before, and DLY (R273). -/
  fresh : List (Nat × Nat × Word × Nat)
  /-- The inbox, oldest message first (R268). -/
  inbox : List Message
  /-- GOV: GIE and BUDGET (R375); ACT.BLK (R376). -/
  gie : Bool
  budget : BitVec 8
  blk : BitVec 32
  /-- The charge history: cycles of the core's own sequence, with their charges (R374). -/
  charges : List (Nat × Nat)
  /-- Message counters k0 to k15 (R260). -/
  counters : Vector (BitVec 32) 16
  /-- GRANT.PEND (R364). -/
  grantPend : Bool
  /-- A pending grant-event interrupt: the time of its notice and the SEQ of the newest one (R367). -/
  grantIrq : Option (Nat × Nat)
  /-- The SEQ, CAUSE and multipliers that a replay makes GRANT read; none outside one (R453). -/
  grantReplay : Option Word
  /-- The exchange route: super-group and mask (R219, R222). -/
  routeSg : BitVec 4
  routeMask : Word
  /-- Receive slots x0 to x7 (R219). -/
  slots : Vector XSlot 8
  /-- The release edge that opened the newest exchange phase (R216, R220). -/
  phase : Option Nat
  clock : CoreClock
  /-- The time from which the next instruction's stall count is counted (R48). -/
  ready : Nat
  /-- Cycles that a transfer or a line fetch adds (R46, R216). -/
  delay : Nat
  /-- Cycles of the stall count and the delay that had passed when the clock last changed (R365): the MODEL's own (DESIGN CHOICE, log 1). -/
  waited : Nat
  /-- Fixed-latency results in flight, in program order (R49, R50). -/
  flight : List Flight
  /-- Variable-latency results pending (R51). -/
  var : List VarResult
  /-- The number the next pending result takes. -/
  varNext : Nat
  /-- Memory-touching instructions issue no earlier than this time (R262, R269). -/
  memReady : Nat
  /-- The prefix of the pending run that issued first, and how many of the run's prefixes have issued (R27). -/
  runStart : Option (LAddr × Nat)
  /-- The instruction at PC has been charged by the governor (R373). -/
  charged : Bool
  /-- The instruction at PC is held at issue by something whose end is not known yet, and the time at which the last such hold ended (R51, R374): the MODEL's own (DESIGN CHOICE, log 1). -/
  holding : Bool
  freeAt : Nat
  /-- The launch the core runs in, by number (R180). -/
  launch : Option Nat
  walker : Walker
  /-- Accesses held, oldest first, and the request of the one reported last (R256, R257). -/
  held : List HeldAccess
  reported : Option Nat
  /-- The number the core's next request takes, and that of its newest write to each destination class (R288). -/
  reqSeq : Nat
  lastWrite : SMap Nat
  /-- The times until which accesses and the core's own fetches take its slice, the requests that wait for it, oldest first, and the input served last: 0 to 3 of the butterfly, 4 the mesh port (R233). -/
  sliceFree : Nat
  fetchFree : Nat
  sliceQueue : List Nat
  sliceTurn : Nat
  /-- The range scoreboard (R309). -/
  ranges : List RangeEntry
  /-- The trace queue (R448). -/
  trace : List TraceRecord
  /-- g1 to g15 at index 0 to 14 (R12). -/
  glob : Vector Word 15
  /-- The register stack (R13). -/
  stack : Vector Word 176
  /-- The handler bank (R14). -/
  hbank : Vector Word 48
  /-- v0 to v31 (R19). -/
  vec : Vector VWord 32
  deriving DecidableEq, Repr
/-- STAT.HM, handler mode (R30). -/
def Core.hm (c : Core) : Bool := c.stat.getLsbD 5

/-- STAT.XM, exchange mode (R30, R216). -/
def Core.xm (c : Core) : Bool := c.stat.getLsbD 7

/-- STAT.IE, interrupts enabled (R30). -/
def Core.ie (c : Core) : Bool := c.stat.getLsbD 6

/-- STAT.CE, the checking scoreboard (R30, R49). -/
def Core.ce (c : Core) : Bool := c.stat.getLsbD 8

/-- STAT.PP, a prefix is pending (R26, R30). -/
def Core.pp (c : Core) : Bool := c.stat.getLsbD 0

/-- PROT0 at launch: enabled, every right, over the whole slice (R24). -/
def prot0Launch : Word := 0xF003_FFFF_0000_0000

/-- A receive slot that holds no word (R219). -/
def XSlot.empty : XSlot := ⟨0, 0, 0⟩

/-- A core's clocks at the nominal vector multiplier, all counts 0 (R5, R33). -/
def CoreClock.reset : CoreClock := ⟨0, 0, 0, 0, ⟨0, periodOf 20⟩, ⟨0, periodOf 20⟩, true⟩

/-- A core after reset: the launch values of R37, in no launch.
The spec gives launch values only; that they hold at package reset too is a DESIGN CHOICE (log 2). -/
def Core.reset : Core where
  glob := Vector.replicate 15 0
  stack := Vector.replicate 176 0
  hbank := Vector.replicate 48 0
  vec := Vector.replicate 32 0
  pc := 0
  fbuf := []
  stat := 0
  estat := 0
  epc := 0
  ecause := 0
  eaddr := 0
  epfx := 0
  tvec := 0
  px := 0
  res := 1
  slot := 0
  wstk := 0
  rasb := 0
  ras := []
  rasSaved := 0
  reps := 0
  tcmp := 0
  lc0 := 0
  ls0 := 0
  le0 := 0
  lc1 := 0
  ls1 := 0
  le1 := 0
  prot := (Vector.replicate 8 0).setIfInBounds 0 prot0Launch
  part := 0
  wid := 0xFFFF_FFFF_FFFF_FFFF
  geom := 0x0000_0000_003F_007F
  ssc := 0
  mfr := 0
  tsm := 0
  lacci := 0
  accounts := Vector.replicate 64 0
  fresh := []
  inbox := []
  gie := false
  budget := 96
  blk := 0
  charges := []
  counters := Vector.replicate 16 0
  grantPend := false
  grantIrq := none
  grantReplay := none
  routeSg := 0
  routeMask := 0
  slots := Vector.replicate 8 XSlot.empty
  phase := none
  clock := CoreClock.reset
  ready := 0
  delay := 0
  waited := 0
  flight := []
  var := []
  varNext := 0
  memReady := 0
  runStart := none
  charged := false
  holding := false
  freeAt := 0
  run := .off
  launch := none
  walker := Walker.empty
  held := []
  reported := none
  reqSeq := 0
  lastWrite := []
  sliceFree := 0
  fetchFree := 0
  sliceQueue := []
  sliceTurn := 4
  ranges := []
  trace := []

/-- A core that nothing has listed: its reset state, with its own super-group as route (R222). -/
def Core.unlisted (n : Nat) : Core := { Core.reset with routeSg := BitVec.ofNat 4 (n / 64 % 16) }

/-- Where a launch stands (R177 to R193). -/
inductive LaunchStage where
  /-- Fetched and checked; it waits for its super-groups and contexts (R179, R197). -/
  | waiting
  /-- Started: its wake message is on its way or its cores run (R180). -/
  | started
  /-- Its cores have retired and it drains (R193). -/
  | draining
  /-- Complete, with its STATUS (R193, R195). -/
  | completed (status : Byte)
  deriving DecidableEq, Repr

/-- A segment of a lap image, with the partition-table entry that installed it (R342). -/
structure Segment where
  part : Nat
  layer : Nat
  pid : Byte
  fmtc : Byte
  count : Nat
  addr : Word
  deriving DecidableEq, Repr

/-- A role header, with the fan-out of the role's boot entry (R83, R84). -/
structure RoleHeader where
  entry : LAddr
  tvec : Nat
  wstk : Nat
  rasb : Nat
  size : Nat
  /-- The offset of the image in the container. -/
  image : Nat
  fanout : Nat
  deriving DecidableEq, Repr

/-- A launch, numbered in the order it entered the package (R177 to R195). -/
structure Launch where
  /-- The 128-byte launch block (R177). -/
  block : List Byte
  /-- The partition-table entry it runs in, its virtual function and its work queue (R463). -/
  part : Nat
  vf : Nat
  queue : Nat
  stage : LaunchStage
  /-- The time of its start. -/
  startedAt : Nat
  /-- Routers that have forwarded its wake message (R180). -/
  seenBy : List Nat
  /-- The role index of each core of the range, by partition-relative number (R83, R187). -/
  roles : List (Nat × Nat)
  /-- A STATUS fixed before completion: 0x0A, 0x0B (R408, R438), with its FCORE. -/
  forced : Option (Byte × BitVec 32)
  /-- Whether Axolotl has run, and whether it left a point or block unwritten (R388, R394). -/
  axolotlDone : Bool
  axolotlFailed : Bool
  /-- The coverage rung in force and its fraction (R385). -/
  rung : Nat
  frac : BitVec 32
  /-- It is a replay of its partition's log, and whether that has diverged (R453, R454). -/
  replay : Bool
  diverged : Bool
  /-- Log records that the replay has used, by slot (R453, R454). -/
  replayed : List Nat
  /-- The GRANT that a replay's logged start notice makes MFC read (R453). -/
  replayGrant : Option Word
  /-- Role images on their way through their boot trees, as position 0 read them: by 128 × role + super-group (R182). -/
  images : SMap (List Byte)
  /-- The container's section table: type, offset and size of each section (R82). -/
  sections : List (Nat × Nat × Nat)
  /-- The coverage descriptor, read once when the launch is checked; empty without coverage (R381). -/
  cdesc : List Byte
  /-- Side-buffer slots whose ID write failed (R386). -/
  badSlots : List Nat
  /-- The header of each role that its range names, as its check read them (R83, R84; log 33). -/
  headers : SMap RoleHeader
  /-- The segments of its lap schedule, as its check read them (R342). -/
  segments : List Segment
  /-- SEQ of the newest grant that its range was notified of (R359, R364). -/
  noticeSeq : Option Nat
  /-- Grants noticed to a recording launch and not yet logged, oldest first, as the messages' DATA (R451). -/
  noticed : List Word
  deriving DecidableEq, Repr

/-- A mask of a Chorus buffer before its release (R202 to R204). -/
inductive MaskStage where
  /-- It has not fired. -/
  | unfired
  /-- It has reported upward. -/
  | reported
  /-- It has fired, and its release is on its way. -/
  | firing
  deriving DecidableEq, Repr

/-- A mask record in a unit's buffer (R199, R202). -/
structure ChorusMask where
  /-- Its index in the expanded stream. -/
  idx : Nat
  mask : BitVec 64
  up : Bool
  exch : Bool
  yields : Bool
  ratio : Bool
  stage : MaskStage
  /-- Reports assigned to it: the sending unit, and the index of the mask that reported (R204). -/
  reports : List (Nat × Nat)
  deriving DecidableEq, Repr

/-- A repeat body in progress: its first record, its length, and the passes left after this one; none when unbounded (R200). -/
structure ChorusRep where
  first : Nat
  len : Nat
  passes : Option Nat
  deriving DecidableEq, Repr

/-- A launch's context in one Chorus unit (R197, R198). -/
structure Chorus where
  started : Bool
  /-- The record the sequencer reads next, the repeats it is in, and the mask records expanded so far. -/
  pos : Nat
  reps : List ChorusRep
  expanded : Nat
  /-- A mask record that waits for a free entry. -/
  hold : Option ChorusMask
  /-- The 64-entry buffer, oldest first. -/
  buf : List ChorusMask
  /-- The sequencer is done: its qualifier of R210 and its stop point. -/
  done : Option (Byte × Nat)
  /-- Reports on their way from lower units, and reports that have arrived and are assigned to no mask, oldest first: the sending unit and its mask. -/
  incoming : List (Nat × Nat)
  loose : List (Nat × Nat)
  /-- The time from which the watchdog counts (R211). -/
  stuck : Option Nat
  deriving DecidableEq, Repr

/-- A context that has not started. -/
def Chorus.empty : Chorus := ⟨false, 0, [], 0, none, [], none, [], [], none⟩

/-- A release on its way: the launch, and the releasing mask's level, unit and index (R205). -/
structure Release where
  launch : Nat
  level : Nat
  unit : Nat
  idx : Nat
  deriving DecidableEq, Repr

/-- A host write to a coherent window that is held, or waits at its host port behind 256 held ones: its offset in the window space, the bytes written and the word (R452, R453). -/
structure HeldWrite where
  /-- The launches that hold it still. -/
  holders : List Nat
  die : Nat
  off : Nat
  mask : Byte
  value : Word
  deriving DecidableEq, Repr

/-- A committed partition-table entry (R428). -/
structure PartEntry where
  valid : Bool
  pid : Byte
  vf : Nat
  /-- Bit 16d + SG: physical super-group SG of die d. -/
  sgs : BitVec 128
  deriving DecidableEq, Repr

/-- An entry that is not valid. -/
def PartEntry.empty : PartEntry := ⟨false, 0, 0, 0⟩

/-- The stop of a partition (R403 to R409). -/
inductive StopState where
  | none
  /-- Requested at a time; `forced` once the yield deadline has passed, with the time of the forcing. -/
  | requested (since : Nat) (forced : Option Nat)
  /-- Stopped: KIND and PARKED of the notice, and the ref tick of its completion (R409). -/
  | stopped (kind : Nat) (parked : Nat) (tick : Nat)
  deriving DecidableEq, Repr

/-- What runs beside a partition-table entry: its multipliers, its stop and its reset (R358, R403, R438). -/
structure Partition where
  /-- Matrix and vector multipliers in force, and the SEQ and CAUSE of the grant they come from (R358, R359). -/
  mat : Nat
  vec : Nat
  /-- The edges at which each of the two last changed (R365; log 49). -/
  matBase : Nat
  vecBase : Nat
  grantSeq : Nat
  grantCause : Nat
  stop : StopState
  /-- A debugger or resize stop that outlives a switch (R432). -/
  stayStopped : Bool
  /-- A saved context of the partition exists (R433). -/
  saved : Bool
  /-- A reset is in progress (R438). -/
  resetting : Bool
  /-- A reset during a lap: its segments leave the image at the next lap start, even if the reset is over by then (R357, R438). -/
  leaves : Bool
  /-- Trace records were dropped since the last one written (R445). -/
  dropped : Bool
  /-- Super-groups whose scrub has not finished (R438, R439). -/
  scrubs : List Nat
  /-- Debug writes that take effect at the resume edge: DBGSEL and the value (R443). -/
  debug : List (Word × Word)
  deriving DecidableEq, Repr

/-- A partition at the nominal set, with nothing in progress (R5, R359). -/
def Partition.idle : Partition := ⟨12, 20, 0, 0, 0, 0, .none, false, false, false, false, false, [], []⟩

/-- What a 64-bit word of BAR0 reads as at reset, by byte offset (R430, R431, R457, R458, R465, R468, R469). -/
def bar0Reset (off : Nat) : Word :=
  if off = 0x118 then 0x2414
  else if 0x11000 ≤ off ∧ off < 0x11200 then 200000
  else if 0x450000 ≤ off ∧ off < 0x452000 then 0xFFFF_FFFF_FFFF_FFFF
  else if 0x452000 ≤ off ∧ off < 0x452600 then
    (if off % 64 = 0 then 0x20000 else if off % 64 = 8 then 8 else 0)
  else if 0x480000 ≤ off ∧ off < 0x481000 then 0x00FF_00FF_00FF_00FF
  else if 0x1000000 ≤ off ∧ off < 0x1400000 then
    (if off % 0x4000 = 0 then 0x20000 else if off % 0x4000 = 0x10 then 20 else 0)
  else 0

/-- The package's clock arbiter (R358 to R370). -/
structure Chameleon where
  /-- The newest grant: SEQ, CAUSE and its four multipliers. -/
  seq : Nat
  cause : Nat
  mat : Nat
  vec : Nat
  net : Nat
  mem : Nat
  /-- The network and memory multipliers in force (R358). -/
  netNow : Nat
  memNow : Nat
  /-- The edges at which each of the two last changed (R226; log 49). -/
  netBase : Nat
  memBase : Nat
  /-- The newest grant is wholly in force (R363). -/
  whole : Bool
  /-- The cap in watts, and the older cap that still bounds R368 (R370). -/
  cap : Nat
  oldCap : Option Nat
  /-- The last accepted token's SEQ, and the time its lease ends (R370). -/
  tokenSeq : Nat
  leaseEnd : Option Nat
  /-- An emergency pause in progress, and the time by which it ends (R368). -/
  pauseEnd : Option Nat
  /-- The answers given to tokens, newest first (R470). -/
  answers : List Byte
  deriving DecidableEq, Repr

/-- Chameleon after reset: the floor cap, no lease, and the nominal set (R370; log 14). -/
def Chameleon.reset : Chameleon := ⟨0, 0, 12, 20, 24, 16, 24, 16, 0, 0, true, 1200, none, 0, none, none, []⟩

/-- How a request was answered: its value and status, or its cause and qualifier (R234, R263). -/
inductive Answer where
  | ok (value status : Nat)
  | fail (code qual : Byte)
  deriving DecidableEq, Repr

/-- What a request serves: a core's instruction, a piece of a copy job, or an operand transfer of a matrix engine (R251, R296, R326). -/
inductive Client where
  | core
  /-- A piece of the job in an entry of a pod's copy unit: a read of it at an offset, or its write. -/
  | copy (pod entry piece off : Nat) (write : Bool)
  /-- A piece of an operand transfer of a pod's engine, by the command's number. -/
  | operand (pod cmd piece : Nat)
  /-- A request of another package, by the link's port, the package, the partition id and its number there; its `core` is the one whose slice it names (R468). -/
  | remote (port pkg pid req : Nat)
  deriving DecidableEq, Repr

/-- Where a request is. -/
inductive ReqStage where
  /-- It waits at its interface: a release for the earlier writes of its scope (R252, R288), and any access for the earlier ones to its bytes that R277 and R286 put before it. -/
  | atInterface (waits : List Nat)
  /-- On its way to its destination. -/
  | sent
  /-- Armed in a monitor table, in order of arming, on the word at an address key (R263). -/
  | armed (key order : Nat)
  /-- Waits at a host port for a PCIe completion; the key of its first byte (R462). -/
  | atHost (key : Nat)
  /-- Waits at a host port behind an earlier access of its core to its bytes; the key of its first byte (R277, R286). -/
  | behind (key : Nat)
  /-- A CAPGIVE whose handover is on its way; the key of its granule's byte (R272). -/
  | handing (key : Nat)
  /-- On its way over a link, with the time it was sent (R410). -/
  | onLink (since : Nat)
  /-- Answered; the response is on its way. -/
  | answered (a : Answer)
  /-- The response of an engine's request has come back. -/
  | returned (a : Answer)
  /-- Failed and held by its core, or held behind a failure (R257). -/
  | held
  deriving DecidableEq, Repr

/-- A near or global request: its issuing core is the one it is checked as (R234, R251). -/
structure Req where
  core : Nat
  client : Client
  /-- Its place in the order of its core's requests. -/
  seq : Nat
  op : ReqOp
  near : Bool
  ea : Word
  acquire : Bool
  /-- The scope of a release (R276). -/
  release : Option Nat
  /-- Later near and global accesses wait for it: FLUSH and CAPGIVE (R267, R272). -/
  blocks : Bool
  /-- Issued in handler mode (R258). -/
  handler : Bool
  /-- The pending result it answers, and the registers it writes, by their places when it issued (R51). -/
  result : Option Nat
  dst : Option PReg
  dst2 : Option PReg
  vec : Option Nat
  /-- Its d field as issued, for MFR (R256). -/
  reg : Field
  /-- Its function code in class 0x4, for MFR (R256). -/
  opc : Nat
  /-- Its destination class; none for a request refused by step 1 of R234 (R244). -/
  cls : Option Nat
  /-- It writes memory (R247). -/
  writes : Bool
  /-- The time from which its network cycles are counted, and those counted before the network clock last changed (R245). -/
  sentAt : Nat
  cycles : Nat
  stage : ReqStage
  /-- An interrupt has sent a withdrawal for it (R265). -/
  withdrawn : Bool
  /-- The earlier drains it waits for, by the owners of their ranges (R277, R335). -/
  drains : List Nat := []
  /-- The pages whose translations its access has used, with its table walks: space, whether of stage 1, and page (R420, R421). -/
  used : List (Nat × Bool × Nat) := []
  deriving DecidableEq, Repr

/-- Whether a request awaits its response (R251). -/
def Req.awaits (r : Req) : Bool :=
  match r.client, r.stage with
  | .core, .held => false
  | .core, _ => true
  | _, _ => false

/-- The slice a write goes to, if it goes to a slice of the package: by its near address within super-group `sg`, or its slice-space address (R232, R235). -/
def Req.writesSlice (r : Req) : Option Nat :=
  if !r.writes then none
  else if r.near then some (r.core / 64 * 64 + (r.ea.extractLsb' 18 6).toNat)
  else if r.ea.extractLsb' 62 2 = 1 then some ((r.ea.extractLsb' 18 13).toNat)
  else none

/-- What a packet carries (R238). -/
inductive Body where
  /-- A request on its way to its destination, and its response on its way back. -/
  | request (req : Nat)
  | response (req : Nat)
  /-- The withdrawal of a WAITA (R265). -/
  | withdrawal (req : Nat)
  /-- An inbox message on its way, by number (R268). -/
  | message (msg : Nat)
  /-- An answer or a withdrawal that has come in over a link (R468). -/
  | remote (port : Nat) (msg : LinkMsg)
  /-- The wake message of a launch (R180). -/
  | wake (launch : Nat)
  /-- A trace record of a partition, with the core it comes from (R447). -/
  | trace (part : Nat) (core : Option Nat)
  /-- A feeder's read on its way to HBM, or the frame on its way back to station 0 (R344; log 31). -/
  | feed (die : Nat) (back : Bool)
  deriving DecidableEq, Repr

/-- A packet of the mesh (R237 to R243). -/
structure Packet where
  body : Body
  vc : Nat
  flits : Nat
  pid : Byte
  /-- Its destination: a router of the package, 16d + SG, and a port of it. -/
  router : Nat
  port : Nat
  /-- Its multicast group in place of a destination; and the branches not yet sent, of a multicast packet or a wake message (R180, R241, R242). -/
  group : Option Nat
  branches : List Nat
  /-- AGE as it stood when the packet reached the head of its buffer (R240). -/
  age : Nat
  /-- The buffer it is in or bound for: 28 x router + 4 x port + VC. -/
  buf : Nat
  /-- Its head has arrived there. -/
  arrived : Bool
  /-- The time from which it can be granted, once it is at the head of its buffer. -/
  since : Option Nat
  deriving DecidableEq, Repr

/-- Room of a buffer taken by flits that leave it by a time. -/
structure Hold where
  flits : Nat
  till : Nat
  deriving DecidableEq, Repr

/-- A VC buffer of an input port, or of the unit at an edge (R238): its packets in order, those that wait to enter it, and room not yet given back. -/
structure Buf where
  queue : List Nat
  waiting : List Nat
  holds : List Hold
  deriving DecidableEq, Repr

/-- An empty buffer. -/
def Buf.empty : Buf := ⟨[], [], []⟩

/-- The arbiter of an output port (R239). -/
structure OutPort where
  /-- CNT of every pair, 4 x port + VC. -/
  cnt : List Nat
  /-- The pair granted last. -/
  ptr : Nat
  /-- The time from which the output is free. -/
  free : Nat
  deriving DecidableEq, Repr

/-- An arbiter at reset: every CNT 0 and PTR at pair 0 (DESIGN CHOICE, log 12). -/
def OutPort.idle : OutPort := ⟨List.replicate 28 0, 0, 0⟩

/-- An inbox message on its way, with its sender, or waiting for a free entry (R268, R307). -/
structure Mail where
  core : Nat
  sender : Nat
  msg : Message
  /-- It has reached the core and found the inbox full, or an older message of its sender waiting. -/
  waits : Bool
  deriving DecidableEq, Repr

/-- A translation that an interface keeps (R420): the interface, the function, the space, the stage, the page, and the leaf. -/
structure CachedLeaf where
  iface : Nat
  vf : Nat
  space : Nat
  stage1 : Bool
  page : Nat
  leaf : Word
  deriving DecidableEq, Repr

/-- An invalidation in progress (R421). -/
structure Invalidation where
  op : Nat
  space : Nat
  vf : Nat
  addr : Nat
  /-- The completion word: an HBM address of the hypervisor's, or a global address under a function. -/
  done : Word
  guest : Bool
  /-- Matching entries have been dropped; the requests that had used one. -/
  dropped : Bool
  waits : List Nat
  deriving DecidableEq, Repr

/-- What a COPY hands to its unit: the issuing core, its descriptor and its options (R298, R299). -/
structure CopyOrder where
  core : Nat
  desc : List Byte
  form : Nat
  /-- The counter N, whether it is signalled, and whether recipients are signalled too (R298). -/
  n : Nat
  cen : Bool
  dcnt : Bool
  quiet : Bool
  /-- The register that takes the handle, and the earliest time of the handle, 2 vector cycles from the issue (R299). -/
  dst : Option PReg
  due : Nat
  deriving DecidableEq, Repr

/-- A piece of a job on its way: its destination, its bytes as they arrive, and the reads still out (R296). -/
structure CopyPiece where
  dst : Word
  bytes : Nat
  value : Nat
  left : Nat
  deriving DecidableEq, Repr

/-- A read that a job has still to send: its piece, its offset in it, its address and its size (R296). -/
structure CopyRead where
  piece : Nat
  off : Nat
  ea : Word
  bytes : Nat
  deriving DecidableEq, Repr

/-- Where a job stands (R296, R306). -/
inductive CopyStage where
  | queued
  | active
  /-- Its steps 1 to 4 are done, in this order of completion; its message waits for a place (R307). -/
  | posting (order : Nat)
  deriving DecidableEq, Repr

/-- A copy job (R296 to R307). -/
structure CopyJob where
  order : CopyOrder
  /-- Its place in the order of acceptance. -/
  seq : Nat
  stage : CopyStage
  /-- Its ranges are recorded and its handle is written (R299). -/
  recorded : Bool
  /-- The row or block, and the offset in it, of the next piece to cut; none when all are cut. -/
  cursor : Option (Nat × Nat)
  nextPiece : Nat
  reads : List CopyRead
  /-- Pieces whose data has arrived, to be written in this order. -/
  ready : List Nat
  pieces : SMap CopyPiece
  /-- Requests without a response yet. -/
  out : Nat
  written : Nat
  flags : Nat
  /-- A write of the job has taken effect (R446). -/
  landed : Bool
  /-- STATUS, QUAL and stage of the first failure (R305, R306). -/
  failure : Option (Byte × Byte × Nat)
  /-- The sequence region whose turn the job has (R303). -/
  region : Option Nat
  /-- Its place in the order in which jobs have started (R466). -/
  stamp : Nat
  /-- The storage command has been sent, and its device status once it has come (R304, R466). -/
  command : Bool
  device : Option (BitVec 16)
  blocks : SMap (List Byte)
  deriving DecidableEq, Repr

/-- An entry of a copy unit's queue: its generation, the final STATUS of its last job, and its job (R296, R297). -/
structure CopyEntry where
  gen : Nat
  status : Byte
  job : Option CopyJob
  deriving DecidableEq, Repr

/-- An entry at launch (R297). -/
def CopyEntry.empty : CopyEntry := ⟨0, 0, none⟩

/-- The copy unit of a pod (R296): its queue, its pointers, and the COPYs that wait for acceptance, by core. -/
structure CopyUnit where
  entries : SMap CopyEntry
  waiting : List CopyOrder
  aptr : Nat
  sptr : Nat
  iptr : Nat
  accepted : Nat
  completed : Nat
  deriving DecidableEq, Repr

/-- A copy unit at launch (R296, R297). -/
def CopyUnit.empty : CopyUnit := ⟨[], [], 0, 0, 0, 0, 0⟩

/-- An NVM Read command, opcode 0x02, from its submission to its completion (R466): its pod and entry, the namespace's index and id, its slot in the submission queue, its first logical block and their number, and the HBM address and size that its PRP entries name through BAR2. -/
structure NvmeCommand where
  pod : Nat
  entry : Nat
  ns : Nat
  nsid : BitVec 32
  slot : Nat
  lba : Nat
  blocks : Nat
  dst : Word
  bytes : Nat
  deriving DecidableEq, Repr


/-- An operand slot's claim, by slice index, and its ERR flag (R317). -/
structure OpSlot where
  claim : Option Nat
  err : Bool
  deriving DecidableEq, Repr

/-- A slot at launch: free, without ERR (R317). -/
def OpSlot.free : OpSlot := ⟨none, false⟩

/-- An accumulator bank's sticky flags, in the order of STAT.FX, and its failed mark: the qualifier and the slot (R317, R400). -/
structure Bank where
  flags : BitVec 5
  mark : Option (Byte × Nat)
  deriving DecidableEq, Repr

/-- A bank's flags and mark at launch (R317, R400). -/
def Bank.clear : Bank := ⟨0, none⟩

/-- What a command of the matrix engine does, with its operands as captured at issue (R324). -/
inductive MatKind where
  /-- MLOAD or MSTORE (R325). -/
  | move (load : Bool) (slot half : Nat) (whole b32 glob : Bool) (ea : Word) (counter : Option Nat)
  /-- MZERO (R328). -/
  | zero (bank : Nat)
  /-- MREL (R321). -/
  | rel (slot n : Nat)
  /-- A gang: its formats, its operands, and the bank and Z of each slice in order (R330). -/
  | gang (fa fb : Field) (slotA half slotB : Nat) (banks : List (Nat × Bool))
  /-- MDRAIN (R333). -/
  | drain (bank cvt : Nat) (clr : Bool) (ea : Nat) (stride : Word) (nr cmask scale : Nat)
  deriving DecidableEq, Repr

/-- A command of a matrix engine (R324). -/
structure MatCmd where
  core : Nat
  kind : MatKind
  /-- It has left its core's queue; it has begun. -/
  accepted : Bool
  started : Bool
  /-- The engine's first edge after its issue, or after its gang formed (R324, R337). -/
  edge : Nat
  /-- The time it finishes, once that is known. -/
  due : Option Nat
  /-- The bytes a global move has moved, and its failure: cause, qualifier and address (R327). -/
  pos : Nat
  failure : Option (Byte × Byte × Word)
  deriving DecidableEq, Repr

/-- What a member of the next gang has captured (R330). -/
structure GangMember where
  specA : Word
  specB : Word
  fa : Field
  fb : Field
  bank : Nat
  z : Bool
  deriving DecidableEq, Repr

/-- The matrix engine of a pod (R317): slots by number, banks at 4 × slice + bank, commands in order of issue, the members of the next gang and the gang counts by slice. -/
structure Matrix where
  slots : SMap OpSlot
  banks : SMap Bank
  cmds : SMap MatCmd
  nextCmd : Nat
  members : SMap GangMember
  counts : SMap Nat
  deriving DecidableEq, Repr

/-- An engine at launch (R317). -/
def Matrix.empty : Matrix := ⟨[], [], [], 0, [], []⟩

/-- What a feeder reads: the lap, the frame of the lap, its segment, the segment's index in the image, the frame's index in the segment, and whether it is the lap's last (R344). -/
structure FeedWant where
  lap : Nat
  frame : Nat
  seg : Segment
  segIdx : Nat
  findex : Nat
  last : Bool
  deriving DecidableEq, Repr

/-- A frame of the ring: what it was read for, its 64 header bytes, and its data and scale bytes (R340, R341). -/
structure RingFrame where
  want : FeedWant
  head : List Byte
  bytes : List Byte
  deriving DecidableEq, Repr

/-- A feeder's read: what it is for, the frame once HBM has answered, and the failure (R344). -/
structure FeedRead where
  want : FeedWant
  frame : Option RingFrame
  failure : Option (Byte × Byte)
  deriving DecidableEq, Repr

/-- A boarding context (R346). -/
structure BoardCtx where
  layer : Nat
  f0 : Nat
  n : Nat
  slot : Nat
  counter : Nat
  auto : Bool
  /-- 0 idle, 1 armed, 2 catching, 3 done, 4 retry. -/
  state : Nat
  missed : Bool
  corrupt : Bool
  short : Bool
  reported : Bool
  written : Nat
  /-- The lap and the format code of the last catch (R354). -/
  lap : Nat
  fmtc : Byte
  /-- The time its arming takes effect, and the lap number that a catch is compared with (R348, R349). -/
  effectAt : Nat
  effectLap : Option Nat
  /-- Bad frames by index in the segment, in rising order, with whether the header was bad (R352, R353). -/
  bad : List (Nat × Bool)
  /-- It catches, or has caught, for the second time (R352). -/
  retry : Bool
  /-- The number on the ring of its segment's first frame, while it catches, and the segment's frames. -/
  base : Nat
  count : Nat
  /-- Frames whose headers have arrived and that the tap has still to act on: number, and whether the header was accepted (R350). -/
  acts : List (Nat × Bool)
  /-- The number of the first lap it can catch in: that of the lap after its restore (R357). -/
  fromLap : Nat
  deriving DecidableEq, Repr

/-- A context at launch: idle, its flags and counts cleared (R346). -/
def BoardCtx.idle : BoardCtx := ⟨0, 0, 0, 0, 0, false, 0, false, false, false, false, 0, 0, 0, 0, none, [], false, 0, 0, [], 0⟩

/-- The weight ring (R339 to R357). -/
structure Ring where
  /-- Each partition's segments, by partition-table entry, as the next lap start finds them (R342). -/
  segs : SMap (List Segment)
  /-- The image and RINGCTL of the lap in progress (R344, R345). -/
  image : List Segment
  ctl : Word
  inLap : Bool
  /-- Laps started since reset; the lap in progress is one less (R344). -/
  laps : Nat
  /-- The next frame of the lap, the earliest time of the next lap under LAPP (R345), and that of the next injection. -/
  next : Nat
  lapDue : Nat
  nextAt : Nat
  /-- What each feeder has asked for, with the frame once it is read and the failure of the read; and the frame that each feeder has delivered (R344). -/
  reads : SMap FeedRead
  fed : SMap RingFrame
  /-- Frames on the ring, numbered as injected, and how many have reached each station. -/
  frames : SMap RingFrame
  injected : Nat
  arrived : Vector Nat 8
  /-- Boarding contexts, at 16 × pod + 2 × slice + X (R346). -/
  ctxs : SMap BoardCtx
  /-- Lane mappings that the next lap start brings into force: group of lanes and spare (R345, R356). -/
  lanes : List (Nat × Nat)
  deriving DecidableEq, Repr

/-- The ring after reset: an empty image, and no lap started (R344). -/
def Ring.reset : Ring := ⟨[], [], 0, false, 0, 0, 0, 0, [], [], [], 0, Vector.replicate 8 0, [], []⟩
/-- A transaction in a port's replay buffer (R467): the port, its VC, the 64-byte flits it takes, and what they carry. -/
structure LinkSend where
  port : Nat
  vc : Nat
  flits : Nat
  msg : LinkMsg
  deriving DecidableEq, Repr

/-- A word of the exchange fabric on its way to one core (R220). -/
structure XWord where
  sender : Nat
  target : Nat
  slot : Nat
  value : Word
  arrival : Nat
  deriving DecidableEq, Repr

/-- What a turn does. -/
inductive Act where
  /-- An event of another agent or of the outside. -/
  | event (i : Instr)
  /-- The host writes bytes of its own memory (R290). -/
  | hostStore (addr : Nat) (bytes : List Byte)
  /-- The host writes bytes of HBM through BAR2 (R313, R456). -/
  | hbmStore (addr : Nat) (bytes : List Byte)
  /-- The trace path sends the oldest record that may leave its source (R447). -/
  | traceWrite
  /-- A record of a partition, from a core or from the partition itself, reaches its buffer (R447). -/
  | traceStore (part : Nat) (core : Option Nat)
  /-- A feeder's read reaches HBM (R344). -/
  | feedRead (die : Nat)
  /-- The driver removes a partition's segments from the lap image (R342; log 37). -/
  | removeSegments (part : Nat)
  /-- A unit has corrected an error: an entry of the error and wear region, by its number (R397, R461). -/
  | correctedError (entry : Nat)
  deriving DecidableEq, Repr

/-- One entry of the agenda: the time it is due, the core it concerns, and what happens. -/
structure Turn where
  due : Nat
  core : Nat
  act : Act
  deriving DecidableEq, Repr

/-- A trace record on its way to its partition's buffer, with the core whose queue it leaves (R447, R448). -/
structure TraceItem where
  part : Nat
  core : Option Nat
  record : TraceRecord
  /-- Its packet has left. -/
  sent : Bool
  deriving DecidableEq, Repr

/-- What a context save keeps of a partition, by partition-relative numbers (R433): cores and slices by rank, pods and their operand and bank memory by rank / 8, boarding contexts at 16 × pod + context, and Chorus contexts at 256 × level + unit, level-0 units by index k. -/
structure SavedContext where
  part : Nat
  /-- Its block: the first byte, counted from the start of its function's save area, and the size. -/
  start : Nat
  size : Nat
  /-- SEQ of the partition's grant at the stop (R436). -/
  grantSeq : Nat
  cores : SMap Core
  slices : Memory
  matrices : SMap Matrix
  operands : Memory
  ctxs : SMap BoardCtx
  copyUnits : SMap CopyUnit
  /-- Chorus contexts of each launch of the partition: launch, 256 × level + unit, context. -/
  chorus : List (Nat × Nat × Chorus)
  /-- Inbox messages that wait for a free entry, with the core's rank in place of the core (R307). -/
  mail : List Mail
  /-- The requests of the accesses that its cores hold, by number, with the core's rank in place of the core (R257, R433). -/
  reqs : SMap Req
  deriving DecidableEq, Repr

/-- Where a switch of virtual functions stands (R432). -/
inductive SwitchStage where
  | none
  | stopping
  | saving
  | scrubbing
  | restoring
  deriving DecidableEq, Repr

/-- Time slicing (R430 to R432): whether it is in force, the active entry of the quantum table, the virtual function whose partitions run, the one that ran last, the entry being switched to with its function as the switch found it, and the super-groups still to be scrubbed. -/
structure TimeSlice where
  on : Bool
  entry : Option Nat
  vf : Option Nat
  out : Option Nat
  target : Option (Nat × Nat)
  stage : SwitchStage
  scrubs : List Nat
  /-- The time at which the active quantum ends. -/
  quantumEnd : Nat
  deriving DecidableEq, Repr

/-- Spatial mode, with no switch in progress (R430). -/
def TimeSlice.off : TimeSlice := ⟨false, none, none, none, none, .none, [], 0⟩

/-- The whole machine. -/
structure State where
  /-- The package time, in units of 1 / 5,354,228,880 of a ref tick: every count of R5 and R8 is computed from it. -/
  now : Nat
  /-- What happens next, in order of time: the MODEL's own field (DESIGN CHOICE, log 1). -/
  agenda : List Turn
  /-- The core whose instruction `exec` runs: the MODEL's own field (DESIGN CHOICE, log 1). -/
  cur : Nat
  /-- The number of free values used so far: the MODEL's own field (DESIGN CHOICE, log 3). -/
  free : Nat
  /-- The number that the next request, packet, message, exchange word, release or invalidation takes; none is used twice: the MODEL's own field (DESIGN CHOICE, log 1). -/
  nextId : Nat
  /-- The cores by flat number (R183); an unlisted core is in its reset state. -/
  cores : SMap Core
  /-- Slices, HBM, host memory and coherent windows (R231, R235), by address key. -/
  mem : Memory
  /-- Address keys of the 8-byte words that hold an uncorrectable error (R397). -/
  badWords : List Nat
  /-- Words of the exchange fabric on their way (R220). -/
  xwords : SMap XWord
  /-- Launches by number (R180). -/
  launches : SMap Launch
  /-- Committed partition-table entries by index (R428), and what runs beside each. -/
  parts : SMap PartEntry
  partitions : SMap Partition
  /-- BAR0 of the physical function as 64-bit words by byte offset (R457). -/
  bar0 : SMap Word
  /-- INVDONE of the physical function, which reads as zero (R421, R457). -/
  invDone : Word
  /-- The virtual functions' function pages as 64-bit words, at 4096 × VF + offset (R459). -/
  vfPages : SMap Word
  /-- The first eight bytes of the command being written at INVCMD: 0 for the hypervisor's, v + 1 for virtual function v's (R421). -/
  cmdLow : SMap Word
  chameleon : Chameleon
  /-- Trace records on their way, oldest first (R447). -/
  traceOut : List TraceItem
  /-- Near and global requests of cores, numbered in the order they issued (R251). -/
  reqs : SMap Req
  /-- Packets of the mesh by number, buffers and arbiters (R237 to R242). -/
  packets : SMap Packet
  bufs : SMap Buf
  outs : SMap OutPort
  /-- The time until which a unit's packet takes its input port, at 7 x router + port (R237). -/
  ins : SMap Nat
  /-- Inbox messages on their way, by number (R268). -/
  mail : SMap Mail
  /-- Monitors armed so far, which orders them (R264). -/
  monitors : Nat
  /-- Read-cache lines of the two host ports, oldest first: port, line, and its bytes (R267, R462). -/
  hostCache : List (Nat × Nat × VWord)
  /-- The translation caches of the destination interfaces (R420), and invalidations in progress (R421). -/
  tcache : List CachedLeaf
  invs : SMap Invalidation
  /-- The package's number in its scale-up domain (R183). -/
  pkg : Nat
  /-- Bytes of the interval by stack and partition, 128 x stack + entry, and the requests that wait for the next interval (R371). -/
  budgetUsed : SMap Nat
  budgetEpoch : Nat
  budgetHeld : List Nat
  /-- Holders of write capabilities that a handover has moved, by granule key (R271, R272). -/
  holders : SMap Nat
  /-- The copy units by pod (R296), and NEXT of the reduce sequence regions by launch and granule (R303). -/
  copyUnits : SMap CopyUnit
  reduceNext : SMap Nat
  /-- NVMe commands submitted and not completed, oldest first, and the slot that a namespace's next command takes, by its index (R466). -/
  nvme : List NvmeCommand
  nvmeTail : SMap Nat
  /-- The matrix engines by pod (R317), and the weight ring (R339). -/
  matrices : SMap Matrix
  ring : Ring
  /-- Chorus contexts, at 1024 × launch + 256 × level + unit (R197), and releases on their way, by number (R205). -/
  chorus : SMap Chorus
  releases : SMap Release
  /-- Host window writes that are held, in arrival order (R452, R453). -/
  heldWrites : List HeldWrite
  /-- Saved contexts, by partition-table entry (R433), and time slicing (R430). -/
  savedCtx : SMap SavedContext
  slice : TimeSlice
  /-- Physical positions by the unit they stand in for: 2^20 × kind + unit (R440, R461). -/
  spares : SMap Nat
  /-- Super-groups that have passed their own bring-up, by 16d + SG; READY0 and READY1 hold those whose paths and stacks are ready too (R460). -/
  sgUp : BitVec 128
  /-- What has been put on the links, oldest first (R467, R468); and replays of the flit now being sent again, by port (R469). -/
  linkOut : List LinkSend
  linkTries : SMap Nat
  deriving DecidableEq, Repr

/-- The machine after reset (R37, R370, R440, R460).
Values that the spec does not give are named in logs 1 to 4, 12 and 14. -/
def State.reset : State where
  now := 0
  agenda := []
  cur := 0
  free := 0
  nextId := 0
  cores := []
  mem := []
  badWords := []
  xwords := []
  launches := []
  parts := []
  partitions := []
  bar0 := []
  invDone := 0
  vfPages := []
  cmdLow := []
  chameleon := Chameleon.reset
  traceOut := []
  reqs := []
  packets := []
  bufs := []
  outs := []
  ins := []
  mail := []
  monitors := 0
  hostCache := []
  tcache := []
  invs := []
  pkg := 0
  budgetUsed := []
  budgetEpoch := 0
  budgetHeld := []
  holders := []
  copyUnits := []
  reduceNext := []
  nvme := []
  nvmeTail := []
  matrices := []
  ring := Ring.reset
  chorus := []
  releases := []
  heldWrites := []
  savedCtx := []
  slice := TimeSlice.off
  spares := []
  sgUp := 0
  linkOut := []
  linkTries := []

/-- Why the machine stops. Raised only for a turn that names something the package does not have; safe, since the hardware has no such event. -/
inductive Fault where
  /-- An event names a core, unit, port or table that the package does not have (R3). Raised by the event's meaning. Safe. -/
  | noSuchUnit
  deriving DecidableEq, Repr

/-- Why a step has no meaning. -/
inductive Refusal where
  /-- An instruction that the model does not give a meaning yet, by its mnemonic. Raised by the dispatcher only. Safe: nothing can be proved of it. -/
  | notModelled (mnemonic : String)
  deriving DecidableEq, Repr

end Sys2Proof.Machine
end

