-- ==== Sys2Proof/Machine/Operands.lean ====
section
/-! DEFINITION. Operand forms: the fields of every tail in one record, register access, typed operands and effective addresses (R12 to R14, R35, R40, R54, R88, R98, R101). -/

namespace Sys2Proof.Machine

/-- The fields of any tail; a field that a form does not have is 0 (R40). -/
structure Opnd where
  d : Field
  a : Field
  b : Field
  c : Field
  m : BitVec 8
  f : BitVec 4
  imm : BitVec 32
  deriving DecidableEq, Repr

/-- The fields of form Z. -/
def noOpnd : Opnd := ⟨0, 0, 0, 0, 0, 0, 0⟩

/-- The fields of an H tail. -/
def opndH (t : TailH) : Opnd := ⟨0, t.a, t.b, 0, 0, t.f, 0⟩

/-- The fields of a W tail. -/
def opndW (t : TailW) : Opnd := ⟨t.d, t.a, t.b, t.c, t.m, 0, 0⟩

/-- The fields of an I tail. -/
def opndI (t : TailI) : Opnd := ⟨t.d, t.a, 0, 0, 0, 0, t.imm.setWidth 32⟩

/-- The fields of an L tail. -/
def opndL (t : TailL) : Opnd := ⟨t.d, t.a, t.b, 0, 0, 0, t.imm.setWidth 32⟩

/-- The fields of a D tail. -/
def opndD (t : TailD) : Opnd := ⟨t.d, t.a, t.b, t.c, t.m, 0, t.imm⟩

/-- An integer type: its width and its signedness (R54). -/
structure IType where
  width : Nat
  signed : Bool
  deriving DecidableEq, Repr

/-- The type of a 3-bit type code (R54). -/
def itypeOf (code : Nat) : IType := ⟨8 * 2 ^ (code % 4), decide (4 ≤ code % 8)⟩

/-- The type in m[2:0] (R54). -/
def Opnd.mtype (o : Opnd) : IType := itypeOf (o.m.toNat % 8)

/-- The type in b[2:0] (R54). -/
def Opnd.btype (o : Opnd) : IType := itypeOf (o.b.toNat % 8)

/-- The value of a pattern read as a type: ReadT on a pattern (R88). -/
def readT (x : Nat) (t : IType) : Int := if t.signed then signExt x t.width else (zeroExt x t.width : Int)

/-- The register pattern that WriteT stores for a value (R35, R88). -/
def writeT (v : Int) (t : IType) : Word :=
  let p := truncI v t.width
  if t.signed then wordOf (signExt p t.width) else BitVec.ofNat 64 p

/-- Pat(v, N) (R88). -/
def pat (v : Int) (n : Nat) : Nat := truncI v n

/-- The place a general-register number names: none for g0 (R12 to R14). -/
def Core.phys (c : Core) (n : Field) : Option PReg :=
  let k := n.toNat
  if k = 0 then none
  else if k ≤ 15 then some (.glob (k - 1))
  else if c.hm then some (.hbank (k - 16))
  else some (.stack ((c.slot.toNat + k - 16) % 176))

/-- The value of a general register's place. -/
def Core.getP (c : Core) : PReg → Word
  | .glob i => c.glob[i]?.getD 0
  | .stack i => c.stack[i]?.getD 0
  | .hbank i => c.hbank[i]?.getD 0

/-- A core with a general register's place written. -/
def Core.setP (c : Core) (r : PReg) (x : Word) : Core :=
  match r with
  | .glob i => { c with glob := c.glob.setIfInBounds i x }
  | .stack i => { c with stack := c.stack.setIfInBounds i x }
  | .hbank i => { c with hbank := c.hbank.setIfInBounds i x }

/-- G(n): the value a general-register number reads (R36). -/
def Core.readG (c : Core) (n : Field) : Word :=
  match c.phys n with
  | some r => c.getP r
  | none => 0

/-- V(n): the value of a vector register (R36). -/
def Core.readV (c : Core) (n : Nat) : VWord := c.vec[n]?.getD 0

/-- A core with a vector register written. -/
def Core.setV (c : Core) (n : Nat) (x : VWord) : Core := { c with vec := c.vec.setIfInBounds n x }

/-- ReadT(n, T) (R88). -/
def Core.readGT (c : Core) (n : Field) (t : IType) : Int := readT (c.readG n).toNat t

/-- A core with one 64-bit lane of a vector register written (R223). -/
def Core.setLane (c : Core) (n i : Nat) (x : Word) : Core :=
  let old := (c.readV n).toNat
  let hi := old / 2 ^ (64 * (i + 1)) * 2 ^ (64 * (i + 1))
  c.setV n (BitVec.ofNat 512 (hi + x.toNat * 2 ^ (64 * i) + old % 2 ^ (64 * i)))

/-- The sticky flags of STAT, FX and SAT, which results set (R30). -/
def statSticky : Word := 0x1F_8000

/-- A core with one result written. -/
def Core.apply (c : Core) : Dest → Core
  | .gen (some r) x => c.setP r x
  | .gen none _ => c
  | .vec n x => c.setV n x
  | .lane n i x => c.setLane n i x
  | .flags bits => { c with stat := c.stat ||| (bits &&& statSticky) }
  | .walker w x => { c with walker := w, wid := x }

/-- The general-register place a result writes. -/
def Dest.genReg : Dest → Option PReg
  | .gen r _ => r
  | _ => none

/-- The vector register a result writes. -/
def Dest.vecReg : Dest → Option Nat
  | .vec n _ => some n
  | .lane n _ _ => some n
  | _ => none

/-- The effective address of an L form, Trunc(G(a) + SignExt(imm30, 30), 64) (R101). -/
def Core.eaL (c : Core) (o : Opnd) : Word := wordOf ((c.readG o.a).toNat + signExt o.imm.toNat 30)

/-- The effective address of a D form, Trunc(G(a) + SignExt(imm32, 32), 64) (R249). -/
def Core.eaD (c : Core) (o : Opnd) : Word := wordOf ((c.readG o.a).toNat + signExt o.imm.toNat 32)

/-- The immediate of a class 0x2 form as an operand of a type (R98). -/
def Opnd.immT (o : Opnd) (t : IType) : Int := readT (wordOf (signExt o.imm.toNat 30)).toNat t

end Sys2Proof.Machine
end

