-- ==== Sys2Proof/Machine/Flags.lean ====
section
/-! DEFINITION. The fields of STAT, the flags results set, and the FMT prefix's payload (R26, R30, R92, R116, R126, R139). -/

namespace Sys2Proof.Machine

/-- STAT bits that a user-mode MTC changes: FX, SAT, FZ, RM, CE, IE (R30, R124). -/
def statWritable : Word := 0x1F_F140

/-- ESTAT bits that an MTC changes: every field but XM, which ignores writes (R31, R225). -/
def estatWritable : Word := 0x1F_F167

/-- STAT.FZ (R30). -/
def Core.fz (c : Core) : Bool := c.stat.getLsbD 14

/-- STAT.PK bit 0, a GD is pending (R30). -/
def Core.gdPending (c : Core) : Bool := c.pp && c.stat.getLsbD 1

/-- STAT.PK bit 1, an FMT is pending (R30). -/
def Core.fmtPending (c : Core) : Bool := c.pp && c.stat.getLsbD 2

/-- STAT.RM (R30). -/
def Core.rm (c : Core) : RMode :=
  match bitsOf c.stat 13 12 with
  | 0 => .rne
  | 1 => .rtz
  | 2 => .rup
  | _ => .rdn

/-- A STAT with HM, XM, IE and the pending-prefix bits replaced. -/
def statSet (st : Word) (bit : Nat) (v : Bool) : Word := setBits st bit bit (if v then 1 else 0)

/-- STAT with no prefix pending (R26). -/
def statNoPrefix (st : Word) : Word := setBits st 2 0 0

/-- The payload of the pending FMT, EPFX.FPAY (R26). -/
def Core.fmtTail (c : Core) : TailW := TailW.mk
  (c.epfx.extractLsb' 32 6) (c.epfx.extractLsb' 38 6) (c.epfx.extractLsb' 44 6) (c.epfx.extractLsb' 50 6) (c.epfx.extractLsb' 56 8)

/-- The payload of the pending GD, EPFX.GPAY (R26): its register, bit index and invert flag. -/
def Core.guardReg (c : Core) : Field := c.epfx.extractLsb' 0 6
/-- The bit index of the pending GD (R115). -/
def Core.guardBit (c : Core) : Nat := (c.epfx.extractLsb' 6 6).toNat
/-- The invert flag of the pending GD (R115). -/
def Core.guardInvert (c : Core) : Bool := c.epfx.getLsbD 12

/-- The guard's value, Bit(G(a), b) XOR f[0] (R115). -/
def Core.guardTrue (c : Core) : Bool := ((c.readG c.guardReg).getLsbD c.guardBit) != c.guardInvert

/-- RND of an FMT (R126). -/
def fmtRnd (t : TailW) : Nat := t.c.toNat % 8
/-- SATF of an FMT (R126). -/
def fmtSatf (t : TailW) : Bool := t.c.getLsbD 3
/-- B32 of an FMT (R126). -/
def fmtB32 (t : TailW) : Bool := t.c.getLsbD 4

/-- The FMT fields an instruction works under: those of its FMT, or none at all (R126, R136). -/
structure FmtView where
  df : Option Fmt
  af : Option Fmt
  bf : Option Fmt
  rm : RMode
  satf : Bool
  b32 : Bool
  param : Nat
  /-- The vector register of random bits, with RND = SR (R138). -/
  rand : Option Nat
  deriving DecidableEq, Repr

/-- The FMT fields in force for the instruction that issues: STAT.RM rounds when RND is 0b000 or no FMT is pending (R136). -/
def Core.fmt (c : Core) : FmtView :=
  if c.fmtPending then
    let t := c.fmtTail
    let rnd := fmtRnd t
    let rm :=
      match rnd with
      | 0 => c.rm
      | 1 => .rne
      | 2 => .rtz
      | 3 => .rup
      | 4 => .rdn
      | _ => .sr
    ⟨Fmt.ofCode t.d, Fmt.ofCode t.a, if rnd = 5 then none else Fmt.ofCode t.b, rm, fmtSatf t, fmtB32 t, t.m.toNat,
      if rnd = 5 then some t.b.toNat else none⟩
  else ⟨none, none, none, c.rm, false, false, 0, none⟩

/-- The random value of SR for element `e` of the result (R138). -/
def Core.srValue (c : Core) (v : FmtView) (e : Nat) : Nat :=
  match v.rand with
  | some r => laneOf (c.readV r).toNat 16 (e % 32)
  | none => 0

/-- The condition of R93 on two operands of width n; 0b111 is not accepted and is never asked for. -/
def condition (cc : Nat) (x y : Int) (n : Nat) : Bool :=
  match cc with
  | 0 => decide (x = y)
  | 1 => decide (x ≠ y)
  | 2 => decide (x < y)
  | 3 => decide (x ≤ y)
  | 4 => decide (y < x)
  | 5 => decide (y ≤ x)
  | _ => decide ((pat x n) &&& (pat y n) ≠ 0)

/-- A saturated sum or difference and the SAT flag it sets (R92). -/
def saturate (e : Int) (t : IType) : Int × Word :=
  let v := if t.signed then satI e t.width else satN e t.width
  (v, if v ≠ e then statSat else 0)

end Sys2Proof.Machine
end

