-- ==== Sys2Proof/Machine/Sig.lean ====
section
/-! DEFINITION. What the tables say of each opcode: its fields' roles, its charge, what exchange mode and FMT allow, and what makes it a drain point (R53, R56 to R68, R126, R147, R218, R252, R255, R329, R373). -/

namespace Sys2Proof.Machine

/-- What a 6-bit field names. -/
inductive Role where
  /-- An immediate, or nothing. -/
  | imm
  /-- A general register: read, written, or both. -/
  | gr | gw | grw
  /-- A general register that is named and neither read nor written by this instruction: the a field of a GD (R25, R112). -/
  | gname
  /-- A general register that is read and never staggered: the a field of COVQ.keep (R191, R387). -/
  | gfix
  /-- A vector register: read, written, or both. -/
  | vr | vw | vrw
  deriving DecidableEq, Repr

/-- Whether a role names a register, so that a repetition staggers the field (R112). -/
def Role.isReg : Role → Bool
  | .imm | .gfix => false
  | _ => true

/-- Whether a role names a vector register (R53). -/
def Role.isVec : Role → Bool
  | .vr | .vw | .vrw => true
  | _ => false

/-- Whether a role reads its register. -/
def Role.reads : Role → Bool
  | .gr | .grw | .vr | .vrw | .gfix => true
  | _ => false

/-- Whether a role writes its register. -/
def Role.writes : Role → Bool
  | .gw | .grw | .vw | .vrw => true
  | _ => false

/-- The roles of the four register fields. -/
structure Roles where
  d : Role := .imm
  a : Role := .imm
  b : Role := .imm
  c : Role := .imm
  deriving DecidableEq, Repr

/-- A register an instruction uses: its kind, its number, and where it is held. -/
structure RegUse where
  vec : Bool
  num : Nat
  place : Option PReg
  deriving DecidableEq, Repr

/-- The use of a general register. -/
def Core.useG (c : Core) (n : Field) : RegUse := ⟨false, n.toNat, c.phys n⟩

/-- The use of a vector register. -/
def useV (n : Nat) : RegUse := ⟨true, n, none⟩

/-- What one instruction's encoding and chapter say of it, beyond what its opcode's tables say. -/
structure Sig where
  op : Opcode
  roles : Opnd → Roles := fun _ => {}
  /-- The latency of its register results, in cycles (R56 to R68); the least one for a variable latency. -/
  lat : Nat := 0
  /-- The cycles that a variable latency adds, as far as issue knows them: from the machine, the core at issue and its operands (R50; logs 5 and 50). -/
  slow : State → Core → Opnd → Nat := fun _ _ _ => 0
  /-- The function code, or the operation field that completes it, is unassigned: QUAL 0x00 (R55). -/
  unassigned : Opnd → Bool := fun _ => false
  /-- A reserved bit is nonzero: QUAL 0x01 (R53). -/
  reserved : Opnd → Bool := fun _ => false
  /-- A field that the formats in force leave unused is nonzero: QUAL 0x01 (R53, R168). -/
  unused : Core → Opnd → Bool := fun _ _ => false
  /-- A field outside the fields' roles names no vector register: QUAL 0x02 (R126). -/
  noVector : Opnd → Bool := fun _ => false
  /-- A field value is not accepted: QUAL 0x03 (R53). -/
  refuses : Core → Opnd → Bool := fun _ _ => false
  /-- Not allowed in the current mode: QUAL 0x06 (R69). -/
  wrongMode : Core → Opnd → Bool := fun _ _ => false
  /-- The control-register number is not assigned: QUAL 0x07 (R34). -/
  noNumber : Opnd → Bool := fun _ => false
  /-- Registers read or written beyond its fields' roles. -/
  moreReads : Core → Opnd → List RegUse := fun _ _ => []
  moreWrites : Core → Opnd → List RegUse := fun _ _ => []
  /-- It waits for every result in flight (R123, R208), or for those that may set flags (R52). -/
  waitsAll : Bool := false
  /-- It makes an exchange misuse that its effect reports, from the machine, the core at issue and its operands: the fault comes before an undersized stall count and a failed access (R218, R396). -/
  misuses : State → Core → Opnd → Bool := fun _ _ _ => false
  waitsFlags : Opnd → Bool := fun _ => false

/-- The class of an opcode (R39). -/
def opClass (op : Opcode) : Nat := op.toNat / 256

/-- The function code of an opcode (R39). -/
def opFn (op : Opcode) : Nat := op.toNat % 256

/-- GD (R56). -/
def opGD : Opcode := 0x00E
/-- FMT (R56). -/
def opFMT : Opcode := 0x00F

/-- Whether an opcode is a prefix (R47). -/
def isPrefix (op : Opcode) : Bool := op == opGD || op == opFMT

/-- Units the governor charges (R373). -/
def chargeOf (op : Opcode) : Nat :=
  if isPrefix op then 1
  else
    match opClass op, opFn op with
    | 0x3, _ => 2
    | 0x4, _ => 2
    | 0x5, _ => 4
    | 0x6, _ => 3
    | 0x7, _ => 3
    | 0x8, 0x00 => 4
    | 0x8, 0x01 => 4
    | 0x8, 0x02 => 6
    | 0x8, 0x03 => 4
    | 0x8, 0x04 => 2
    | 0x8, 0x05 => 2
    | 0x8, 0x06 => 3
    | 0x8, _ => 4
    | 0xA, 0x05 => 12
    | 0xA, 0x07 => 1
    | 0xA, _ => 2
    | 0xB, 0x00 => 2
    | _, _ => 1

/-- Whether an instruction may issue in exchange mode (R218). -/
def exchangeAllows (op : Opcode) : Bool :=
  match opClass op, opFn op with
  | 0x0, f => [0x00, 0x01, 0x02, 0x06, 0x07, 0x0C, 0x0D, 0x0E, 0x0F, 0x11].contains f
  | 0x1, f => f != 0x04 && f != 0x05
  | 0x2, _ => true
  | 0x3, _ => true
  | 0x5, _ => true
  | 0x6, _ => true
  | 0x7, _ => true
  | 0x8, f => f != 0x02 && f != 0x03 && f != 0x04
  | 0x9, _ => true
  | _, _ => false

/-- Whether an instruction touches memory, so that an acquire holds it: local, near and global accesses, gathers and distances, and engine commands (R252). -/
def touchesMemory (op : Opcode) : Bool :=
  match opClass op, opFn op with
  | 0x3, _ => true
  | 0x4, _ => true
  | 0x8, f => f == 0x02 || f == 0x04 || f == 0x05
  | 0xA, f => f != 0x00 && f != 0x07
  | 0xB, f => f == 0x00 || f == 0x03
  | _, _ => false

/-- Whether an instruction is a near or global access, which FLUSH and CAPGIVE hold (R267, R272). -/
def isRemoteAccess (op : Opcode) : Bool := opClass op == 0x4

/-- The drain points of R255. -/
def isDrainPoint (op : Opcode) : Bool :=
  match opClass op, opFn op with
  | 0x0, 0x0A => true
  | 0x0, 0x11 => true
  | 0x4, f => [0x08, 0x09, 0x0B, 0x0C, 0x0D, 0x0E].contains f
  | _, _ => false

/-- Instructions of class 0x0 that a repetition body may hold (R113). -/
def repetitionAllows (op : Opcode) : Bool :=
  opClass op != 0 || [0x00, 0x0C, 0x0D, 0x0E, 0x0F].contains (opFn op)

/-- How an instruction takes an FMT prefix (R47, R63, R147, R329). -/
inductive FmtUse where
  | never
  | optional
  | required
  deriving DecidableEq, Repr

/-- RND values that round by a fixed mode (R126). -/
def rndPlain (t : TailW) : Bool := decide (fmtRnd t ≤ 4)

/-- Bits that no FMT of a target without a parameter may set: B32 and PARAM (R147). -/
def fmtNoB32 (t : TailW) : Bool := !(fmtB32 t) && t.m == 0

/-- RND = SR is accepted for these destinations (R138). -/
def srDest (f : Fmt) : Bool :=
  [Fmt.bf16, Fmt.f16, Fmt.e5m2, Fmt.e4m3, Fmt.e3m2, Fmt.e2m3, Fmt.e2m1].contains f

/-- RND and BF of a conversion: BF names random bits with SR and is 0x00 without it (R126, R138, R147). -/
def convRnd (t : TailW) (df : Fmt) : Bool :=
  if fmtRnd t = 5 then srDest df else rndPlain t && t.b == 0

/-- A format of a conversion (R147, R160). -/
def convFmt (c : Field) : Option Fmt :=
  match Fmt.ofCode c with
  | some .sc => none
  | x => x

/-- A wide floating format, or the default (R147). -/
def wideOrDefault (c : Field) : Bool :=
  c == 0 || (match Fmt.ofCode c with | some f => f.isWide | none => false)

/-- The source formats are 0x00 or equal to DF (R147). -/
def sourcesFollow (t : TailW) : Bool := (t.a == 0 || t.a == t.d) && (t.b == 0 || t.b == t.d)

/-- The 8-bit and 6-bit floating formats of R329. -/
def gangNarrow (f : Fmt) : Bool := [Fmt.e4m3, Fmt.e5m2, Fmt.e3m2, Fmt.e2m3].contains f

/-- The pairs of formats a gang takes (R329). -/
def gangPair (a b : Option Fmt) : Bool :=
  match a, b with
  | some x, some y =>
    (gangNarrow x && (gangNarrow y || y == .e2m1)) || (x == .e2m1 && gangNarrow y) || (x == .e2m1 && y == .e2m1) ||
      (x.isNarrow && x != .ds8 && y == .ds8) || ((x == .bf16 || x == .f16) && (y == .bf16 || y == .f16))
  | _, _ => false

/-- The formats VDOT takes, 0x00 standing for FP32 (R168). -/
def dotFmt (c : Field) : Option Fmt := if c == 0 then some .f32 else Fmt.ofCode c

/-- The pairs VDOT takes (R168). -/
def dotPair (t : TailW) : Bool :=
  match dotFmt t.a, dotFmt t.b with
  | some x, some y =>
    (x == .f32 && y == .f32 && !fmtB32 t) || ((x == .bf16 || x == .f16) && (y == .bf16 || y == .f16) && !fmtB32 t) ||
      (x.isNarrow && y.isNarrow)
  | _, _ => false

/-- The formats VDIST takes (R172). -/
def distFmt (c : Field) : Bool :=
  match dotFmt c with
  | some f => [Fmt.f32, .bf16, .f16, .e4m3, .e5m2, .i8].contains f
  | none => false

/-- How the instruction of an opcode takes an FMT; `m` is its m field, which tells floating VRED and VSCAN from integer ones (R63, R147, R165, R166, R329). -/
def fmtUse (op : Opcode) (m : BitVec 8) : FmtUse :=
  match opClass op, opFn op with
  | 0x5, f => if f ≤ 0x12 then .optional else .never
  | 0x7, f => if 0x06 ≤ f ∧ f ≤ 0x0A then .required else .never
  | 0x8, 0x00 => if m.getLsbD 6 then .never else .optional
  | 0x8, 0x07 => if m.getLsbD 6 then .never else .optional
  | 0x8, 0x01 => .optional
  | 0x8, 0x02 => .optional
  | 0xA, 0x05 => .required
  | _, _ => .never

/-- Whether the instruction of an opcode accepts an FMT's fields (R126, R147, R162, R163, R164, R168, R172, R329). -/
def fmtAccepts (op : Opcode) (t : TailW) : Bool :=
  match opClass op, opFn op with
  | 0x5, 0x10 => wideOrDefault t.d && sourcesFollow t && fmtRnd t == 0 && !fmtSatf t && fmtNoB32 t
  | 0x5, 0x12 => wideOrDefault t.d && sourcesFollow t && fmtRnd t == 0 && !fmtSatf t && fmtNoB32 t
  | 0x5, 0x11 =>
    (wideOrDefault t.d || (match Fmt.ofCode t.d with | some f => f.isInt.isSome | none => false)) &&
      sourcesFollow t && fmtRnd t == 0 && !fmtSatf t && fmtNoB32 t
  | 0x5, _ => wideOrDefault t.d && sourcesFollow t && rndPlain t && fmtNoB32 t
  | 0x8, 0x00 => wideOrDefault t.d && sourcesFollow t && rndPlain t && fmtNoB32 t
  | 0x8, 0x07 => wideOrDefault t.d && sourcesFollow t && rndPlain t && fmtNoB32 t
  | 0x7, 0x06 =>
    match convFmt t.d, convFmt t.a with
    | some d, some _ => convRnd t d && fmtNoB32 t
    | _, _ => false
  | 0x7, 0x07 =>
    match convFmt t.d, convFmt t.a with
    | some d, some a => convRnd t d && fmtNoB32 t && 2 * d.width == a.width && [32, 16, 8].contains a.width
    | _, _ => false
  | 0x7, 0x08 =>
    match convFmt t.d, convFmt t.a with
    | some d, some a => convRnd t d && fmtNoB32 t && d.width == 2 * a.width && [16, 8, 4].contains a.width
    | _, _ => false
  | 0x7, 0x09 =>
    match Fmt.ofCode t.d, Fmt.ofCode t.a with
    | some d, some a =>
      d.isNarrow && a.isWide && convRnd t d && (!fmtB32 t || a.width == 16) && decide (t.m.toNat ≤ 1)
    | _, _ => false
  | 0x7, 0x0A =>
    match Fmt.ofCode t.d, Fmt.ofCode t.a with
    | some d, some a => d.isWide && a.isNarrow && t.b == 0 && rndPlain t && (!fmtB32 t || d.width == 16) && t.m == 0
    | _, _ => false
  | 0x8, 0x01 =>
    (t.d == 0 || t.d == 1) && dotPair t && decide (fmtRnd t ≤ 1) && !fmtSatf t && t.m == 0
  | 0x8, 0x02 =>
    (t.d == 0 || t.d == 1) && distFmt t.a && distFmt t.b && decide (fmtRnd t ≤ 1) && !fmtSatf t && fmtNoB32 t
  | 0xA, 0x05 =>
    (t.d == 0 || t.d == 1) && fmtRnd t == 0 && !fmtSatf t && fmtNoB32 t && gangPair (Fmt.ofCode t.a) (Fmt.ofCode t.b)
  | _, _ => false

/-- The prefix-misuse qualifier of a target under the FMT pending for it, or under none (R47). -/
def targetMisuse (op : Opcode) (m : BitVec 8) (fmt : Option TailW) : Option Byte :=
  match fmtUse op m, fmt with
  | .never, none => none
  | .never, some _ => some 2
  | .optional, none => none
  | .required, none => some 3
  | _, some t => if fmtAccepts op t then none else some 2

/-- A field replaced by a repetition's stagger (R112). -/
def staggerField (r : Role) (on : Bool) (off : Nat) (x : Field) : Field :=
  if r.isReg && on then BitVec.ofNat 6 (x.toNat + off) else x

/-- REPS.LEFT (R29). -/
def Core.repLeft (c : Core) : Nat := bitsOf c.reps 63 48
/-- REPS.FLD (R29). -/
def Core.repFld (c : Core) : Nat := bitsOf c.reps 47 44
/-- REPS.STRIDE (R29). -/
def Core.repStride (c : Core) : Nat := bitsOf c.reps 43 38
/-- REPS.POS (R29). -/
def Core.repPos (c : Core) : Nat := bitsOf c.reps 37 35
/-- REPS.LEN (R29). -/
def Core.repLen (c : Core) : Nat := bitsOf c.reps 34 32
/-- REPS.BASE (R29). -/
def Core.repBase (c : Core) : LAddr := c.reps.extractLsb' 0 18

/-- A repetition pass is in progress: REPS.LEFT ≠ 0 in user mode (R112). -/
def Core.inRep (c : Core) : Bool := !c.hm && c.repLeft != 0

/-- The operands as issued: in a repetition pass each register field that FLD selects is staggered (R112). -/
def Core.stagger (c : Core) (r : Roles) (o : Opnd) : Opnd :=
  if c.inRep then
    let off := (c.repLeft - 1) * c.repStride
    let fld := c.repFld
    { o with
      d := staggerField r.d (fld.testBit 3) off o.d
      a := staggerField r.a (fld.testBit 2) off o.a
      b := staggerField r.b (fld.testBit 1) off o.b
      c := staggerField r.c (fld.testBit 0) off o.c }
  else o

/-- A field's register use, if its role passes a test. -/
def Core.fieldUse (c : Core) (r : Role) (want : Role → Bool) (x : Field) : List RegUse :=
  if want r then (if r.isVec then [useV x.toNat] else [c.useG x]) else []

/-- The registers an instruction reads, in the order a, b, c, d and then any further ones. -/
def Sig.readsOf (g : Sig) (c : Core) (o : Opnd) : List RegUse :=
  let r := g.roles o
  c.fieldUse r.a Role.reads o.a ++ c.fieldUse r.b Role.reads o.b ++ c.fieldUse r.c Role.reads o.c ++
    c.fieldUse r.d Role.reads o.d ++ g.moreReads c o

/-- The registers an instruction writes. -/
def Sig.writesOf (g : Sig) (c : Core) (o : Opnd) : List RegUse :=
  let r := g.roles o
  c.fieldUse r.d Role.writes o.d ++ c.fieldUse r.a Role.writes o.a ++ c.fieldUse r.b Role.writes o.b ++
    c.fieldUse r.c Role.writes o.c ++ g.moreWrites c o

/-- Whether a field that names a vector register holds 32 to 63: QUAL 0x02 (R53). -/
def Sig.badVector (g : Sig) (o : Opnd) : Bool :=
  let r := g.roles o
  g.noVector o || (r.d.isVec && decide (32 ≤ o.d.toNat)) || (r.a.isVec && decide (32 ≤ o.a.toNat)) ||
    (r.b.isVec && decide (32 ≤ o.b.toNat)) || (r.c.isVec && decide (32 ≤ o.c.toNat))

/-- The lowest illegal-instruction qualifier of an encoding in the core's mode, if any (R53, R69, R113). -/
def Sig.illegal (g : Sig) (c : Core) (o : Opnd) : Option Byte :=
  if g.unassigned o then some 0x00
  else if g.reserved o || g.unused c o then some 0x01
  else if g.badVector o then some 0x02
  else if g.refuses c o || (c.inRep && !repetitionAllows g.op) then some 0x03
  else if g.wrongMode c o then some 0x06
  else if g.noNumber o then some 0x07
  else none

end Sys2Proof.Machine
end

