-- ==== Sys2Proof/Machine/Ops.lean ====
section
/-! DEFINITION. The named operations over cores, memory, registers of the package and time: fetch, the pipeline, taking an exception and returning from one (R20 to R31, R42 to R52, R107 to R124, R225, R255 to R258, R395 to R401). -/

namespace Sys2Proof.Machine

/-! ### Cores and memory -/

/-- The core of a flat number (R183). -/
def State.core (s : State) (n : Nat) : Core := SMap.get Core.unlisted s.cores n

/-- The machine with one core replaced. -/
def State.setCore (s : State) (n : Nat) (c : Core) : State := { s with cores := SMap.set Core.unlisted s.cores n c }

/-- The core whose turn it is. -/
def State.cc (s : State) : Core := s.core s.cur

/-- The machine with the core in turn replaced. -/
def State.setCc (s : State) (c : Core) : State := s.setCore s.cur c

/-- The address key of a byte of a slice (R3, R231). -/
def sliceKey (core off : Nat) : Nat := core * 262144 + off % 262144

/-- The address key of a byte of HBM storage (R415). -/
def hbmKey (a : Nat) : Nat := 2 ^ 60 + a

/-- The address key of a byte of host memory (R235). -/
def hostKey (a : Nat) : Nat := 2 ^ 61 + a

/-- The address key of a byte of a die's coherent window (R235). -/
def windowKey (die off : Nat) : Nat := 2 ^ 59 + die * 1048576 + off % 1048576

/-- The little-endian value of bytes of the current core's slice (R36). -/
def State.localRead (s : State) (a n : Nat) : Nat := Memory.readLE s.mem (sliceKey s.cur a) n

/-- The machine with bytes of the current core's slice written (R36). -/
def State.localWrite (s : State) (a n v : Nat) : State := { s with mem := Memory.writeLE s.mem (sliceKey s.cur a) n v }

/-- The lowest bad word that a run of bytes touches (R397, R398). -/
def State.badIn (s : State) (key n : Nat) : Option Nat :=
  s.badWords.foldl (fun m w =>
    if w < key + n && key < w + 8 then (match m with | some x => some (min x w) | none => some w) else m) none

/-- Bad words that a run of written bytes covers wholly are good again (R398). -/
def State.healWords (s : State) (key n : Nat) : State :=
  { s with badWords := s.badWords.filter (fun w => !(decide (key ≤ w) && decide (w + 8 ≤ key + n))) }

/-! ### Registers of the package -/

/-- A 64-bit word of BAR0 (R457). -/
def State.reg (s : State) (off : Nat) : Word := SMap.get bar0Reset s.bar0 off

/-- The machine with a 64-bit word of BAR0 set. -/
def State.setReg (s : State) (off : Nat) (x : Word) : State := { s with bar0 := SMap.set bar0Reset s.bar0 off x }

/-- The offset of a register of a partition page (R458). -/
def pageOff (pid off : Nat) : Nat := 0x1000000 + 0x4000 * pid + off

/-- A committed partition-table entry (R428). -/
def State.part (s : State) (i : Nat) : PartEntry := SMap.get (fun _ => PartEntry.empty) s.parts i

/-- What runs beside a partition-table entry. -/
def State.partition (s : State) (i : Nat) : Partition := SMap.get (fun _ => Partition.idle) s.partitions i

/-- The machine with a partition's run-time state replaced. -/
def State.setPartition (s : State) (i : Nat) (p : Partition) : State :=
  { s with partitions := SMap.set (fun _ => Partition.idle) s.partitions i p }

/-- A register of the page of a partition (R458). -/
def State.page (s : State) (i off : Nat) : Word := s.reg (pageOff (s.part i).pid.toNat off)

/-- The machine with a register of a partition's page set. -/
def State.setPage (s : State) (i off : Nat) (x : Word) : State := s.setReg (pageOff (s.part i).pid.toNat off) x

/-- The partition-table entry a core's launch runs in. -/
def State.partOf (s : State) (c : Core) : Option Nat :=
  match c.launch with
  | some l => (SMap.find s.launches l).map (·.part)
  | none => none

/-- The partition-relative number of a core (R184). -/
def Core.rank (c : Core) : Nat := bitsOf c.part 15 0

/-! ### The agenda -/

/-- A turn put into the agenda, after every turn due no later. -/
def insertTurn (t : Turn) : List Turn → List Turn
  | [] => [t]
  | x :: xs => if t.due < x.due then t :: x :: xs else x :: insertTurn t xs

/-- The machine with a turn posted. -/
def State.post (s : State) (due core : Nat) (a : Act) : State := { s with agenda := insertTurn ⟨due, core, a⟩ s.agenda }

/-- The machine with an event posted. -/
def State.postEvent (s : State) (due : Nat) (i : Instr) : State := s.post due s.cur (.event i)

/-- The machine with an event of one core posted. -/
def State.postCore (s : State) (due core : Nat) (i : Instr) : State := s.post due core (.event i)

/-- An event put into the agenda once for its time. -/
def State.postOnce (s : State) (due core : Nat) (i : Instr) : State :=
  if s.agenda.any (fun t => decide (t.due = due) && decide (t.act = .event i)) then s else s.postCore due core i

/-- Units of time in a network cycle (R5, R358). -/
def State.netPeriod (s : State) : Nat := periodOf s.chameleon.netNow

/-- Units of time in a memory cycle (R5, R358). -/
def State.memPeriod (s : State) : Nat := periodOf s.chameleon.memNow

/-- The network clock (R205, R226). -/
def State.net (s : State) : Grid := ⟨s.chameleon.netBase, s.netPeriod⟩

/-- The memory clock (R5). -/
def State.memClock (s : State) : Grid := ⟨s.chameleon.memBase, s.memPeriod⟩

/-- The first network edge after a time. -/
def State.netEdgeAfter (s : State) (t : Nat) : Nat := s.net.after t

/-- The first memory edge after a time. -/
def State.memEdgeAfter (s : State) (t : Nat) : Nat := s.memClock.after t

/-- The package's ref-tick count (R409, R445). -/
def State.tick (s : State) : Nat := s.now / tickUnits

/-- A free value's number, and the machine with the counter moved on (log 3). -/
def State.takeFree (s : State) : Nat × State := (s.free, { s with free := s.free + 1 })

/-! ### Clocks of a core -/

/-- CYC at a time: vector cycles since the launch began, modulo 2^64 (R33, R404). -/
def CoreClock.cycAt (k : CoreClock) (t : Nat) : Nat :=
  if k.running then k.cyc + (k.vec.index t - k.vec.index k.base) else k.cyc

/-- REFT at a time: ref ticks since the launch began (R33, R404). -/
def CoreClock.reftAt (k : CoreClock) (t : Nat) : Nat :=
  if k.running then k.reft + (t / tickUnits - k.base / tickUnits) else k.reft

/-- The number of the core's own cycle at a time (R374). -/
def CoreClock.seqAt (k : CoreClock) (t : Nat) : Nat :=
  if k.running then k.seq + (k.pipe.index t - k.pipe.index k.base) else k.seq

/-- The same counts, kept from a new base time on. -/
def CoreClock.rebase (k : CoreClock) (t : Nat) : CoreClock :=
  { k with base := t, cyc := k.cycAt t, reft := k.reftAt t, seq := k.seqAt t }

/-- The clocks of a core changed at a time: a cycle that the change cuts short counts as one (R365, R374). -/
def CoreClock.change (k : CoreClock) (t : Nat) (vec pipe : Grid) : CoreClock :=
  let r := k.rebase t
  { r with vec := vec, pipe := pipe, cyc := r.cyc + k.vec.cutShort vec t, seq := r.seq + k.pipe.cutShort pipe t }

/-- A core whose clocks change at a time: fixed latencies keep their count of cycles, and the cycles of a stall that have passed stay passed (R216, R365). -/
def Core.setClocks (c : Core) (t : Nat) (vec pipe : Grid) : Core :=
  let old := c.clock.pipe
  let carry := old.carry pipe t
  let passed := c.ready ≤ t
  { c with
    clock := c.clock.change t vec pipe
    flight := c.flight.map (fun f => { f with due := carry f.due })
    var := c.var.map (fun v => match v.source with | .at due => { v with source := .at (carry due) } | .req _ => v)
    memReady := carry c.memReady
    freeAt := carry c.freeAt
    waited := if passed then c.waited + (old.index t + old.cutShort pipe t - old.indexUp c.ready) else c.waited
    ready := if passed then pipe.edge (pipe.index t) else carry c.ready }

/-- A core that leaves exchange mode and runs on its vector clock again (R224, R225). -/
def Core.leaveExchange (c : Core) (t : Nat) : Core :=
  if c.xm then { (c.setClocks t c.clock.vec c.clock.vec) with stat := statSet c.stat 7 false } else c

/-! ### Fetch -/

/-- A line read from the core's slice (R21, R22). -/
def State.readLine (s : State) (n num : Nat) : FetchedLine :=
  let key := sliceKey n (64 * num)
  ⟨num, BitVec.ofNat 512 (Memory.readLE s.mem key 64), (s.badIn key 64).map (fun w => w - sliceKey n 0)⟩

/-- The line after a line (R43). -/
def succLine (num : Nat) : Nat := (num + 1) % 4096

/-- The line number of a local address. -/
def lineOf (p : LAddr) : Nat := p.toNat / 64

/-- A buffered line. -/
def Core.buffered (c : Core) (num : Nat) : Option FetchedLine := c.fbuf.find? (fun l => l.num = num)

/-- A line as a core would fetch it: the buffered one, or else the slice's bytes (R21). -/
def State.viewLine (s : State) (n : Nat) (num : Nat) : FetchedLine :=
  match (s.core n).buffered num with
  | some l => l
  | none => s.readLine n num

/-- The fetch buffer after PC enters the line of an address: that line and its successor, kept where they are held and read where they are not (R21). -/
def State.linesFrom (s : State) (n : Nat) (p : LAddr) : List FetchedLine := [s.viewLine n (lineOf p), s.viewLine n (succLine (lineOf p))]

/-- The time until which a core's own accesses and fetches take its slice, from a time on (R233). -/
def Core.sliceTaken (c : Core) (now : Nat) : Nat := max now (max c.sliceFree c.fetchFree)

/-- The time until which a core's fetches take its slice when PC enters the line of an address at a time: one vector cycle for each line read, and a local access of the same time gives way to them (R21, R233; log 10). -/
def Core.fetchUntil (c : Core) (now : Nat) (p : LAddr) : Nat :=
  let reads := [lineOf p, succLine (lineOf p)].filter (fun num => (c.buffered num).isNone)
  if reads.isEmpty then c.fetchFree else c.sliceTaken now + reads.length * c.clock.vecPeriod

/-- The machine after PC of a core enters a line (R21). -/
def State.enterLine (s : State) (n : Nat) (p : LAddr) : State :=
  s.setCore n { s.core n with fbuf := s.linesFrom n p, fetchFree := (s.core n).fetchUntil s.now p }

/-- The slot of a line at a head's address, if the line is well formed and has that head. -/
def slotIn (l : Line) (p : LAddr) : Option LineSlot :=
  match decodeLine l with
  | .ok slots => if p.toNat % 2 = 0 then slots[p.toNat % 64 / 2]? else none
  | .error _ => none

/-- The slot at an address, as the core would fetch it. -/
def State.slotAt (s : State) (n : Nat) (p : LAddr) : Option LineSlot := slotIn (s.viewLine n (lineOf p)).line p

/-- Bad(t): an odd address, a malformed line, or no such head (R45). -/
def State.badTarget (s : State) (n : Nat) (p : LAddr) : Bool := (s.slotAt n p).isNone

/-- SeqNext for an instruction whose head has the given L (R43). -/
def seqNext (p : LAddr) (last : Bool) : LAddr :=
  if last then BitVec.ofNat 18 (p.toNat / 64 * 64 + 64) else p + 2

/-- SeqNext(p), reading the head at p (R43, R107). -/
def State.seqNextAt (s : State) (n : Nat) (p : LAddr) : LAddr :=
  match s.slotAt n p with
  | some x => seqNext p (Head.last x.head)
  | none => seqNext p false

/-- The address `k` instructions after an address, or the malformed line met on the way: nothing else of the lines passed over is checked (R111, R112; log 57). -/
def State.stepOver (s : State) (n : Nat) : (k : Nat) → LAddr → Except LAddr LAddr
  | 0, p => .ok p
  | k + 1, p =>
    match s.slotAt n p with
    | some x => s.stepOver n k (seqNext p (Head.last x.head))
    | none => .error p

/-! ### Protection of the own slice -/

/-- Whether a PROT register grants a right at a byte: bit 62 read, 61 write, 60 execute (R23, R24). -/
def protGrants (p : Word) (right a : Nat) : Bool :=
  p.getLsbD 63 && p.getLsbD right && decide (bitsOf p 17 6 ≤ a / 64) && decide (a / 64 ≤ bitsOf p 49 38)

/-- Whether a byte of the slice is accessible for a right (R23). -/
def Core.accessible (c : Core) (right a : Nat) : Bool := c.prot.toList.any (fun p => protGrants p right a)

/-- The lowest byte of an access that fails R101's range and rights, with whether it lies outside the slice.
Handler-mode accesses are not checked for rights (R23). -/
def Core.firstFailing (c : Core) (right ea : Nat) : (n : Nat) → Option (Nat × Bool)
  | 0 => none
  | n + 1 =>
    if 262144 ≤ ea then some (ea, true)
    else if !c.hm && !c.accessible right ea then some (ea, false)
    else c.firstFailing right (ea + 1) n

/-! ### Faults, traps and returns -/

/-- A fault or trap: its cause code, qualifier and EADDR (R118, R395). -/
structure Raise where
  code : Byte
  qual : Byte
  eaddr : Word
  deriving DecidableEq, Repr

/-- A trace record (R445): header and payload, 64 bytes. -/
def traceRecord (kind rank : Nat) (ssc : Word) (tick : Nat) (payload : List Byte) : TraceRecord :=
  bytesOf 1 kind ++ bytesOf 3 0 ++ bytesOf 4 rank ++ bytesOf 8 ssc.toNat ++ bytesOf 8 tick ++
    (payload ++ List.replicate (40 - payload.length) 0)

/-- Whether a trace event is enabled for a partition: TRCTL.EN (R444). -/
def State.traces (s : State) (part bit : Nat) : Bool := (s.page part 0x40).getLsbD bit

/-- A trace record sent on its way (R447). -/
def State.trace (s : State) (part : Nat) (core : Option Nat) (r : TraceRecord) : State :=
  State.post { s with traceOut := s.traceOut ++ [TraceItem.mk part core r false] } s.now s.cur .traceWrite

/-- A cached line with the bytes of a write merged in. -/
def mergeLine (x : VWord) (line a n v : Nat) : VWord :=
  BitVec.ofNat 512 (packLanes 8 ((List.range 64).map (fun i =>
    let b := 64 * line + i
    if a ≤ b ∧ b < a + n then laneOf v 8 (b - a) else laneOf x.toNat 8 i)))

/-- The read caches of the host ports after a device write: every device reader sees it from then on (R285, R290). -/
def State.mergeHost (s : State) (key n v : Nat) : State :=
  if key < hostKey 0 then s
  else { s with hostCache := s.hostCache.map (fun e => (e.1, e.2.1, mergeLine e.2.2 e.2.1 (key - hostKey 0) n v)) }

/-- An entry of a partition's fault queue (R458): dropped and counted in TRDROP when the queue is full, and written to host memory otherwise. -/
def State.faultEntry (s : State) (part : Nat) (type : Nat) (payload : List Byte) : State :=
  let ctl := s.page part 0x68
  let tail := (s.page part 0x70).toNat
  let size := 2 ^ (bitsOf ctl 4 0)
  let used := (tail + 2 ^ 32 - bitsOf ctl 63 32) % 2 ^ 32
  if size ≤ used then
    let d := bitsOf (s.page part 0x38) 31 0
    s.setPage part 0x38 (BitVec.ofNat 64 (min (d + 1) (2 ^ 32 - 1)))
  else
    let bytes := bytesOf 1 type ++ bytesOf 15 0 ++ (payload ++ List.replicate (48 - payload.length) 0)
    let key := hostKey ((s.page part 0x60).toNat + 64 * (tail % size))
    let s := State.mergeHost { s with mem := Memory.writeBytes s.mem key bytes } key 64 (leValue bytes)
    s.setPage part 0x70 (BitVec.ofNat 64 ((tail + 1) % 2 ^ 32))

/-- An entry of the hypervisor's fault queue (R458). -/
def State.hypervisorEntry (s : State) (type : Nat) (payload : List Byte) : State :=
  let ctl := s.reg 0x470028
  let tail := (s.reg 0x470030).toNat
  let size := 2 ^ (bitsOf ctl 4 0)
  let used := (tail + 2 ^ 32 - bitsOf ctl 63 32) % 2 ^ 32
  if size ≤ used then s
  else
    let bytes := bytesOf 1 type ++ bytesOf 15 0 ++ (payload ++ List.replicate (48 - payload.length) 0)
    let key := hostKey ((s.reg 0x470020).toNat + 64 * (tail % size))
    let s := State.mergeHost { s with mem := Memory.writeBytes s.mem key bytes } key 64 (leValue bytes)
    s.setReg 0x470030 (BitVec.ofNat 64 ((tail + 1) % 2 ^ 32))

/-- A core with every fixed-latency result due by a time written (R49). -/
def Core.settle (c : Core) (t : Nat) : Core :=
  let due := c.flight.filter (fun f => decide (f.due ≤ t))
  let done := due.foldl (fun k f => k.apply f.dest) c
  { done with flight := c.flight.filter (fun f => !decide (f.due ≤ t)) }

/-- Whether a pending result has arrived by a time. -/
def VarResult.arrived (v : VarResult) (t : Nat) : Bool :=
  match v.source with
  | .at due => decide (due ≤ t)
  | .req _ => false

/-- A core with every variable-latency result that has arrived written and released (R51). -/
def Core.settleVar (c : Core) (t : Nat) : Core :=
  let done := (c.var.filter (fun v => v.arrived t)).foldl (fun k v => v.writes.foldl Core.apply k) c
  { done with var := c.var.filter (fun v => !v.arrived t) }

/-- A core as it stands at a time: every result due by then is written. -/
def Core.at (c : Core) (t : Nat) : Core := (c.settle t).settleVar t

/-- A core with every fixed-latency result in flight written: what its registers come to hold (R49, R117). -/
def Core.drained (c : Core) : Core :=
  let done := c.flight.foldl (fun k f => k.apply f.dest) c
  { done with flight := [] }

/-- The context of a launch in a Chorus unit, by level and unit (R197). -/
def chorusKey (launch level unit : Nat) : Nat := 1024 * launch + 256 * level + unit

/-- A launch's context in a Chorus unit. -/
def State.unitOf (s : State) (launch level unit : Nat) : Chorus :=
  SMap.get (fun _ => Chorus.empty) s.chorus (chorusKey launch level unit)

/-- The machine with a launch's context in a Chorus unit replaced. -/
def State.setUnit (s : State) (launch level unit : Nat) (c : Chorus) : State :=
  { s with chorus := SMap.set (fun _ => Chorus.empty) s.chorus (chorusKey launch level unit) c }

/-- A Chorus unit looks at its masks and at its waiting cores and reports at the next network edge (R203, R210, R211). -/
def State.pokeUnit (s : State) (launch level unit : Nat) : State :=
  let due := s.netEdgeAfter s.now
  let s := (s.unitOf launch level unit).buf.foldl (fun (t : State) m =>
    if m.stage = .unfired then t.postOnce due t.cur (.maskFire launch level unit m.idx) else t) s
  s.postOnce due s.cur (.orphanWait launch level unit)

/-- A forced stop of a core's partition is in progress (R407). -/
def State.forcedStop (s : State) (n : Nat) : Bool :=
  match s.partOf (s.core n) with
  | some p => (match (s.partition p).stop with | .requested _ (some _) => true | _ => false)
  | none => false

/-- The check that follows a core's retirement: its launch may now complete, masks that contain it may fire, and members of its pod's next gang fail (R193, R212, R330). -/
def State.noteRetired (s : State) (n : Nat) : State :=
  match (s.core n).launch with
  | some l =>
    let s := (s.postCore s.now n (.launchCompletion l)).pokeUnit l 0 (n / 64)
    s.postCore s.now n (.matrixCommandAccept (n / 8) n)
  | none => s

/-- The core's profile, written when it retires with TRCTL.EN bit 5 set: 512 bytes of accounts on the trace path, in two packets, each with the core's rank and its half after the bytes (R237, R449). -/
def State.profile (s : State) (n : Nat) : State :=
  match s.partOf (s.core n) with
  | some p =>
    if s.traces p 5 then
      let bytes := (s.core n).accounts.toList.flatMap (fun w => bytesOf 8 w.toNat)
      let part (i : Nat) : TraceRecord := (bytes.drop (256 * i)).take 256 ++ bytesOf 4 (s.core n).rank ++ bytesOf 1 i
      (s.trace p (some n) (part 0)).trace p (some n) (part 1)
    else s
  | none => s

/-- A double fault: the core retires with its registers as they were, and its record goes to the partition's fault queue (R122, R401). -/
def State.doubleFault (s : State) (n : Nat) (r : Raise) : State :=
  let c := s.core n
  let payload := bytesOf 4 c.rank ++ [r.code, r.qual] ++ bytesOf 2 0 ++ bytesOf 8 c.pc.toNat ++ bytesOf 8 r.eaddr.toNat ++ bytesOf 8 c.ssc.toNat
  let s := s.setCore n { c with run := .doubleFaulted }
  let s :=
    match s.partOf c with
    | some p => s.faultEntry p 1 payload
    | none => s
  (s.profile n).noteRetired n

/-- WBASE.PX at a trap entry: a window spill or fill names the frame to move, and any other cause leaves it (R15). -/
def windowIndex (c : Core) (code : Byte) : BitVec 8 :=
  if code = 0x03 then BitVec.ofNat 8 ((c.slot.toNat + 48) % 176)
  else if code = 0x04 then BitVec.ofNat 8 ((c.slot.toNat + 144) % 176)
  else c.px

/-- The context that a core names as bd0 or bd1 (R346). -/
def ctxKey (core x : Nat) : Nat := 2 * core + x

/-- A boarding context, at 16 × pod + 2 × slice + X (R346). -/
def State.ctx (s : State) (k : Nat) : BoardCtx := SMap.get (fun _ => BoardCtx.idle) s.ring.ctxs k

/-- The machine with a boarding context replaced. -/
def State.setCtx (s : State) (k : Nat) (x : BoardCtx) : State :=
  { s with ring := { s.ring with ctxs := SMap.set (fun _ => BoardCtx.idle) s.ring.ctxs k x } }

/-- Trap entry with cause 0x10 marks the context's corruption reported (R353). -/
def State.markReported (s : State) (n : Nat) (r : Raise) : State :=
  if r.code = 0x10 then
    let k := ctxKey n (r.qual.toNat % 2)
    s.setCtx k { s.ctx k with reported := true }
  else s

/-- TrapEntry (R117, R225): the saved registers are written, STAT changes to handler mode, the buffer is discarded, and PC goes to the TVEC line.
`issued` says that epc is the first prefix of a run whose prefixes issued (R27). -/
def State.trapEntry (s : State) (n : Nat) (t : Nat) (r : Raise) (epc : LAddr) (issued : Bool) : State :=
  let c := (s.core n).drained
  if c.hm then s.doubleFault n r
  else
    let c := c.leaveExchange t
    let saved := if issued then statNoPrefix c.stat else c.stat
    let st := statNoPrefix (statSet (statSet c.stat 5 true) 6 false)
    let target : LAddr := BitVec.ofNat 18 (bitsOf c.tvec 17 6 * 64)
    let c := { c with
      estat := saved
      epc := epc
      ecause := BitVec.ofNat 64 (r.qual.toNat * 256 + r.code.toNat)
      eaddr := r.eaddr
      px := windowIndex c r.code
      stat := st
      fbuf := []
      pc := target
      runStart := none
      charged := false
      holding := false
      run := .running
      ready := c.clock.vec.ceil t + 3 * c.clock.vecPeriod
      delay := 0
      waited := 0 }
    let s := ((s.markReported n r).setCore n c).enterLine n target
    match s.partOf c with
    | some p =>
      if s.traces p 3 then
        s.trace p (some n) (traceRecord 0x06 c.rank c.ssc s.tick (bytesOf 8 epc.toNat ++ bytesOf 8 c.ecause.toNat ++ bytesOf 8 r.eaddr.toNat))
      else s
    | none => s

/-- REPS.POS moved back over the prefixes of the run that issued, so that it names the instruction at EPC (R114). -/
def Core.repBack (c : Core) (k : Nat) : Word :=
  if c.repLeft = 0 then c.reps else setBits c.reps 37 35 (c.repPos + 8 - k)

/-- A fault of the instruction at PC, at a time: EPC is the instruction, or the first prefix of its run that issued (R27, R118). -/
def State.raiseAt (s : State) (n : Nat) (t : Nat) (r : Raise) : State :=
  let c := s.core n
  match c.runStart with
  | some (p, k) =>
    if c.hm then s.trapEntry n t r p true
    else (s.setCore n { c with reps := c.repBack k }).trapEntry n t r p true
  | none => s.trapEntry n t r c.pc false

/-- An interrupt taken at a boundary before the instruction at PC (R27, R119). -/
def State.interruptAt (s : State) (n : Nat) (t : Nat) (r : Raise) : State :=
  let c := s.core n
  s.trapEntry n t r c.pc false

/-! ### Sequencing -/

/-- What the loop-end rule makes of the two loop counts at an address, and the loop start it goes back to, if it does: level 1 first (R109). -/
def loopRule (p : LAddr) (lc0 : BitVec 32) (ls0 le0 : LAddr) (lc1 : BitVec 32) (ls1 le1 : LAddr) : BitVec 32 × BitVec 32 × Option LAddr :=
  let end1 : Bool := lc1 != 0 && p == le1
  let end0 : Bool := lc0 != 0 && p == le0
  if end1 && lc1 != 1 then (lc0, lc1 - 1, some ls1)
  else
    let n1 := if end1 then lc1 - 1 else lc1
    if end0 then (lc0 - 1, n1, if lc0 = 1 then none else some ls0) else (lc0, n1, none)

/-- Where an instruction that made no transfer leads: REPS and the loop counts as they then stand, the next PC, and whether that is a loop-back or a repetition return (R109, R112). -/
structure Advance where
  reps : Word
  lc0 : BitVec 32
  lc1 : BitVec 32
  next : LAddr
  back : Bool
  deriving DecidableEq, Repr

/-- The loop-end rule at p, with REPS as it then stands (R109); in handler mode it is not applied (R110). -/
def Core.loopEnd (c : Core) (reps : Word) (p next : LAddr) : Advance :=
  let r := if c.hm then (c.lc0, c.lc1, none) else loopRule p c.lc0 c.ls0 c.le0 c.lc1 c.ls1 c.le1
  ⟨reps, r.1, r.2.1, r.2.2.getD next, r.2.2.isSome⟩

/-- The bookkeeping of an instruction that completes without a taken transfer (R109, R112). -/
def Core.advance (c : Core) (last : Bool) : Advance :=
  let p := c.pc
  let next := seqNext p last
  if c.inRep then
    if c.repPos < c.repLen then ⟨setBits c.reps 37 35 (c.repPos + 1), c.lc0, c.lc1, next, false⟩
    else if 1 < c.repLeft then
      ⟨setBits (setBits c.reps 63 48 (c.repLeft - 1)) 37 35 0, c.lc0, c.lc1, c.repBase, true⟩
    else c.loopEnd (setBits (setBits c.reps 63 48 0) 37 35 0) p next
  else c.loopEnd c.reps p next

/-- A core moved on by an advance, with PC at an address. -/
def Core.advanceTo (c : Core) (a : Advance) (p : LAddr) : Core := { c with reps := a.reps, lc0 := a.lc0, lc1 := a.lc1, pc := p }

/-- Cycles that entering an address adds when its line is not buffered (R46); exchange mode adds none (R216). -/
def Core.fetchDelay (c : Core) (p : LAddr) : Nat :=
  if c.xm then 0 else if (c.buffered (lineOf p)).isSome then 0 else 3

/-- Cycles that a taken transfer adds: 1 to a buffered line, the line fetch otherwise, and 2 in exchange mode (R46, R216). -/
def Core.transferDelay (c : Core) (p : LAddr) : Nat :=
  if c.xm then 2 else if (c.buffered (lineOf p)).isSome then 1 else 3

/-- Cycles that a loop-back or a repetition return adds: none to a buffered line (R109, R112), and 2 in exchange mode (R216). -/
def Core.backDelay (c : Core) (p : LAddr) : Nat := if c.xm then 2 else c.fetchDelay p

/-- A core with PC at an address, its fetch buffer, the cycles that reaching it adds, and the time until which its fetches take the slice. -/
def Core.placed (c : Core) (p : LAddr) (fbuf : List FetchedLine) (delay fetched : Nat) : Core :=
  { c with pc := p, fbuf := fbuf, delay := delay, fetchFree := fetched }

/-- PC moved to an address, whose line it enters (R21). -/
def State.goto (s : State) (n : Nat) (p : LAddr) (delay : Nat) : State :=
  s.setCore n ((s.core n).placed p (s.linesFrom n p) delay ((s.core n).fetchUntil s.now p))

/-- A core whose pending prefixes have found their target: none is pending, and their payloads are gone (R26). -/
def Core.consume (c : Core) : Core := { c with stat := statNoPrefix c.stat, epfx := if c.pp then 0 else c.epfx }

/-- The core once its instruction has issued at a time: no prefix is pending, and the next instruction counts from here (R26, R48). -/
def Core.issued (c : Core) (t : Nat) : Core :=
  { c.consume with
    runStart := none
    charged := false
    holding := false
    run := .running
    ready := t + c.clock.pipePeriod
    delay := 0
    waited := 0 }

/-- The instruction at PC completes without a taken transfer; a bad loop-back or repetition target faults there (R45, R109, R112). -/
def State.complete (s : State) (n : Nat) (t : Nat) (last : Bool) : State :=
  let c := s.core n
  let a := c.advance last
  let s := s.setCore n ((c.issued t).advanceTo a a.next)
  if a.back && s.badTarget n a.next then s.trapEntry n t ⟨0x01, 0x04, a.next.setWidth 64⟩ a.next false
  else s.goto n a.next (if a.back then c.backDelay a.next else c.fetchDelay a.next)

/-- The instruction at PC makes a taken transfer (R46, R107). -/
def State.transfer (s : State) (n : Nat) (t : Nat) (target : LAddr) : State :=
  let s := s.setCore n ((s.core n).issued t)
  s.goto n target ((s.core n).transferDelay target)

/-- The instruction at PC sets PC itself, to an address that its own rule gives, without a transfer (R108, R111). -/
def State.moveTo (s : State) (n : Nat) (t : Nat) (target : LAddr) : State :=
  let s := s.setCore n ((s.core n).issued t)
  s.goto n target ((s.core n).fetchDelay target)

/-- The instruction at PC completes and the fetch buffer is discarded: the next line is fetched anew (R21, R123). -/
def State.completeFresh (s : State) (n : Nat) (t : Nat) (last : Bool) : State :=
  let s := s.setCore n { (s.core n) with fbuf := [] }
  s.complete n t last

/-- TRAP: entered only after the loop-end and repetition rules, with EPC at the next PC (R110, R121). -/
def State.trapAfter (s : State) (n : Nat) (t : Nat) (last : Bool) (r : Raise) : State :=
  let c := s.core n
  let a := c.advance last
  (s.setCore n ((c.issued t).advanceTo a a.next)).trapEntry n t r a.next false

/-- Accesses that RETT replays become new requests; `Memory.lean` gives the replay, and this marks their order (R257). -/
def Core.hasHeld (c : Core) : Bool := !c.held.isEmpty

/-- RETT's return (R120): STAT is restored, the buffer is discarded, and a repetition goes on only at its own position. -/
def State.returnTo (s : State) (n : Nat) (t : Nat) (target : LAddr) : State :=
  let c := s.core n
  let c := { c with stat := maskWrite c.estat 0 0x80, fbuf := [], runStart := none, charged := false, run := .running }
  let here : Bool :=
    match (s.setCore n c).stepOver n c.repPos c.repBase with
    | .ok p => p = target
    | .error _ => false
  let c := if c.repLeft ≠ 0 ∧ ¬(c.hm = false ∧ here = true) then { c with reps := setBits c.reps 63 48 0 } else c
  let c := { c with ready := t + 3 * c.clock.vecPeriod, delay := 0, waited := 0 }
  (s.setCore n c).goto n target 0

end Sys2Proof.Machine
end

