-- ==== Sys2Proof/Machine/Pipe.lean ====
section
/-! DEFINITION. Issue: the checks an instruction passes in the order of R396, the time it issues, and what follows its effect (R25, R42 to R52, R112, R119, R216 to R218, R252, R255, R309, R373, R374). -/

namespace Sys2Proof.Machine

/-- The line fault of the instruction at PC: fetch protection, bad data, a malformed line, or no head at PC, whose fault is the model's choice (R23, R42, R45, R398; log 57). -/
def State.lineFault (s : State) (n : Nat) : Option Raise :=
  let c := s.core n
  let num := lineOf c.pc
  let base := 64 * num
  let l := s.viewLine n num
  if !c.hm && !c.accessible 60 base then some ⟨0x09, 0x02, BitVec.ofNat 64 base⟩
  else
    match l.bad with
    | some w => some ⟨0x0F, 0x02, BitVec.ofNat 64 w⟩
    | none =>
      match decodeLine l.line with
      | .error _ => some ⟨0x01, 0x05, BitVec.ofNat 64 base⟩
      | .ok _ => if (slotIn l.line c.pc).isSome then none else some ⟨0x01, 0x04, c.pc.setWidth 64⟩

/-- The instruction at an address is at LEn of an active loop level, or at the last position of a repetition body (R47). -/
def Core.endsHere (c : Core) (p : LAddr) (pos : Nat) : Bool :=
  (c.lc1 != 0 && p == c.le1) || (c.lc0 != 0 && p == c.le0) || (c.inRep && decide (pos = c.repLen))

/-- The lesser of two qualifiers. -/
def minQual : Option Byte → Option Byte → Option Byte
  | some a, some b => some (if a.toNat ≤ b.toNat then a else b)
  | some a, none => some a
  | none, b => b

/-- The misuse of a run, read from a prefix at `p` on: the prefixes already in it, its FMT, and the body position (R47). Of several cases the lowest qualifier counts (log 57). A line that cannot be decoded ends the reading: it faults when PC enters it. -/
def State.runMisuse (s : State) (n : Nat) : (fuel : Nat) → (p : LAddr) → (pos : Nat) → (gd : Bool) → (fmt : Option TailW) → Option Byte
  | 0, _, _, _, _ => none
  | fuel + 1, p, pos, gd, fmt =>
    match s.slotAt n p with
    | none => none
    | some x =>
      let op := Head.op x.head
      let next := seqNext p (Head.last x.head)
      let ends : Option Byte := if (s.core n).endsHere p pos then some 4 else none
      if op = opGD then
        if gd then minQual (some 1) ends else minQual ends (s.runMisuse n fuel next (pos + 1) true fmt)
      else if op = opFMT then
        if fmt.isSome then minQual (some 1) ends
        else minQual ends (s.runMisuse n fuel next (pos + 1) gd (some (TailW.ofBits x.tail)))
      else targetMisuse op (TailW.ofBits x.tail).m fmt

/-- The prefix-misuse qualifier of the instruction that is about to issue (R47): a prefix that begins a run has its whole run checked, and a target is checked against the FMT pending. -/
def State.prefixMisuse (s : State) (n : Nat) (op : Opcode) (m : BitVec 8) : Option Byte :=
  let c := s.core n
  let pending := if c.fmtPending then some c.fmtTail else none
  if isPrefix op then s.runMisuse n 3 c.pc c.repPos c.gdPending pending
  else targetMisuse op m pending

/-- Requests of a core that await a response, asked through the state that holds them. -/
def State.outstanding (s : State) (n : Nat) : Nat := (s.reqs.filter (fun r => r.2.core = n && r.2.awaits)).length

/-- An acquire of a core awaits its response: one on its way, or, in user mode, one held behind a failure, which only a replay sends (R252, R255; log 50). -/
def State.acquiring (s : State) (n : Nat) : Bool :=
  let c := s.core n
  s.reqs.any (fun r => r.2.core = n && r.2.acquire && (r.2.awaits || (!c.hm && c.held.any (fun h => h.req = r.1 && h.failure.isNone))))

/-- A FLUSH or CAPGIVE of a core awaits its completion (R267, R272). -/
def State.flushing (s : State) (n : Nat) : Bool := s.reqs.any (fun r => r.2.core = n && r.2.awaits && r.2.blocks)

/-- A write of a core to its own slice through a fabric awaits its response (R123). -/
def State.ownWrites (s : State) (n : Nat) : Bool := s.reqs.any (fun r => r.2.core = n && r.2.awaits && r.2.writesSlice = some n)

/-- The failed accesses held that the core's mode reports: in handler mode, none issued in user mode (R258). -/
def Core.reportable (c : Core) : List HeldAccess := c.held.filter (fun h => h.failure.isSome && (h.handler || !c.hm))

/-- Whether a pending result belongs to a failed access that is held (R255, R257). -/
def Core.failedResult (c : Core) (v : VarResult) : Bool :=
  match v.source with
  | .req id => c.held.any (fun h => h.req = id && h.failure.isSome)
  | .at _ => false

/-- Whether a pending result covers a register (R51). -/
def VarResult.covers (v : VarResult) (u : RegUse) : Bool :=
  if u.vec then v.vecs.contains u.num
  else
    match u.place with
    | some p => v.gens.contains p
    | none => false

/-- Whether a result in flight goes to a register. -/
def Flight.covers (f : Flight) (u : RegUse) : Bool :=
  if u.vec then f.dest.vecReg == some u.num
  else
    match u.place with
    | some p => f.dest.genReg == some p
    | none => false

/-- When a set of registers is free of pending variable-latency results (R51): a time, or none while no time is known. -/
def Core.varFree (c : Core) (us : List RegUse) : Option Nat :=
  c.var.foldl (fun t v =>
    match t with
    | none => none
    | some t =>
      if us.any v.covers then
        match v.source with
        | .at due => some (max t due)
        | .req _ => if c.failedResult v then some t else none
      else some t) (some 0)

/-- The least issue time that the write-order hold allows: each result of latency `lat` lands after every earlier one in flight to its register (R50). -/
def Core.orderFree (c : Core) (us : List RegUse) (lat : Nat) : Nat :=
  let pp := c.clock.pipePeriod
  c.flight.foldl (fun t f => if us.any f.covers then max t (f.due + pp - min (f.due + pp) (lat * pp)) else t) 0

/-- The time at which every result in flight that may set flags is written (R52); none while no time is known. -/
def Core.flagsFree (c : Core) : Option Nat :=
  let t := c.flight.foldl (fun t f => match f.dest with | .flags _ => max t f.due | _ => t) 0
  c.var.foldl (fun t v =>
    match t with
    | none => none
    | some t => if v.flags then (match v.source with | .at due => some (max t due) | .req _ => none) else some t) (some t)

/-- The time at which every result in flight is written (R123, R208); none while no time is known. -/
def Core.allFree (c : Core) : Option Nat :=
  let t := c.flight.foldl (fun t f => max t f.due) 0
  c.var.foldl (fun t v =>
    match t with
    | none => none
    | some t =>
      match v.source with
      | .at due => some (max t due)
      | .req _ => if c.failedResult v then some t else none) (some t)

/-- The first register of a list with a fixed-latency result still in flight at a time (R49). -/
def Core.shortOf (c : Core) (t : Nat) (us : List RegUse) : Option RegUse :=
  us.find? (fun u => c.flight.any (fun f => decide (t < f.due) && f.covers u))

/-- W: the charges of the 31 cycles before a cycle of the core's own sequence (R374). -/
def Core.window (c : Core) (seq : Nat) : Nat :=
  c.charges.foldl (fun a e => if decide (seq < e.1 + 32) && decide (e.1 < seq) then a + e.2 else a) 0

/-- The governor blocks an instruction of charge `w` at a time: in user mode outside exchange mode, when it has not been charged (R374). -/
def Core.blocks (c : Core) (t w : Nat) : Bool :=
  !(c.hm || c.xm || c.charged) && decide (c.budget.toNat < c.window (c.clock.seqAt t) + w)

/-- The pending interrupt a core would take: the time it became pending, and its cause; the timer before the grant event (R33, R119, R217, R367). -/
def Core.interrupt (c : Core) : Option (Nat × Raise) :=
  if c.hm || c.xm || !c.ie then none
  else
    let k := c.clock
    let timer : Option Nat :=
      if c.tcmp = 0 ∨ k.running = false then none
      else some ((k.base / tickUnits + (c.tcmp.toNat - k.reft)) * tickUnits)
    match timer, c.grantIrq with
    | none, none => none
    | some t, none => some (t, ⟨0x1A, 0, 0⟩)
    | none, some (t, seq) => some (t, ⟨0x1B, 0, BitVec.ofNat 64 seq⟩)
    | some t, some (u, seq) => if t ≤ u then some (t, ⟨0x1A, 0, 0⟩) else some (u, ⟨0x1B, 0, BitVec.ofNat 64 seq⟩)

/-- The interrupt taken at a boundary at a time, if one is pending before it: of two, the timer (R119). -/
def Core.interruptBefore (c : Core) (t : Nat) : Option Raise :=
  match c.interrupt with
  | none => none
  | some (p, r) =>
    if p < t then
      let k := c.clock
      let timerDue := decide (c.tcmp ≠ 0) && k.running && decide ((k.base / tickUnits + (c.tcmp.toNat - k.reft)) * tickUnits < t)
      some (if timerDue then ⟨0x1A, 0, 0⟩ else r)
    else none

/-- An interrupt's entry: the grant event is cleared only by the entry that takes it (R367). -/
def State.takeInterrupt (s : State) (n : Nat) (t : Nat) (r : Raise) : State :=
  let s := { s with now := max s.now t }
  let c := (s.core n).at t
  let c := if r.code = 0x1B then { c with grantIrq := none } else c
  (s.setCore n c).interruptAt n t r

/-- What issue decides of an instruction. -/
inductive Gate where
  /-- It executes at a time, with its operands as issued. -/
  | go (t : Nat) (o : Opnd)
  /-- Its guard is false: it is squashed at a time (R25). -/
  | squash (t : Nat)
  /-- The governor blocks it for the cycle of a time (R374). -/
  | blocked (t : Nat)
  /-- It is held, and no time is known. -/
  | hold
  /-- It faults at a time. -/
  | fault (t : Nat) (r : Raise)
  /-- It is the reporting point of a failed access that the core holds (R255). -/
  | report (t : Nat) (r : Raise) (h : HeldAccess)
  deriving DecidableEq, Repr

/-- The time of what issue decides; none for a hold. -/
def Gate.time : Gate → Option Nat
  | .go t _ => some t
  | .squash t => some t
  | .blocked t => some t
  | .fault t _ => some t
  | .report t _ _ => some t
  | .hold => none

/-- The earliest cycle at which the instruction at PC, with stall count S, may issue (R46, R48, R216): after the last hold of it that ended, or the present for a sleeping core. -/
def Core.earliest (c : Core) (now stall : Nat) : Nat :=
  max (c.ready + (stall + c.delay - c.waited) * c.clock.pipePeriod)
    (c.clock.pipe.ceil (match c.run with | .running => c.freeAt | _ => now))

/-- A cycle that does not lie in the past. -/
def Core.notPast (c : Core) (now t : Nat) : Nat := max t (c.clock.pipe.ceil now)

/-- The first cycle from a time on at which the guard that the core has pending reads false, by the results in flight to its register (R25); none if it stays true. -/
def Core.guardFalls (c : Core) (t : Nat) : Option Nat :=
  let due := (c.flight.filter (fun f => decide (t < f.due) && f.covers (c.useG c.guardReg))).map (fun f => c.clock.pipe.ceil f.due)
  ((t :: due).filter (fun u => !(c.at u).guardTrue)).min?

/-- A failed access as a fault (R255): its cause and qualifier, and its address. -/
def State.reported (s : State) (h : HeldAccess) : Raise :=
  let f := h.failure.getD (0, 0)
  ⟨f.1, f.2, ((SMap.find s.reqs h.req).map (·.ea)).getD 0⟩

/-- MFR as it describes a reported access: V, OPC and REG (R256). -/
def mfrOf (r : Req) : Word := BitVec.ofNat 64 (2 ^ 63 + r.opc * 2 ^ 40 + r.reg.toNat * 2 ^ 32)

/-- The oldest failed access is reported: MFR describes it, and the core enters by R117; one issued in handler mode is a double fault (R255, R258). -/
def State.reportAt (s : State) (n t : Nat) (r : Raise) (h : HeldAccess) : State :=
  let c := s.core n
  if h.handler then s.doubleFault n r
  else if c.hm then s.raiseAt n t r
  else (s.setCore n { c with mfr := ((SMap.find s.reqs h.req).map mfrOf).getD 0, reported := some h.req }).raiseAt n t r

/-- The governor, and steps 5 and 6 of R396, once the registers are free at a time. -/
def State.letPass (s : State) (n : Nat) (g : Sig) (t : Nat) (squashed : Bool) (sources touched : List RegUse) (o : Opnd) : Gate :=
  let c := s.core n
  let w := if squashed then 1 else chargeOf g.op
  let t := c.notPast s.now t
  if c.blocks t w then .blocked t
  else if !squashed && g.misuses s (c.at t) o then .go t o
  else
  let short := if c.ce then c.shortOf t sources else none
  match short with
  | some u => .fault t ⟨0x13, BitVec.ofNat 8 ((if u.vec then 64 else 0) + u.num % 64), 0⟩
  | none =>
    let failed := c.reportable
    let touches := touched.any (fun u => c.var.any (fun v => c.failedResult v && v.covers u))
    match (if touches || (!squashed && isDrainPoint g.op) then failed.head? else none) with
    | some h => .report t (s.reported h) h
    | none => if squashed then .squash t else .go t o

/-- What issue decides of a target that its guard lets execute, or that has none. -/
def State.gateTarget (s : State) (n : Nat) (g : Sig) (o : Opnd) (t : Nat) (guard : List RegUse) : Gate :=
  let c := s.core n
  let reads := g.readsOf c o
  let writes := g.writesOf c o
  match c.varFree (guard ++ reads ++ writes) with
  | none => .hold
  | some tv =>
    let tf : Option Nat := if g.waitsFlags o then c.flagsFree else some 0
    let ta : Option Nat := if g.waitsAll then c.allFree else some 0
    match tf, ta with
    | some tf, some ta =>
      if isDrainPoint g.op && (decide (0 < s.outstanding n) || c.ranges.any (·.drain)) then .hold
      else if touchesMemory g.op && !c.xm && s.acquiring n then .hold
      else if isRemoteAccess g.op && s.flushing n then .hold
      else if g.waitsFlags o && c.ranges.any (·.drain) then .hold
      else
        let tm := if touchesMemory g.op && !c.xm then c.memReady else 0
        let t := max t (c.clock.pipe.ceil (max tv (max (max tf ta) tm)))
        let t := max t (c.clock.pipe.ceil (c.orderFree writes (g.lat + g.slow s (c.at t) o)))
        s.letPass n g t false (guard ++ reads) (guard ++ reads ++ writes) o
    | _, _ => .hold

/-- What issue decides of the instruction at PC of a core, in the order of R396; one that sleeps has issued, and its guard with it (R25). -/
def State.gate (s : State) (n : Nat) (g : Sig) (raw : Opnd) : Gate :=
  let c := s.core n
  match s.lineFault n with
  | some r => .fault (c.notPast s.now (c.earliest s.now 0)) r
  | none =>
    let stall := ((s.slotAt n c.pc).map (fun x => Head.stall x.head)).getD 0
    let t := c.earliest s.now stall
    let o := c.stagger (g.roles raw) raw
    let t0 := c.notPast s.now t
    match s.prefixMisuse n g.op raw.m with
    | some q => .fault t0 ⟨0x02, q, 0⟩
    | none =>
      match g.illegal c o with
      | some q => .fault t0 ⟨0x01, q, 0⟩
      | none =>
        if c.xm && !exchangeAllows g.op then .fault t0 ⟨0x12, 0x00, 0⟩
        else if !c.xm && opClass g.op == 0x9 then .fault t0 ⟨0x12, 0x01, 0⟩
        else if c.gdPending && !isPrefix g.op && c.run == .running then
          let guard := [c.useG c.guardReg]
          match c.varFree guard with
          | none => .hold
          | some tv =>
            let t := c.notPast s.now (max t (c.clock.pipe.ceil tv))
            let v := s.gateTarget n g o t guard
            match c.guardFalls t with
            | some u => if (v.time.map (fun w => decide (u ≤ w))).getD true then s.letPass n g u true guard guard o else v
            | none => v
        else s.gateTarget n g o t []

/-- What the effect of an instruction comes to. -/
inductive Result where
  /-- It completes, and the next instruction follows by R109 and R112. -/
  | done (s : State)
  /-- It makes a taken transfer. -/
  | jump (s : State) (target : LAddr)
  /-- It sets PC by its own rule, without a transfer. -/
  | move (s : State) (target : LAddr)
  /-- It completes, and the fetch buffer is discarded. -/
  | fresh (s : State)
  /-- It faults, with no effect. -/
  | fault (r : Raise)
  /-- It enters a trap after the loop-end and repetition rules (R110). -/
  | trap (s : State) (r : Raise)
  /-- It stays at issue: nothing else changes. -/
  | wait
  /-- It sleeps at its place. -/
  | sleep (s : State) (why : Sleep)
  /-- It is a breakpoint that stops the core: it has not issued. -/
  | stopped
  /-- It has set PC and the core's condition itself. -/
  | own (s : State)

/-- A core whose instruction the governor blocks for the cycle of a time: ACT.BLK counts it, and the instruction waits for the next cycle (R374, R376). -/
def Core.blockedAt (c : Core) (t : Nat) : Core :=
  { c with blk := BitVec.ofNat 32 (min (c.blk.toNat + 1) (2 ^ 32 - 1)), freeAt := t + c.clock.pipePeriod }

/-- The machine at an instruction's issue: the time is its cycle, and results due are written (R49). -/
def State.arrive (s : State) (n t : Nat) : State := { s with now := max s.now t }.setCore n ((s.core n).at t)

/-- A core charged `w` units in the cycle of admission, unless its instruction has been charged; handler mode is charged 0 (R373, R374). -/
def Core.charge (c : Core) (t w : Nat) : Core :=
  let seq := c.clock.seqAt t
  let recent := c.charges.filter (fun e => decide (seq < e.1 + 32))
  if c.charged then c else { c with charged := true, charges := if c.hm then recent else recent ++ [(seq, w)] }

/-- The machine with the instruction at PC of a core charged (R373, R374). -/
def State.chargeCore (s : State) (n t w : Nat) : State := s.setCore n ((s.core n).charge t w)

/-- L of the head at PC (R39). -/
def State.lastHead (s : State) (n : Nat) : Bool := ((s.slotAt n (s.core n).pc).map (fun x => Head.last x.head)).getD false

/-- A core stopped at a BKPT: its resume PC is the BKPT or its first prefix, and a stop of its partition is requested (R442). -/
def State.breakStop (s : State) (n : Nat) : State :=
  let c := s.core n
  let c :=
    match c.runStart with
    | some (p, k) => { c with pc := p, reps := c.repBack k, stat := statNoPrefix c.stat, epfx := 0, runStart := none }
    | none => c
  let s := s.setCore n { c with run := .stopped .breakpoint, charged := false }
  match s.partOf c with
  | some p => if (s.partition p).stop = .none then s.postCore s.now n (.partitionStop p) else s
  | none => s

/-- The machine after an instruction's effect, given the machine at its issue and the same machine charged for it (R43, R109, R112, R373). -/
def State.finish (s0 s1 : State) (n t : Nat) (last : Bool) : Result → State
  | .done s => s.complete n t last
  | .jump s target => s.transfer n t target
  | .move s target => s.moveTo n t target
  | .fresh s => s.completeFresh n t last
  | .fault r => s0.raiseAt n t r
  | .trap s r => s.trapAfter n t last r
  | .wait => s1
  | .sleep s why => s.setCore n { (s.core n) with run := .sleeping why, charged := true }
  | .stopped => s0.breakStop n
  | .own s => s

/-- Whether a core issues: it runs, or it stands at an instruction that it may issue again. -/
def Core.issues (c : Core) : Bool :=
  match c.run with
  | .running => true
  | .sleeping .condition => true
  | _ => false

/-- An interrupt is not taken between two prefixes (R119). -/
def Core.betweenPrefixes (c : Core) (op : Opcode) : Bool := c.pp && isPrefix op

/-- The first vector edge after the time at which a core's pending interrupt became pending; 0 where none is pending (R119). -/
def Core.interruptEdge (c : Core) : Nat :=
  match c.interrupt with
  | some (p, _) => c.clock.vec.after p
  | none => 0

/-- The interrupt that a running core takes before the instruction at its PC, of which issue has decided `v`, and its time (R119). -/
def State.interruptIn (s : State) (n : Nat) (op : Opcode) (v : Gate) : Option (Nat × Raise) :=
  let c := s.core n
  let now := c.clock.pipe.ceil s.now
  let at_ := max (max c.interruptEdge c.ready) now
  if c.betweenPrefixes op || c.run != .running || (c.interruptBefore (v.time.getD (max now c.interruptEdge))).isNone then none
  else (c.interruptBefore at_).map (fun r => (at_, r))

/-- What issue decides is carried out. -/
def State.carryOut (s : State) (n : Nat) (g : Sig) (effect : Opnd → State → Result) : Gate → State
  | .hold => s.setCore n { s.core n with holding := true }
  | .blocked t => { s with now := max s.now t }.setCore n ((s.core n).blockedAt t)
  | .fault t r => (s.arrive n t).raiseAt n t r
  | .report t r h => (s.arrive n t).reportAt n t r h
  | .squash t => ((s.arrive n t).chargeCore n t 1).complete n t (s.lastHead n)
  | .go t o =>
    let s0 := s.arrive n t
    let s1 := s0.chargeCore n t (chargeOf g.op)
    State.finish s0 s1 n t (s.lastHead n) (effect o s1)

/-- Issue of the instruction at PC of the core in turn, with its signature, its operands as encoded and its effect: an interrupt comes first, and the end of a hold is a turn of its own (log 1). -/
def issue (g : Sig) (raw : Opnd) (s : State) (effect : Opnd → State → Result) : Host.Outcome State Fault Refusal :=
  let n := s.cur
  let c := s.core n
  if !c.issues then .next s
  else
    let v := s.gate n g raw
    match s.interruptIn n g.op v with
    | some (t, r) => .next (s.takeInterrupt n t r)
    | none =>
      if c.holding then .next (if v = .hold then s else s.setCore n { c with holding := false, freeAt := s.now })
      else .next (s.carryOut n g effect v)

/-- The register results of an instruction that issues now: each is written after its latency (R49). -/
def State.after (s : State) (lat : Nat) (ds : List Dest) : State :=
  let c := s.cc
  let due := s.now + lat * c.clock.pipePeriod
  s.setCc { c with flight := c.flight ++ ds.map (Flight.mk due) }

/-- A general-register result of the instruction that issues now (R49). -/
def State.putG (s : State) (n : Field) (x : Word) (lat : Nat) : State := s.after lat [.gen (s.cc.phys n) x]

/-- A vector-register result of the instruction that issues now, with the flags it may set (R49, R146). -/
def State.putV (s : State) (n : Field) (x : VWord) (flags : Word) (lat : Nat) : State :=
  s.after lat [.vec n.toNat x, .flags flags]

/-- A variable-latency result, tracked by the scoreboard until it arrives (R51). -/
def State.putVar (s : State) (source : VarSource) (gens : List Field) (vecs : List Nat) (writes : List Dest) (flags : Bool) : State :=
  let c := s.cc
  let v := VarResult.mk c.varNext source (gens.filterMap c.phys) vecs writes flags
  let s := s.setCc { c with var := c.var ++ [v], varNext := c.varNext + 1 }
  match source with
  | .at due => s.postEvent due (.varResultArrival s.cur v.id)
  | .req _ => s

end Sys2Proof.Machine
end

