-- ==== Sys2Proof/Machine/Mesh.lean ====
section
/-! DEFINITION. The mesh of each die and the bridges between dies: packets, buffers, routes, arbitration and delivery (R237 to R243, R456). -/

namespace Sys2Proof.Machine

/-- A buffer's index: router, port and VC. -/
def bufIdx (router port vc : Nat) : Nat := 28 * router + 4 * port + vc

/-- The buffer of the unit behind an output port, which takes delivered packets. -/
def sinkIdx (router port vc : Nat) : Nat := 28 * 128 + bufIdx router port vc

/-- A buffer. -/
def State.buf (s : State) (k : Nat) : Buf := SMap.get (fun _ => Buf.empty) s.bufs k

/-- The machine with a buffer replaced. -/
def State.setBuf (s : State) (k : Nat) (b : Buf) : State := { s with bufs := SMap.set (fun _ => Buf.empty) s.bufs k b }

/-- The arbiter of an output, by router and port. -/
def State.outPort (s : State) (router port : Nat) : OutPort := SMap.get (fun _ => OutPort.idle) s.outs (7 * router + port)

/-- The machine with an arbiter replaced. -/
def State.setOut (s : State) (router port : Nat) (o : OutPort) : State :=
  { s with outs := SMap.set (fun _ => OutPort.idle) s.outs (7 * router + port) o }

/-- The machine with a packet replaced. -/
def State.setPacket (s : State) (id : Nat) (p : Packet) : State := { s with packets := SMap.put s.packets id p }

/-- The flits of a packet with a payload (R237). -/
def flitsOf (payload : Nat) : Nat := (16 + payload + 63) / 64

/-- The router of super-group SG of die d, by a core's flat number. -/
def routerOfCore (core : Nat) : Nat := core / 64

/-- The router and port of an HBM channel (R237): stack 2d at column 0 and stack 2d + 1 at column 3, in row (c mod 32) / 8. -/
def routerOfChannel (c : Nat) : Nat × Nat :=
  let stack := c / 32
  (16 * (stack / 2) + 4 * (c % 32 / 8) + (if stack % 2 = 0 then 0 else 3), 5)

/-- The router and port of the host port that serves a die (R237, R462). -/
def routerOfHost (die : Nat) : Nat × Nat := (16 * (die / 4 * 4) + 2, 5)

/-- The router and port of a die's link hub (R456). -/
def routerOfHub (die : Nat) : Nat × Nat := (16 * die + 15, 6)

/-- The lowest set bit of a number below 8. -/
def lowestBit (x : Nat) : Nat := if x % 2 = 1 then 0 else if x / 2 % 2 = 1 then 1 else 2

/-- XY order within a die: along the row to the destination column, then along the column (R237). -/
def routeXY (r t : Nat) : Nat :=
  let c := r % 4
  let tc := t % 4
  if c < tc then 2 else if tc < c then 4 else if t / 4 < r / 4 then 1 else 3

/-- The output a packet takes at a router toward a router and port (R237, R456). -/
def routeOut (here router port : Nat) : Nat :=
  let d := here / 16
  let e := router / 16
  if d = e then (if here = router then port else routeXY (here % 16) (router % 16))
  else
    let bridge := 12 + lowestBit (d ^^^ e)
    if here % 16 = bridge then 6 else routeXY (here % 16) bridge

/-- The router and input port an output leads to, and the cycles the link takes; none where it leads to a unit (R237, R456). -/
def nextHop (router out : Nat) : Option (Nat × Nat × Nat) :=
  let d := router / 16
  let r := router % 16
  match out with
  | 1 => if 4 ≤ r then some (router - 4, 3, 1) else none
  | 2 => if r % 4 < 3 then some (router + 1, 4, 1) else none
  | 3 => if r < 12 then some (router + 4, 1, 1) else none
  | 4 => if 0 < r % 4 then some (router - 1, 2, 1) else none
  | 6 => if 12 ≤ r ∧ r ≤ 14 then some (16 * (d ^^^ 2 ^ (r - 12)) + r, 6, 12) else none
  | _ => none

/-- The output that feeds an input port, if a router does. -/
def feederOf (router port : Nat) : Option (Nat × Nat) :=
  match nextHop router port with
  | some (r, p, _) => some (r, p)
  | none => none

/-- The weight of a VC: VCWT, with 0 counting as 1 (R238, R457). -/
def State.vcWeight (s : State) (vc : Nat) : Nat := max 1 (bitsOf (s.reg 0x118) (4 * vc + 3) (4 * vc))

/-- Flits of a buffer that are taken or reserved at the present time. -/
def State.bufUsed (s : State) (k : Nat) : Nat :=
  let b := s.buf k
  let held := b.holds.foldl (fun n h => if s.now < h.till then n + h.flits else n) 0
  b.queue.foldl (fun n id => n + ((SMap.find s.packets id).map (·.flits)).getD 0) held

/-- Whether a buffer has room for a whole packet: 8 flits per VC (R238). -/
def State.hasRoom (s : State) (k flits : Nat) : Bool := decide (s.bufUsed k + flits ≤ 8)

/-- The buffer a packet of a VC enters through an output. -/
def targetBuf (router out vc : Nat) : Nat :=
  match nextHop router out with
  | some (r, p, _) => bufIdx r p vc
  | none => sinkIdx router out vc

/-- A packet that goes out in branches: a multicast packet, or a wake message (R180, R242). -/
def Packet.forks (p : Packet) : Bool := p.group.isSome || (match p.body with | .wake _ => true | _ => false)

/-- The outputs the head packet still has to take at its router: one, or its unsent branches (R242). -/
def Packet.outputs (p : Packet) : List Nat :=
  if p.forks then p.branches else [routeOut (p.buf / 28) p.router p.port]

/-- A partition that is being reset, by its id (R243). -/
def State.drops (s : State) (pid : Byte) : Bool :=
  s.parts.any (fun e => e.2.valid && e.2.pid == pid && (s.partition e.1).resetting)

/-- AGE of a packet at the head of its buffer, at a time: one more for each cycle it was not granted, saturating at 127 (R240). -/
def Packet.ageAt (p : Packet) (now period : Nat) : Nat :=
  match p.since with
  | some t => min 127 (p.age + (now - t) / period)
  | none => p.age

/-- The head packet of a buffer, by number. -/
def State.headOf (s : State) (k : Nat) : Option (Nat × Packet) :=
  match (s.buf k).queue with
  | id :: _ => (SMap.find s.packets id).map (fun p => (id, p))
  | [] => none

/-- E: the pairs (port, VC) whose head packet can go through an output now, with the packet (R239); one that a reset drops goes through none (R243). -/
def State.eligible (s : State) (router out : Nat) : List (Nat × Nat × Packet) :=
  (List.range 28).filterMap (fun pair =>
    match s.headOf (28 * router + pair) with
    | some (id, p) =>
      match p.since with
      | some t =>
        if t ≤ s.now && !s.drops p.pid && p.outputs.contains out && s.hasRoom (targetBuf router out p.vc) p.flits then some (pair, id, p) else none
      | none => none
    | none => none)

/-- The pair with the greatest AGE; ties go to the lower port, then the lower VC (R239). -/
def oldestPair (now period : Nat) : List (Nat × Nat × Packet) → Option (Nat × Nat × Packet)
  | [] => none
  | x :: xs =>
    match oldestPair now period xs with
    | none => some x
    | some y => if y.2.2.ageAt now period ≤ x.2.2.ageAt now period then some x else some y

/-- The first entry with CNT > 0 in the cyclic order after PTR (R239). -/
def pickAfter (o : OutPort) (es : List (Nat × Nat × Packet)) : Option (Nat × Nat × Packet) :=
  let ok := es.filter (fun e => decide (0 < o.cnt[e.1]?.getD 0))
  match ok.find? (fun e => decide (o.ptr < e.1)) with
  | some e => some e
  | none => ok.head?

/-- Arbitrate(out): the packet granted, and the arbiter afterwards (R239). -/
def State.arbitrate (s : State) (router out : Nat) : Option (Nat × Packet) × OutPort :=
  let o := s.outPort router out
  if s.now < o.free then (none, o)
  else
    let es := s.eligible router out
    let urgent := es.filter (fun e => decide (64 ≤ e.2.2.ageAt s.now s.netPeriod))
    match oldestPair s.now s.netPeriod urgent with
    | some e => (some (e.2.1, e.2.2), o)
    | none =>
      match es with
      | [] => (none, o)
      | _ =>
        let refill := !es.any (fun e => decide (0 < o.cnt[e.1]?.getD 0))
        let o := if refill then { o with cnt := (List.range 28).map (fun k => s.vcWeight (k % 4)) } else o
        match pickAfter o es with
        | some e => (some (e.2.1, e.2.2), { o with cnt := o.cnt.set e.1 (o.cnt[e.1]?.getD 0 - 1), ptr := e.1 })
        | none => (none, o)

/-- An arbitration of an output posted for a time. -/
def State.postArb (s : State) (due router out : Nat) : State := s.postCore due 0 (.outputArbitration router out)

/-- The time at which a buffer's leaving flits are gone. -/
def Buf.clear (b : Buf) : Nat := b.holds.foldl (fun t h => max t h.till) 0

/-- The head packet of a buffer, if it has arrived, can be granted from a time on; its outputs arbitrate then, and it becomes urgent when its AGE reaches 64 (R237, R240). One that a reset drops is discarded then (R243). -/
def State.raiseHead (s : State) (k t : Nat) : State :=
  match s.headOf k with
  | some (id, p) =>
    if p.arrived && p.since.isNone then
      let t := max t (s.buf k).clear
      let s := s.setPacket id { p with since := some t }
      let s := if s.drops p.pid then s.postCore t 0 (.packetArrival id) else s
      let s := p.outputs.foldl (fun s o => s.postArb t (k / 28) o) s
      if p.age < 64 then s.postCore (t + (64 - p.age) * s.netPeriod) 0 (.ageUrgent (k / 28) (k % 28 / 4) p.vc) else s
    else s
  | none => s

/-- A packet put into the mesh by a unit at a router's port: it reaches the input one cycle after it leaves the unit (R237). -/
def State.inject (s : State) (leave router port : Nat) (p : Packet) : State :=
  let id := s.nextId
  let s := { s with packets := SMap.put s.packets id { p with buf := bufIdx router port p.vc }, nextId := id + 1 }
  s.postCore (leave + s.netPeriod) 0 (.packetArrival id)

/-- A packet of one body to a destination. -/
def packetOf (body : Body) (vc payload : Nat) (pid : Byte) (dest : Nat × Nat) : Packet where
  body := body
  vc := vc
  flits := flitsOf payload
  pid := pid
  router := dest.1
  port := dest.2
  group := none
  branches := []
  age := 0
  buf := 0
  arrived := false
  since := none

/-- What a delivered packet brings about, once its last flit has arrived. -/
def State.deliver (s : State) (due : Nat) (p : Packet) : State :=
  match p.body with
  | .request r => s.postCore due 0 (.destinationRequest r)
  | .response r => s.postCore due 0 (.responseArrival r)
  | .withdrawal r => s.postCore due (((SMap.find s.reqs r).map (·.core)).getD 0) .waitaWithdrawal
  | .message m => s.postCore due 0 (.inboxMessageArrival m)
  | .remote port m => s.postCore due 0 (.linkFlitArrival (32 + port) true m)
  | .wake _ => s
  | .trace part core => s.post due 0 (.traceStore part core)
  | .feed die back => if back then s.postCore due 0 (.feederFrameDelivery die) else s.post due 0 (.feedRead die)

/-- Cycles for which the unit that takes a packet keeps its room: open (log 20). -/
def State.sinkHold (s : State) : Nat × State :=
  let f := s.takeFree
  (Config.latency f.1, f.2)

/-- The copy of a packet that goes through an output of its router. -/
def State.forward (s : State) (p : Packet) (out : Nat) : State :=
  let here := p.buf / 28
  let period := s.netPeriod
  match nextHop here out with
  | some (r, port, cycles) =>
    let id := s.nextId
    let k := bufIdx r port p.vc
    let q := { p with buf := k, arrived := false, since := none, age := p.ageAt s.now period, branches := [] }
    let s := { s with packets := SMap.put s.packets id q, nextId := id + 1 }
    let b := s.buf k
    let s := s.setBuf k { b with queue := b.queue ++ [id] }
    s.postCore (s.now + cycles * period) 0 (.packetArrival id)
  | none =>
    let k := sinkIdx here out p.vc
    let h := s.sinkHold
    let till := s.now + (p.flits + h.1) * period
    let b := h.2.buf k
    let s := h.2.setBuf k { b with holds := b.holds.filter (fun x => decide (s.now < x.till)) ++ [⟨p.flits, till⟩] }
    (s.deliver (s.now + p.flits * period) p).postArb till here out

/-- A packet leaves its buffer by a time: its room comes back then, the next packet becomes the head, and the feeding output or the waiting packets are looked at again (R238). -/
def State.departBy (s : State) (till id : Nat) (p : Packet) : State :=
  let k := p.buf
  let b := s.buf k
  let s := { s with packets := SMap.erase s.packets id }
  let s := s.setBuf k { b with queue := b.queue.filter (· != id), holds := b.holds.filter (fun x => decide (s.now < x.till)) ++ [⟨p.flits, till⟩] }
  let s := s.raiseHead k till
  let s :=
    match feederOf (k / 28) (k % 28 / 4) with
    | some (r, o) => s.postArb till r o
    | none => s
  match b.waiting with
  | w :: _ => s.postCore till 0 (.packetArrival w)
  | [] => s

/-- A packet granted leaves its buffer from now on, over as many cycles as it has flits (R237). -/
def State.depart (s : State) (id : Nat) (p : Packet) : State := s.departBy (s.now + p.flits * s.netPeriod) id p

/-- A packet discarded in one cycle: its credits return, and its request is answered by nobody (R243). -/
def State.discard (s : State) (id : Nat) (p : Packet) : State :=
  let s := s.departBy (s.now + s.netPeriod) id p
  match p.body with
  | .request r => { s with reqs := SMap.erase s.reqs r }
  | .response r => { s with reqs := SMap.erase s.reqs r }
  | .message m => { s with mail := SMap.erase s.mail m }
  | .trace part core => { s with traceOut := s.traceOut.filter (fun x => !(x.sent && x.part == part && x.core == core)) }
  | _ => s

/-- The packets of a partition's id that stand at the heads of buffers are discarded from the next network cycle (R243). -/
def State.dropQueued (s : State) (pid : Byte) : State :=
  s.packets.foldl (fun (t : State) e =>
    if e.2.pid == pid && e.2.since.isSome then t.postCore (max (t.netEdgeAfter t.now) (e.2.since.getD 0)) 0 (.packetArrival e.1) else t) s

/-- Whether a router has a unit at its edge A port: HBM channels at columns 0 and 3, the ring station of router 1, and the host port of router 2 of dies 0 and 4 (R237). -/
def hasEdgeA (router : Nat) : Bool :=
  let r := router % 16
  r % 4 = 0 || r % 4 = 3 || r = 1 || (r = 2 && router / 16 % 4 = 0)

/-- The ports on which a packet that arrives by a port can go on to other routers. -/
def onward (router port : Nat) : List Nat := (List.range 7).filter (fun n => n != port && (nextHop router n).isSome)

/-- EGRESS of a router's multicast entry, without the port of arrival and ports that lead nowhere (R241). -/
def State.egress (s : State) (router port group : Nat) : List Nat :=
  let off := 0x440000 + 512 * router + 2 * group
  let e := natBits (s.reg (off / 8 * 8)).toNat (16 * (off % 8 / 2) + 6) (16 * (off % 8 / 2))
  (List.range 7).filter (fun n => e.testBit n && n != port && (n == 0 || (n == 5 && hasEdgeA router) || (nextHop router n).isSome))

/-- A router's drop count goes up (R241, R461). -/
def State.countDrop (s : State) (router : Nat) : State :=
  let off := 0x52AB40 + 8 * router
  s.setReg off (BitVec.ofNat 64 (min (2 ^ 32 - 1) (bitsOf (s.reg off) 31 0 + 1)))

/-- The time until which a unit's packets take an input port: a port takes one flit in a cycle (R237). -/
def State.inFree (s : State) (port : Nat) : Nat := (SMap.find s.ins port).getD 0

/-- A packet first among those that wait to enter a buffer tries again when its port is free, or room that has been left comes back (R237, R238). -/
def State.retryEntry (s : State) (k id : Nat) : State :=
  let b := s.buf k
  let port := if s.now < s.inFree (k / 4) then [s.inFree (k / 4)] else []
  let later := port ++ (b.holds.filter (fun x => decide (s.now < x.till))).map Hold.till
  match b.waiting.head? == some id, later with
  | true, t :: ts => s.postOnce (ts.foldl min t) 0 (.packetArrival id)
  | _, _ => s

/-- A wake message at a router: it goes on by every other port and is handed over here, unless the router has forwarded one of its launch before, which drops the copy (R180). -/
def State.wakeBranches (s : State) (p : Packet) (router port : Nat) : List Nat × State :=
  match p.body with
  | .wake n =>
    match SMap.find s.launches n with
    | some l =>
      if l.seenBy.contains router then ([], s)
      else
        (onward router port,
          State.postCore { s with launches := SMap.put s.launches n { l with seenBy := l.seenBy ++ [router] } } s.now 0 (.wakeMessage n router))
    | none => ([], s)
  | _ => ([], s)

/-- A packet enters its router's input from its unit: a request's network cycles count from the cycle before, in which it left its interface (R245). -/
def State.entered (s : State) (p : Packet) : State :=
  match p.body with
  | .request r =>
    match SMap.find s.reqs r with
    | some q => { s with reqs := SMap.put s.reqs r { q with cycles := 1, sentAt := s.now } }
    | none => s
  | _ => s

/-- PACKET_ARRIVAL (R237, R241, R243): a packet's head reaches a router input, or a waiting packet enters its unit's input buffer. -/
def execPacketArrival (id : Nat) (s : State) : Host.Outcome State Fault Refusal :=
  match SMap.find s.packets id with
  | none => .next s
  | some p =>
    let k := p.buf
    let b := s.buf k
    let comes : Bool := b.queue.contains id
    let b := if comes || b.waiting.contains id then b else { b with waiting := b.waiting ++ [id] }
    if p.arrived then .next (if s.drops p.pid && b.queue.head? == some id && p.since.isSome then s.discard id p else s)
    else if !comes && !(b.waiting.head? == some id && s.hasRoom k p.flits && decide (s.inFree (k / 4) ≤ s.now)) then
      .next ((s.setBuf k b).retryEntry k id)
    else
      let s :=
        if comes then s
        else
          let s := s.setBuf k { b with waiting := b.waiting.filter (· != id), queue := b.queue ++ [id] }
          let s := State.entered { s with ins := SMap.put s.ins (k / 4) (s.now + p.flits * s.netPeriod) } p
          match b.waiting with
          | _ :: w :: _ => s.postCore s.now 0 (.packetArrival w)
          | _ => s
      let here := k / 28
      let w := s.wakeBranches p here (k % 28 / 4)
      let p := { p with arrived := true, branches := match p.group with | some g => s.egress here (k % 28 / 4) g | none => w.1 }
      let s := w.2.setPacket id p
      if s.drops p.pid then .next (s.raiseHead k (s.now + s.netPeriod))
      else if p.forks && p.branches.isEmpty then .next (if p.group.isSome then (s.discard id p).countDrop here else s.discard id p)
      else .next (s.raiseHead k (s.now + s.netPeriod))

/-- OUTPUT_ARBITRATION (R239, R242): one output grants at most one pair, whose packet holds it until its last flit has passed. -/
def execOutputArbitration (router port : Nat) (s : State) : Host.Outcome State Fault Refusal :=
  if 128 ≤ router ∨ 7 ≤ port then .fault .noSuchUnit
  else
    let g := s.arbitrate router port
    match g.1 with
    | none => .next s
    | some (id, p) =>
      let till := s.now + p.flits * s.netPeriod
      let s := s.setOut router port { g.2 with free := till }
      let s := s.postArb till router port
      let p := { p with age := p.ageAt s.now s.netPeriod, since := some s.now }
      let s := s.forward p port
      if p.forks then
        let rest := p.branches.filter (· != port)
        .next (if rest.isEmpty then s.depart id p else s.setPacket id { p with branches := rest })
      else .next (s.depart id p)

/-- AGE_URGENT (R240): the packet at the head of a buffer has AGE 64 or more, and stays urgent at every later router. -/
def execAgeUrgent (router port vc : Nat) (s : State) : Host.Outcome State Fault Refusal :=
  if 128 ≤ router ∨ 7 ≤ port ∨ 4 ≤ vc then .fault .noSuchUnit
  else
    match s.headOf (bufIdx router port vc) with
    | some (id, p) =>
      let age := p.ageAt s.now s.netPeriod
      if p.since.isSome && decide (64 ≤ age) then .next (s.setPacket id { p with age := age, since := some s.now }) else .next s
    | none => .next s

end Sys2Proof.Machine
end

