-- ==== Sys2Proof/Machine/Places.lean ====
section
/-! DEFINITION. Where addresses lead: partitions and ranges, destination classes, readiness, translation with its caches, window grants, and owned granules (R177, R183, R184, R232 to R236, R244, R271, R415 to R426, R460, R465). -/

namespace Sys2Proof.Machine

/-! ### Partitions and ranges -/

/-- The super-groups of a partition, in rising flat order (R184, R428). -/
def PartEntry.list (e : PartEntry) : List Nat := (List.range 128).filter (fun i => e.sgs.getLsbD i)

/-- The number of cores of a partition (R184). -/
def PartEntry.cores (e : PartEntry) : Nat := 64 * e.list.length

/-- The flat number of a partition-relative number (R184). -/
def PartEntry.flat (e : PartEntry) (rank : Nat) : Option Nat := e.list[rank / 64]?.map (fun g => 64 * g + rank % 64)

/-- The partition-relative number of a flat number (R184). -/
def PartEntry.rankOf (e : PartEntry) (flat : Nat) : Option Nat :=
  if e.sgs.getLsbD (flat / 64) then some (64 * (e.list.findIdx (· = flat / 64)) + flat % 64) else none

/-- A field of a launch block (R177). -/
def Launch.field (l : Launch) (off n : Nat) : Nat := fieldAt l.block off n

/-- FIRST of a launch (R177). -/
def Launch.first (l : Launch) : Nat := l.field 4 4

/-- COUNT of a launch (R177). -/
def Launch.count (l : Launch) : Nat := l.field 8 4

/-- A bit of a launch's FLAGS (R177). -/
def Launch.flag (l : Launch) (bit : Nat) : Bool := (l.field 2 2).testBit bit

/-- Whether a partition-relative number lies in a launch's range. -/
def Launch.inRange (l : Launch) (rank : Nat) : Bool := decide (l.first ≤ rank) && decide (rank < l.first + l.count)

/-- The cores of a launch's range, by flat number, in rising rank. -/
def State.rangeCores (s : State) (l : Launch) : List Nat :=
  let e := s.part l.part
  (List.range l.count).filterMap (fun i => e.flat (l.first + i))

/-- Whether a core has retired (R192). -/
def Core.retired (c : Core) : Bool := c.run == .halted || c.run == .doubleFaulted

/-- Whether a launch runs (R360): it has started and is not complete, and its partition is not out in a save area. -/
def State.runs (s : State) (l : Launch) : Bool :=
  match l.stage with
  | .started | .draining => !(s.partition l.part).saved
  | _ => false

/-- The launch of a core, with its number. -/
def State.launchOf (s : State) (core : Nat) : Option (Nat × Launch) :=
  match (s.core core).launch with
  | some n => (SMap.find s.launches n).map (fun l => (n, l))
  | none => none

/-- Whether a core's slice lies in the launch range of another core, which also means that both run in one partition (R234, step 2). -/
def State.sharesRange (s : State) (issuer target : Nat) : Bool :=
  match s.launchOf issuer with
  | some (_, l) =>
    match (s.part l.part).rankOf target with
    | some r => l.inRange r
    | none => false
  | none => false

/-- The virtual function of a core's partition (R428); 0 outside a launch. -/
def State.vfOf (s : State) (core : Nat) : Nat :=
  match s.launchOf core with
  | some (_, l) => (s.part l.part).vf
  | none => 0

/-- The partition id that a core's packets carry (R243). -/
def State.pidOf (s : State) (core : Nat) : Byte := BitVec.ofNat 8 (bitsOf (s.core core).part 55 48)

/-! ### Places and classes -/

/-- What an address names (R232, R235). -/
inductive Place where
  | slice (core off : Nat)
  | hbm (va : Nat)
  | window (die off : Nat)
  | host (addr : Nat)
  | remote (pkg : Nat)
  deriving DecidableEq, Repr

/-- A near address from a core (R232). -/
def nearPlace (core : Nat) (ea : Word) : Place := .slice (core / 64 * 64 + bitsOf ea 23 18) (bitsOf ea 17 0)

/-- A global address in a package (R235). -/
def globalPlace (pkg : Nat) (ea : Word) : Place :=
  match bitsOf ea 63 62 with
  | 0 => .hbm (bitsOf ea 47 0)
  | 1 => if bitsOf ea 43 31 = pkg then .slice (bitsOf ea 30 18) (bitsOf ea 17 0) else .remote (bitsOf ea 43 31)
  | _ => if ea.getLsbD 61 then .host (bitsOf ea 51 0) else .window (bitsOf ea 22 20) (bitsOf ea 19 0)

/-- Step 1 of R234: a near address with a bit above 23, or a global address of space 0b11 or with a nonzero bit that must be 0 (R235). -/
def badAddress (near : Bool) (ea : Word) : Bool :=
  if near then decide (bitsOf ea 63 24 ≠ 0)
  else
    match bitsOf ea 63 62 with
    | 0 => decide (bitsOf ea 61 48 ≠ 0)
    | 1 => decide (bitsOf ea 61 44 ≠ 0)
    | 2 => if ea.getLsbD 61 then decide (bitsOf ea 60 52 ≠ 0) else decide (bitsOf ea 60 23 ≠ 0)
    | _ => true

/-- The HBM channel of a virtual offset (R236). -/
def channelOf (va : Nat) : Nat :=
  let g := va / 256
  (natBits g 8 0) ^^^ (natBits g 17 9) ^^^ (natBits g 26 18) ^^^ (natBits g 35 27) ^^^ (natBits g 39 36)

/-- The place of a request. -/
def State.placeOf (s : State) (r : Req) : Place := if r.near then nearPlace r.core r.ea else globalPlace s.pkg r.ea

/-- The destination class of a place, for a core (R244). -/
def classOf (core : Nat) : Place → Nat
  | .slice c _ => if c / 1024 = core / 1024 then c / 64 % 16 else 16 + c / 1024
  | .hbm va => 24 + channelOf va / 16
  | .window _ _ => 56
  | .host _ => 57
  | .remote _ => 58

/-- The router and port of a place; `die` is the die of the issuer (R237, R456, R462). -/
def placeRouter (die : Nat) : Place → Nat × Nat
  | .slice c _ => (routerOfCore c, 0)
  | .hbm va => routerOfChannel (channelOf va)
  | .window d _ => routerOfHost d
  | .host _ => routerOfHost die
  | .remote _ => routerOfHub die

/-- Whether the unit of a place is ready (R234, step 3; R460). -/
def State.ready (s : State) (die : Nat) : Place → Bool
  | .slice c _ => (s.reg (if c / 64 < 64 then 0 else 8)).getLsbD (c / 64 % 64)
  | .hbm va => (s.reg 0x10).getLsbD (8 + channelOf va / 32)
  | .window d _ => (s.reg 0x10).getLsbD (24 + d / 4)
  | .host _ => (s.reg 0x10).getLsbD (24 + die / 4)
  | .remote _ => true

/-- The number of the interface that a place is reached through: slices, channels, host ports. -/
def ifaceOf (die : Nat) : Place → Nat
  | .slice c _ => c
  | .hbm va => 8192 + channelOf va
  | .window d _ => 8704 + d / 4
  | .host _ => 8704 + die / 4
  | .remote p => 8706 + p

/-! ### Translation (R415 to R420) -/

/-- A cause and qualifier. -/
abbrev Cause := Byte × Byte

/-- The spaces of translation: HBM, slice, host memory, as R421 numbers them. -/
def pageBits (space : Nat) : Nat := if space = 1 then 14 else 16

/-- The index of a level (R416). -/
def levelIndex (space x lvl : Nat) : Nat :=
  let p := pageBits space
  match lvl with
  | 2 => natBits x (p + 12) p
  | 1 => natBits x (p + 25) (p + 13)
  | _ => natBits x (if space = 2 then 51 else if space = 1 then 43 else 47) (p + 26)

/-- TYPE of an entry (R417). -/
def entryType (e : Word) : Nat := bitsOf e 63 62

/-- An entry is malformed at its level (R417, R418). -/
def malformedEntry (e : Word) (lvl : Nat) (stage1 : Bool) : Bool :=
  match entryType e with
  | 0 => false
  | 1 => lvl == 2 || bitsOf e 60 36 != 0
  | 2 => lvl != 2 || (if stage1 then bitsOf e 58 56 != 0 || bitsOf e 39 36 != 0 else bitsOf e 57 36 != 0)
  | _ => true

/-- A table's entry, read in one step at its HBM location (R420). -/
def State.tableWord (s : State) (a : Nat) : Word := BitVec.ofNat 64 (Memory.readLE s.mem (hbmKey a) 8)

/-- The walk of one stage from a level on, whose tables lie at addresses that `page` translates (R418): a leaf, or none when it is not present. -/
def State.walk (s : State) (space x : Nat) (stage1 : Bool) (page : Nat → Except Cause Nat) : (fuel lvl t : Nat) → Except Cause (Option Word)
  | 0, _, _ => .ok none
  | fuel + 1, lvl, t =>
    match page (t * 2 ^ 16 + 8 * levelIndex space x lvl) with
    | .error c => .error c
    | .ok a =>
      let e := s.tableWord a
      if malformedEntry e lvl stage1 then .error (0x0E, 0x04)
      else if entryType e = 0 then .ok none
      else if lvl < 2 then
        if e.getLsbD 61 then .error (0x0E, 0x03) else s.walk space x stage1 page fuel (lvl + 1) (bitsOf e 35 0)
      else .ok (some e)

/-- The roots of the stage-2 tables of a function, for HBM or for host memory (R415, R457). -/
def State.root2 (s : State) (vf space : Nat) : Nat := bitsOf (s.reg (0x14000 + 16 * vf + (if space = 2 then 8 else 0))) 35 0

/-- The root of a function's stage-1 tables (R459). -/
def State.root1 (s : State) (vf space : Nat) : Nat :=
  bitsOf (SMap.get (fun _ => 0) s.vfPages (4096 * vf + 8 * space)) 35 0

/-- A stage-2 walk (R418). -/
def State.stage2 (s : State) (vf space g : Nat) : Except Cause (Option Word) :=
  s.walk (if space = 2 then 2 else 0) g false .ok 3 0 (s.root2 vf space)

/-- TablePage (R418). -/
def State.tablePage (s : State) (vf g : Nat) : Except Cause Nat :=
  match s.stage2 vf 0 g with
  | .error c => .error c
  | .ok none => .error (0x0E, 0x01)
  | .ok (some e) =>
    if e.getLsbD 58 then .error (0x0E, 0x02)
    else if e.getLsbD 61 then .error (0x0E, 0x03)
    else .ok (bitsOf e 35 0 * 2 ^ 16 + g % 2 ^ 16)

/-- A stage-1 walk (R418). -/
def State.stage1 (s : State) (vf space va : Nat) : Except Cause (Option Word) :=
  s.walk space va true (s.tablePage vf) 3 0 (s.root1 vf space)

/-- A leaf that an interface keeps (R420). -/
def State.cached (s : State) (iface vf space : Nat) (stage1 : Bool) (page : Nat) : Option Word :=
  (s.tcache.find? (fun e => e.iface = iface && e.vf = vf && e.space = space && e.stage1 = stage1 && e.page = page)).map (·.leaf)

/-- The machine with a leaf kept, once (R420). -/
def State.keep (s : State) (e : CachedLeaf) : State := if s.tcache.contains e then s else { s with tcache := s.tcache ++ [e] }

/-- A stage-1 leaf by the interface's cache, or by a walk that fills it with a well-formed leaf: one of a slice page must lead to that page (R417, R420). -/
def State.leaf1 (s : State) (iface vf space va : Nat) : Except Cause (Option Word) × State :=
  let page := va / 2 ^ pageBits space
  match s.cached iface vf space true page with
  | some e => (.ok (some e), s)
  | none =>
    match s.stage1 vf space va with
    | .ok (some e) => (.ok (some e), if space = 1 ∧ bitsOf e 35 0 ≠ page then s else s.keep ⟨iface, vf, space, true, page, e⟩)
    | r => (r, s)

/-- A stage-2 leaf by the interface's cache, or by a walk that fills it; a leaf with MIG or FAR is not kept (R420). -/
def State.leaf2 (s : State) (iface vf space g : Nat) : Except Cause (Option Word) × State :=
  let page := g / 2 ^ 16
  match s.cached iface vf space false page with
  | some e => (.ok (some e), s)
  | none =>
    match s.stage2 vf space g with
    | .ok (some e) => (.ok (some e), if e.getLsbD 61 || e.getLsbD 58 then s else s.keep ⟨iface, vf, space, false, page, e⟩)
    | r => (r, s)

/-! ### User-level pagers (R424 to R426) -/

/-- A registered region of a partition's pager table (R424). -/
structure PagerRegion where
  index : Nat
  base : Nat
  fbase : Nat
  npage : Nat
  pager : Nat
  deriving DecidableEq, Repr

/-- Region i of a partition's pager table, if it is valid (R424). -/
def State.pagerRegion (s : State) (part i : Nat) : Option PagerRegion :=
  let w (off : Nat) : Word := s.page part (0x1000 + 48 * i + off)
  if (w 40).getLsbD 24 then some ⟨i, (w 0).toNat, bitsOf (w 24) 35 0, bitsOf (w 32) 31 0, bitsOf (w 40) 15 0⟩ else none

/-- The region that holds an HBM virtual address. -/
def State.pagerAt (s : State) (part va : Nat) : Option PagerRegion :=
  ((List.range 64).filterMap (s.pagerRegion part)).find? (fun r => decide (r.base ≤ va) && decide (va < r.base + r.npage * 2 ^ 16))

/-! ### A global access translated (R418) -/

/-- An access that passed translation: its address key, and the stage-1 leaf that governs its granule. -/
structure Translated where
  key : Nat
  leaf : Word
  deriving DecidableEq, Repr

/-- Rights refused by a leaf: R bit 60, W bit 59 (R417). -/
def refuses (e : Word) (read write : Bool) : Bool := (write && !e.getLsbD 59) || (read && !e.getLsbD 60)

/-- Both stages, for HBM and host memory. -/
def State.translateTwo (s : State) (iface vf : Nat) (part : Option Nat) (space va : Nat) (read write : Bool) : Except Cause Translated × State :=
  let r := s.leaf1 iface vf space va
  match r.1 with
  | .error e => (.error e, r.2)
  | .ok none => (.error (0x0B, 0x00), r.2)
  | .ok (some e1) =>
    let region := if space = 0 then part.bind (fun p => s.pagerAt p va) else none
    let strays := match region with
      | some g => decide (bitsOf e1 35 0 ≠ g.fbase + (va - g.base) / 2 ^ 16)
      | none => false
    if strays then (.error (0x0E, 0x05), r.2)
    else if refuses e1 read write then (.error (0x0C, 0x03), r.2)
    else
      let q := r.2.leaf2 iface vf space (bitsOf e1 35 0 * 2 ^ 16 + va % 2 ^ 16)
      match q.1 with
      | .error e => (.error e, q.2)
      | .ok none => (.error (0x0B, 0x02), q.2)
      | .ok (some e2) =>
        if e2.getLsbD 58 || e2.getLsbD 61 then (.error (0x0B, 0x02), q.2)
        else if refuses e2 read write then (.error (0x0C, 0x04), q.2)
        else
          let a := bitsOf e2 35 0 * 2 ^ 16 + va % 2 ^ 16
          (.ok ⟨if space = 0 then hbmKey a else hostKey a, e1⟩, q.2)

/-- Translate, for a function and a partition at an interface (R418, R465). -/
def State.translate (s : State) (iface vf : Nat) (part : Option Nat) (p : Place) (read write : Bool) : Except Cause Translated × State :=
  match p with
  | .slice c off =>
    let va := c * 2 ^ 18 + off
    let r := s.leaf1 iface vf 1 (va + s.pkg * 2 ^ 31)
    match r.1 with
    | .error e => (.error e, r.2)
    | .ok none => (.error (0x0B, 0x00), r.2)
    | .ok (some e) =>
      if bitsOf e 35 0 ≠ (va + s.pkg * 2 ^ 31) / 2 ^ 14 then (.error (0x0E, 0x04), r.2)
      else if refuses e read write then (.error (0x0C, 0x03), r.2)
      else (.ok ⟨sliceKey c off, e⟩, r.2)
  | .window d off =>
    let at2 := 0x480000 + 2 * (256 * d + off / 4096)
    let e := natBits (s.reg (at2 / 8 * 8)).toNat (8 * (at2 % 8) + 15) (8 * (at2 % 8))
    let ok := decide (e % 256 = vf) && (!read || e.testBit 8) && (!write || e.testBit 9)
    (if ok then .ok ⟨windowKey d off, 0⟩ else .error (0x0C, 0x03), s)
  | .hbm va => s.translateTwo iface vf part 0 va read write
  | .host a => s.translateTwo iface vf part 2 a read write
  | .remote _ => (.error (0x1D, 0x00), s)

/-! ### What an access uses of the tables (R420, R421) -/

/-- The frames of the table pages that a stage-1 walk reads from a level on (R418). -/
def State.walkFrames (s : State) (vf space x : Nat) : (fuel lvl t : Nat) → List Nat
  | 0, _, _ => []
  | fuel + 1, lvl, t =>
    t :: (match s.tablePage vf (t * 2 ^ 16 + 8 * levelIndex space x lvl) with
    | .ok a => if entryType (s.tableWord a) = 1 ∧ lvl < 2 then s.walkFrames vf space x fuel (lvl + 1) (bitsOf (s.tableWord a) 35 0) else []
    | .error _ => [])

/-- What an access uses of the stage-1 translation of an address: its page, and where an interface does not hold the leaf, the stage-2 translations of the table pages of the walk. -/
def State.uses1 (s : State) (iface vf space va : Nat) : List (Nat × Bool × Nat) :=
  let page := va / 2 ^ pageBits space
  (space, true, page) ::
    (if (s.cached iface vf space true page).isSome then [] else (s.walkFrames vf space va 3 0 (s.root1 vf space)).map (fun f => (0, false, f)))

/-- What an access uses of both stages, for HBM and host memory. -/
def State.uses2 (s : State) (iface vf space va : Nat) : List (Nat × Bool × Nat) :=
  s.uses1 iface vf space va ++ (match (s.leaf1 iface vf space va).1 with | .ok (some e) => [(space, false, bitsOf e 35 0)] | _ => [])

/-- What the check of a slice granule's ownership uses: the leaf of the granule's first page (R271, R417). -/
def State.usesGranule (s : State) (iface vf c off : Nat) : List (Nat × Bool × Nat) :=
  s.uses1 iface vf 1 (c * 2 ^ 18 + off / 2 ^ 16 * 2 ^ 16 + s.pkg * 2 ^ 31)

/-- What a global access to a place uses. -/
def State.usesOf (s : State) (iface vf : Nat) (p : Place) : List (Nat × Bool × Nat) :=
  match p with
  | .slice c off => s.uses1 iface vf 1 (c * 2 ^ 18 + off + s.pkg * 2 ^ 31) ++ s.usesGranule iface vf c off
  | .hbm va => s.uses2 iface vf 0 va
  | .host a => s.uses2 iface vf 2 a
  | _ => []

/-! ### Owned granules (R271) -/

/-- The stage-1 leaf that marks the granule of a place owned: the page's own for HBM, the granule's first page for a slice (R417). -/
def State.granuleLeaf (s : State) (iface vf : Nat) (p : Place) (leaf : Word) : Word :=
  match p with
  | .slice c off =>
    match (s.leaf1 iface vf 1 (c * 2 ^ 18 + off / 2 ^ 16 * 2 ^ 16 + s.pkg * 2 ^ 31)).1 with
    | .ok (some e) => e
    | _ => 0
  | .hbm _ => leaf
  | _ => 0

/-- The holder of a granule by its key, if it is owned: the one a handover named, or its leaf's first holder (R271, R417). -/
def State.holder (s : State) (key : Nat) (leaf : Word) : Option Nat :=
  if leaf.getLsbD 61 then some ((SMap.find s.holders (key / 2 ^ 16)).getD (bitsOf leaf 55 40)) else none

end Sys2Proof.Machine
end

