-- ==== Sys2Proof/Machine/CopyJobs.lean ====
section
/-! DEFINITION. The copy units and their jobs as other parts of the machine see them: their entries, their cycle, and their trace records (R296, R297, R300, R446). -/

namespace Sys2Proof.Machine

/-- A pod's copy unit. -/
def State.copyUnit (s : State) (pod : Nat) : CopyUnit := SMap.get (fun _ => CopyUnit.empty) s.copyUnits pod

/-- The machine with a copy unit replaced. -/
def State.setCopyUnit (s : State) (pod : Nat) (u : CopyUnit) : State :=
  { s with copyUnits := SMap.set (fun _ => CopyUnit.empty) s.copyUnits pod u }

/-- An entry of a unit. -/
def CopyUnit.entry (u : CopyUnit) (e : Nat) : CopyEntry := SMap.get (fun _ => CopyEntry.empty) u.entries e

/-- A unit with an entry replaced. -/
def CopyUnit.setEntry (u : CopyUnit) (e : Nat) (x : CopyEntry) : CopyUnit :=
  { u with entries := SMap.set (fun _ => CopyEntry.empty) u.entries e x }

/-- The jobs of a unit with their entries, in rising order of entry. -/
def CopyUnit.jobs (u : CopyUnit) : List (Nat × CopyJob) := u.entries.filterMap (fun e => e.2.job.map (fun j => (e.1, j)))

/-- A unit with the job of an entry replaced. -/
def CopyUnit.setJob (u : CopyUnit) (e : Nat) (j : CopyJob) : CopyUnit := u.setEntry e { u.entry e with job := some j }

/-- The steps of a unit's next memory cycle posted (R296). -/
def State.kickCopy (s : State) (pod : Nat) : State :=
  let due := s.memEdgeAfter s.now
  ((s.postOnce due (8 * pod) (.copyAccept pod)).postOnce due (8 * pod) (.copyJobStart pod)).postOnce due (8 * pod) (.copyRequestIssue pod)

/-- A field of a job's descriptor (R300). -/
def CopyOrder.u (o : CopyOrder) (off n : Nat) : Nat := fieldAt o.desc off n

/-- SRC, DST and LEN (R300). -/
def CopyOrder.src (o : CopyOrder) : Nat := o.u 0 8
/-- DST (R300). -/
def CopyOrder.dest (o : CopyOrder) : Nat := o.u 8 8
/-- LEN (R300). -/
def CopyOrder.len (o : CopyOrder) : Nat := o.u 16 4

/-- The rows of a job: ROWS for 2-D, 1 otherwise (R301). -/
def CopyOrder.rows (o : CopyOrder) : Nat := if o.form = 1 then o.u 20 4 else 1

/-- A job handle (R297). -/
def jobHandle (gen e : Nat) : Word := BitVec.ofNat 64 (gen % 2 ^ 24 * 256 + e)

/-- A trace record of a job (R446). -/
def State.copyTrace (s : State) (kind : Nat) (e : Nat) (x : CopyEntry) (j : CopyJob) : State :=
  let o := j.order
  match s.partOf (s.core o.core) with
  | some p =>
    if s.traces p 1 then
      let c := s.core o.core
      let opts := o.n + (if o.cen then 16 else 0) + (if o.dcnt then 32 else 0) + (if o.quiet then 64 else 0) + o.form * 256
      let f := j.failure.getD (0, 0, 0)
      let size := if o.form = 1 then o.len * o.rows else o.len
      let last := if kind = 4 then [f.1, f.2.1] else [0, 0]
      s.trace p (some o.core) (traceRecord kind c.rank c.ssc s.tick
        (bytesOf 8 o.src ++ bytesOf 8 (if o.form = 2 then o.src else o.dest) ++ bytesOf 8 size ++
          bytesOf 4 (jobHandle x.gen e).toNat ++ bytesOf 4 opts ++ last))
    else s
  | none => s

/-- The first write of a job takes effect: its first-byte record (R446). -/
def State.noteLanded (s : State) (pod e : Nat) : State :=
  let u := s.copyUnit pod
  let x := u.entry e
  match x.job with
  | some j => if j.landed then s else (s.setCopyUnit pod (u.setJob e { j with landed := true })).copyTrace 3 e x j
  | none => s

/-- A write that serves a copy job has taken effect. -/
def State.noteWrite (s : State) (r : Req) : State :=
  match r.client with
  | .copy pod e _ _ true => s.noteLanded pod e
  | _ => s

end Sys2Proof.Machine
end

