-- ==== Sys2Proof/Machine/Access.lean ====
section
/-! DEFINITION. Near and global requests: how they leave, what their destinations do with them, and how their responses arrive (R233, R234, R243, R245, R251 to R265, R267, R268, R271, R272, R288, R290, R303, R371, R398, R410, R426, R462). -/

namespace Sys2Proof

/-- The bytes an operation touches. -/
def ReqOp.size : ReqOp → Nat
  | .load n _ => n
  | .loadV => 64
  | .store n _ => n
  | .amo _ n _ _ _ => n
  | .putc n _ _ => n
  | .waita n _ _ => n
  | .wake _ => 8
  | .flush _ n => n
  | .capgive _ => 0
  | .reduce _ _ n _ => n

/-- The bytes an operation reads or writes at its place, which a byte budget counts: a FLUSH, a WAKE and a CAPGIVE move none (R371). -/
def ReqOp.moved (o : ReqOp) : Nat :=
  match o with
  | .wake _ => 0
  | .flush _ _ => 0
  | .capgive _ => 0
  | o => o.size

/-- Whether an operation needs the right to read: the write side of a reducing copy needs the right to write alone (R418). -/
def ReqOp.reads : ReqOp → Bool
  | .store _ _ => false
  | .putc _ _ _ => false
  | .reduce _ _ _ _ => false
  | _ => true

/-- Whether an operation writes memory. -/
def ReqOp.changes : ReqOp → Bool
  | .store _ _ | .putc _ _ _ | .amo _ _ _ _ _ | .reduce _ _ _ _ => true
  | _ => false

/-- The payload of the packet that carries an operation to its destination (R237). -/
def ReqOp.payload (o : ReqOp) : Nat :=
  match o with
  | .load _ _ => 0
  | .loadV => 0
  | .wake _ => 0
  | .flush _ _ => 0
  | .capgive _ => 0
  | o => o.size

/-- Whether an operation returns what memory holds. -/
def ReqOp.returns : ReqOp → Bool
  | .load _ _ | .loadV | .amo _ _ _ _ _ | .waita _ _ _ => true
  | _ => false

end Sys2Proof

namespace Sys2Proof.Machine

/-- A request by number. -/
def State.req (s : State) (id : Nat) : Option Req := SMap.find s.reqs id

/-- The machine with a request replaced. -/
def State.setReq (s : State) (id : Nat) (r : Req) : State := { s with reqs := SMap.put s.reqs id r }

/-- The machine without a request. -/
def State.dropReq (s : State) (id : Nat) : State := { s with reqs := SMap.erase s.reqs id }

/-- QUAL[7], set for a write (R234). -/
def Req.qual (r : Req) (q : Byte) : Byte := if r.writes then q ||| 0x80 else q

/-- The partition id that a request's packets carry (R243). -/
def State.pidFor (s : State) (r : Req) : Byte :=
  match r.client with
  | .remote _ _ pid _ => BitVec.ofNat 8 pid
  | _ => s.pidOf r.core

/-! ### Answers -/

/-- The levels of the near fabric between two cores of a super-group (R233). -/
def nearLevels (a b : Nat) : Nat := if a / 4 = b / 4 then 1 else if a / 16 = b / 16 then 3 else 5

/-- The bytes a response carries. -/
def Req.replySize (r : Req) : Nat :=
  match r.op with
  | .load n _ => n
  | .loadV => 64
  | .amo _ n _ _ _ => n
  | .waita n _ _ => n
  | _ => 0

/-- The port of the link toward a package, if it has one that is ready (R460, R468). -/
def State.linkTo (s : State) (pkg : Nat) : Option Nat :=
  let e := natBits (s.reg (0x450000 + pkg / 8 * 8)).toNat (8 * (pkg % 8) + 7) (8 * (pkg % 8))
  if e < 24 && (s.reg 0x10).getLsbD (26 + e) then some e else none

/-- The router and port of a request's place; another package is reached through the hub of its link's die (R456, R468). -/
def State.destOf (s : State) (r : Req) : Nat × Nat :=
  match s.placeOf r with
  | .remote p =>
    match s.linkTo p with
    | some port => routerOfHub (port / 3)
    | none => routerOfHub (r.core / 1024)
  | p => placeRouter (r.core / 1024) p

/-- A request answered: a near response enters 2L + 1 cycles after issue when nothing delays it, and any other response leaves as a VC2 packet after a time that the spec leaves open (R233, R238; log 21). -/
def State.answer (s : State) (id : Nat) (a : Answer) : State :=
  match s.req id with
  | none => s
  | some r =>
    let s := s.setReq id { r with stage := .answered a }
    if r.near then
      let k := (s.core r.core).clock.vec
      match s.placeOf r with
      | .slice c _ => s.postCore (k.edge (k.index s.now + nearLevels r.core c + 1)) r.core (.responseArrival id)
      | _ => s
    else
      let f := s.takeFree
      let leave := f.2.netEdgeAfter s.now + Config.latency f.1 * s.netPeriod
      let dest := s.destOf r
      let back := match r.client with | .remote port _ _ _ => routerOfHub (port / 3) | _ => (routerOfCore r.core, 0)
      f.2.inject leave dest.1 dest.2 (packetOf (.response id) 2 r.replySize (s.pidFor r) back)

/-- A request that failed (R234). -/
def State.fail (s : State) (id : Nat) (code qual : Byte) : State := s.answer id (.fail code qual)

/-! ### Memory writes and the monitors they wake -/

/-- Monitors whose word overlaps a run of bytes and now differs from its expected value respond (R263). -/
def State.wakeMonitors (s : State) (key n : Nat) : State :=
  s.reqs.foldl (fun t e =>
    match e.2.stage, e.2.op with
    | .armed k _, .waita b _ expected =>
      if k < key + n && key < k + b then
        let w := Memory.readLE t.mem k b
        if w ≠ expected then t.answer e.1 (.ok w 0) else t
      else t
    | _, _ => t) s

/-- Bytes written to memory: whole bad words are good again (R398). -/
def State.writeMem (s : State) (key n v : Nat) : State := State.healWords { s with mem := Memory.writeLE s.mem key n v } key n

/-- One write, which monitors then see (R263). -/
def State.store (s : State) (key n v : Nat) : State := (s.writeMem key n v).wakeMonitors key n

/-- Bad words whose bytes one access has written all are good again (R398). -/
def State.healAll (s : State) (xs : List (Nat × Nat × Nat)) : State :=
  let written (a : Nat) : Bool := xs.any (fun x => decide (x.1 ≤ a) && decide (a < x.1 + x.2.1))
  { s with badWords := s.badWords.filter (fun w => !(List.range 8).all (fun i => written (w + i))) }

/-- One access that writes several runs, each by its key, its size and its value: monitors see it once it is done (R263, R275). -/
def State.storeAll (s : State) (xs : List (Nat × Nat × Nat)) : State :=
  xs.foldl (fun t x => t.wakeMonitors x.1 x.2.1)
    (State.healAll { s with mem := xs.foldl (fun m x => Memory.writeLE m x.1 x.2.1 x.2.2) s.mem } xs)

/-- A device write, which the read caches of the host ports take too (R285, R290). -/
def State.deviceStore (s : State) (key n v : Nat) : State := (s.store key n v).mergeHost key n v

/-- The host port's number for a die: 0 or 1 (R462). -/
def hostPortOf (die : Nat) : Nat := die / 4

/-- A byte of host memory as a port's read cache holds it (R462). -/
def State.hostByte (s : State) (port a : Nat) : Option Nat :=
  (s.hostCache.find? (fun e => e.1 = port && e.2.1 = a / 64)).map (fun e => laneOf e.2.2.toNat 8 (a % 64))

/-- Bytes of host memory by a port's read cache, if it holds all of them. -/
def State.hostRead (s : State) (port a : Nat) : (n : Nat) → Option Nat
  | 0 => some 0
  | n + 1 =>
    match s.hostByte port a, s.hostRead port (a + 1) n with
    | some b, some r => some (b + 256 * r)
    | _, _ => none

/-- The read cache of a port with the lines of a run filled from host memory: 4 MiB of 64-byte lines, the oldest leaving first (R462). -/
def State.fillLines (s : State) (port : Nat) : (count line : Nat) → State
  | 0, _ => s
  | n + 1, line =>
    let kept := s.hostCache.filter (fun e => !(e.1 = port && e.2.1 = line))
    let mine := (kept.filter (fun e => e.1 = port)).length
    let kept := if mine < 65536 then kept else kept.eraseP (fun e => e.1 = port)
    let x := BitVec.ofNat 512 (Memory.readLE s.mem (hostKey (64 * line)) 64)
    State.fillLines { s with hostCache := kept ++ [(port, line, x)] } port n (line + 1)

/-! ### Inbox messages -/

/-- An inbox message sent to a core from a router's port, on VC3 (R238, R268). -/
def State.sendMail (s : State) (router port sender core : Nat) (pid : Byte) (m : Message) : State :=
  let id := s.nextId
  let s := { s with mail := SMap.put s.mail id ⟨core, sender, m, false⟩, nextId := id + 1 }
  s.inject (s.netEdgeAfter s.now) router port (packetOf (.message id) 3 16 pid (routerOfCore core, 0))

/-- The number under which a pod's copy unit sends messages. -/
def copySender (pod : Nat) : Nat := 32768 + pod

/-- INBOX_MESSAGE_ARRIVAL (R268): a message enters the inbox, or waits for a free entry; the messages of one sender enter in the order sent. -/
def execInboxMessageArrival (id : Nat) (s : State) : Host.Outcome State Fault Refusal :=
  match SMap.find s.mail id with
  | none => .next s
  | some m =>
    let c := s.core m.core
    let behind := s.mail.any (fun e => e.1 < id && e.2.core = m.core && e.2.sender = m.sender)
    if behind || decide (64 ≤ c.inbox.length) then .next { s with mail := SMap.put s.mail id { m with waits := true } }
    else
      let s := s.setCore m.core { c with inbox := c.inbox ++ [m.msg] }
      let s := { s with mail := SMap.erase s.mail id }
      let s := if copySender 0 ≤ m.sender && m.sender < copySender 1024 then s.kickCopy (m.sender - copySender 0) else s
      .next (s.mail.foldl (fun t e =>
        if e.2.core = m.core && e.2.sender = m.sender && e.2.waits then t.postCore t.now m.core (.inboxMessageArrival e.1) else t) s)

/-! ### Sending -/

/-- A request leaves its core's interface (R234, R237): one that fails step 1 is answered by the interface itself, at the first network edge. -/
def State.send (s : State) (id : Nat) : State :=
  match s.req id with
  | none => s
  | some r =>
    let edge := s.netEdgeAfter s.now
    let r := { r with cycles := 0 }
    if badAddress r.near r.ea then
      let a := Answer.fail (if r.near then 0x0A else 0x0C) (r.qual 0x01)
      (s.setReq id { r with stage := .answered a, sentAt := edge }).postCore edge r.core (.responseArrival id)
    else if r.near then
      let k := (s.core r.core).clock.vec
      match s.placeOf r with
      | .slice c _ =>
        (s.setReq id { r with stage := .sent, sentAt := s.now }).postCore (k.edge (k.index s.now + nearLevels r.core c + 1) - 1) c (.destinationRequest id)
      | _ => s
    else
      let vc := match r.client with | .core => 0 | _ => 1
      (s.setReq id { r with stage := .sent, sentAt := edge }).inject edge (routerOfCore r.core) 0
        (packetOf (.request id) vc r.op.payload (s.pidOf r.core) (s.destOf r))

/-- The destination classes a scope names, for a core (R276). -/
def scopeNames (core scope n : Nat) : Bool :=
  let d := core / 1024
  match scope with
  | 0 => false
  | 1 | 2 | 3 => decide (n = core / 64 % 16)
  | 4 => decide (n ≤ 15) || (decide (24 + 4 * d ≤ n) && decide (n ≤ 27 + 4 * d)) || decide (n = 56)
  | 5 => decide (n ≤ 56)
  | _ => decide (n ≤ 60)

/-- Whether a request is a write of a class that a release's scope names, not yet acknowledged (R252, R276). -/
def Req.holdsBack (w : Req) (core scope : Nat) : Bool :=
  decide (w.core = core) && w.client == .core && w.writes &&
    (match w.cls with | some n => scopeNames core scope n | none => false)

/-- TSM pruned by a release of a scope: bit n is cleared unless a write to class n issued after the release (R288). -/
def Core.prune (c : Core) (core scope seq : Nat) : Core :=
  let keep (n : Nat) : Bool := !scopeNames core scope n || decide (seq < SMap.get (fun _ => 0) c.lastWrite n)
  { c with tsm := BitVec.ofNat 64 (packLanes 1 ((List.range 64).map (fun n => if c.tsm.getLsbD n && keep n then 1 else 0))) }

/-- An access or release joins those held, oldest first (R257). -/
def State.holdBack (s : State) (id : Nat) (r : Req) (failure : Option Cause) : State :=
  let c := s.core r.core
  let seqOf (h : HeldAccess) : Nat := ((s.req h.req).map (·.seq)).getD 0
  let before := c.held.filter (fun h => decide (seqOf h < r.seq))
  let after := c.held.filter (fun h => !decide (seqOf h < r.seq))
  (s.setReq id { r with stage := .held }).setCore r.core { c with held := before ++ [⟨id, failure, r.handler⟩] ++ after }

/-- Whether two accesses touch a common byte of one space (R277, case 3). -/
def Req.overlaps (a b : Req) : Bool :=
  a.near == b.near && decide (a.ea.toNat < b.ea.toNat + b.op.size) && decide (b.ea.toNat < a.ea.toNat + a.op.size)

/-- The run of a slice that a request names, by its key and size. -/
def State.sliceRun (s : State) (r : Req) : Option (Nat × Nat) :=
  if badAddress r.near r.ea then none
  else
    match s.placeOf r with
    | .slice c off => some (sliceKey c off, r.op.size)
    | _ => none

/-- Whether two runs overlap. -/
def runsMeet (a b : Nat × Nat) : Bool := decide (a.1 < b.1 + b.2) && decide (b.1 < a.1 + a.2)

/-- Whether an earlier read of its core holds a read back: they return bytes of one slice location, and reach it by addresses of two kinds (R286; log 50). -/
def State.readsAhead (s : State) (q r : Req) : Bool :=
  q.near != r.near && q.op.returns && r.op.returns && q.awaits &&
    (match s.sliceRun q, s.sliceRun r with | some a, some b => runsMeet a b | _, _ => false)

/-- Whether an earlier access of its core holds a request back at its interface: a write of the scope of a release (R252), an access of its space to its bytes that still waits there itself or is held behind a failure (R277), or a read of its bytes (R286). -/
def State.keepsBack (s : State) (id : Nat) (q r : Req) : Bool :=
  decide (q.core = r.core) && q.client == .core && decide (q.seq < r.seq) &&
    ((match r.release with | some scope => q.holdsBack r.core scope | none => false) || s.readsAhead q r ||
      (q.overlaps r && (match q.stage with
        | .atInterface _ => true
        | .held => (s.core q.core).held.any (fun h => h.req = id && h.failure.isNone)
        | _ => false)))

/-- A request at its interface, looked at: it leaves once nothing keeps it back and the earlier drains of its core, which count as local stores, have ended (R277, R335), and it is held behind a failure that keeps it (R252, R255, R288). -/
def State.tryRelease (s : State) (id : Nat) : State :=
  match s.req id with
  | none => s
  | some r =>
    match r.stage with
    | .atInterface waits =>
      let live := waits.filter (fun w => match s.req w with | some q => s.keepsBack w q r | none => false)
      let drains := (s.core r.core).ranges.any (fun g => g.drain && r.drains.contains g.owner)
      if live.any (fun w => match s.req w with | some q => q.stage == .held | none => false) then s.holdBack id r none
      else if live.isEmpty && !drains then
        match r.release with
        | some scope => (s.setCore r.core ((s.core r.core).prune r.core scope r.seq)).send id
        | none => s.send id
      else s.setReq id { r with stage := .atInterface live }
    | _ => s

/-- Every request that a core holds at its interface is looked at again. -/
def State.postReleases (s : State) (core : Nat) : State :=
  s.reqs.foldl (fun t e =>
    match e.2.stage with
    | .atInterface _ => if e.2.core = core then t.postCore t.now core (.releaseSend e.1) else t
    | _ => t) s

/-- A request of a core issues: it takes its number, sets its TSM bit, and leaves or waits at the interface (R247, R251, R252). -/
def State.issueReq (s : State) (r : Req) : State :=
  let id := s.nextId
  let s := { s with nextId := id + 1 }
  let c := s.core r.core
  let r := { r with seq := c.reqSeq, drains := (c.ranges.filter RangeEntry.drain).map RangeEntry.owner }
  let c := { c with reqSeq := c.reqSeq + 1 }
  let c :=
    match r.writes, r.cls with
    | true, some n => { c with tsm := c.tsm ||| BitVec.ofNat 64 (2 ^ n), lastWrite := SMap.put c.lastWrite n r.seq }
    | _, _ => c
  ((s.setCore r.core c).setReq id { r with stage := .atInterface (SMap.keys s.reqs) }).tryRelease id

/-- RELEASE_SEND (R252, R277, R288): once the request has left, those that waited for it are looked at. -/
def execReleaseSend (id : Nat) (s : State) : Host.Outcome State Fault Refusal :=
  let t := s.tryRelease id
  match t.req id with
  | some r => .next (match r.stage with | .atInterface _ => t | _ => t.postReleases r.core)
  | none => .next t

/-! ### At the destination -/

/-- Whether every byte is accessible in the destination core's protection unit, as for a user-mode access (R23, R234). -/
def Core.grantsAll (c : Core) (right off : Nat) : (n : Nat) → Bool
  | 0 => true
  | n + 1 => c.accessible right off && c.grantsAll right (off + 1) n

/-- The table that holds the monitors of a place, and its size (R263). -/
def monitorTable : Place → Nat × Nat
  | .slice c _ => (c, 8)
  | .hbm va => (8192 + channelOf va, 64)
  | .window d _ => (8704 + d, 64)
  | .host _ => (8712, 0)
  | .remote _ => (8712, 0)

/-- Monitors armed in a table. -/
def State.armedIn (s : State) (table : Nat) : Nat :=
  (s.reqs.filter (fun e => match e.2.stage with | .armed _ _ => (monitorTable (s.placeOf e.2)).1 == table | _ => false)).length

/-- The word an AMO writes (R259). -/
def amoNew (opn : Nat) (old x cmp : Int) : Int :=
  match opn with
  | 0 => old + x
  | 1 => (((truncI old 64) &&& (truncI x 64) : Nat) : Int)
  | 2 => (((truncI old 64) ||| (truncI x 64) : Nat) : Int)
  | 3 => (((truncI old 64) ^^^ (truncI x 64) : Nat) : Int)
  | 4 => if old ≤ x then old else x
  | 5 => if old ≤ x then x else old
  | 6 => x
  | 7 => if old = cmp then x else old
  | _ => if 0 < old then old - 1 else old

/-- The width of a reduce element in bytes (R303). -/
def reduceWidth (rtype : Nat) : Nat := match rtype with | 0 => 4 | 1 => 2 | 2 => 4 | _ => 8

/-- One element combined: new := old ROP src, with its flags (R303). -/
def reduceOne (rop rtype old src : Nat) : Coded :=
  let n := 8 * reduceWidth rtype
  if rtype < 2 then
    let F : Fmt := if rtype = 0 then .f32 else .bf16
    let x := val F old
    let y := val F src
    let e := match rop with | 0 => fAdd .rne x y | 1 => fMinMax false x y | _ => fMinMax true x y
    let r := roundNE e.v F
    ⟨r.code, e.flags ||| r.flags⟩
  else
    let x := signExt old n
    let y := signExt src n
    ⟨truncI (match rop with | 0 => x + y | 1 => if x ≤ y then x else y | _ => if x ≤ y then y else x) n, 0⟩

/-- A counter of a core goes up by 1, modulo 2^32 (R260). -/
def State.bumpCounter (s : State) (core k : Nat) : State :=
  let c := s.core core
  s.setCore core { c with counters := c.counters.setIfInBounds k (c.counters[k]?.getD 0 + 1) }

/-- Monitors that a WAKE selects: those whose word overlaps the aligned 8 bytes, the oldest of them or all (R264). -/
def State.wakeSelect (s : State) (key : Nat) (all : Bool) : List (Nat × Nat) :=
  let hits := s.reqs.filterMap (fun e =>
    match e.2.stage, e.2.op with
    | .armed k order, .waita b _ _ => if k < key + 8 && key < k + b then some (order, e.1) else none
    | _, _ => none)
  if all then hits
  else
    match hits with
    | [] => []
    | h :: t => [t.foldl (fun m x => if x.1 < m.1 then x else m) h]

/-- The runs of host physical addresses that a run of a core's host addresses names, page by page; a page that is not mapped names none (R267, R415). -/
def State.hostRuns (s : State) (r : Req) (a n : Nat) : List (Nat × Nat) :=
  let p := Place.host a
  (List.range ((a + n - 1) / 65536 + 1 - a / 65536)).filterMap (fun i =>
    let lo := max a (65536 * (a / 65536 + i))
    let hi := min (a + n) (65536 * (a / 65536 + i + 1))
    match (s.translate (ifaceOf (r.core / 1024) p) (s.vfOf r.core) (s.partOf (s.core r.core)) (.host lo) true false).1 with
    | .ok tr => some (tr.key - hostKey 0, hi - lo)
    | .error _ => none)

/-- A request's effect once it has passed its checks, at an address key (R253 to R264, R267, R272, R303). -/
def State.effect (s : State) (id : Nat) (r : Req) (p : Place) (key : Nat) : State :=
  match r.op with
  | .load n _ => s.answer id (.ok (Memory.readLE s.mem key n) 0)
  | .loadV => s.answer id (.ok (Memory.readLE s.mem key 64) 0)
  | .store n v => ((s.deviceStore key n v).noteWrite r).answer id (.ok 0 0)
  | .putc n v k => ((s.store key n v).bumpCounter (key / 262144) k).answer id (.ok 0 0)
  | .amo opn n signed x cmp =>
    let w := Memory.readLE s.mem key n
    let old := readT w ⟨8 * n, signed⟩
    let v := truncI (amoNew opn old x cmp) (8 * n)
    let s := if v = w then s else s.store key n v
    s.answer id (.ok w 0)
  | .waita n _ expected =>
    let w := Memory.readLE s.mem key n
    let table := monitorTable p
    if w ≠ expected then s.answer id (.ok w 0)
    else if s.armedIn table.1 < table.2 then
      State.setReq { s with monitors := s.monitors + 1 } id { r with stage := .armed key s.monitors }
    else s.answer id (.ok w 2)
  | .wake all =>
    let s := (s.wakeSelect (key / 8 * 8) all).foldl (fun t h =>
      match t.req h.2 with
      | some q => t.answer h.2 (.ok (match q.stage, q.op with | .armed k _, .waita b _ _ => Memory.readLE t.mem k b | _, _ => 0) 1)
      | none => t) s
    s.answer id (.ok 0 0)
  | .flush kind n =>
    match p with
    | .host va =>
      let port := hostPortOf (r.core / 1024)
      let runs := s.hostRuns r va n
      let s :=
        if kind = 1 then s
        else { s with hostCache := s.hostCache.filter (fun e => !(e.1 = port && runs.any (fun x => decide (x.1 < 64 * e.2.1 + 64) && decide (64 * e.2.1 < x.1 + x.2)))) }
      if kind = 2 then s.answer id (.ok 0 0)
      else
        let f := s.takeFree
        (f.2.setReq id { r with stage := .atHost key }).postCore (s.netEdgeAfter s.now + Config.latency f.1 * s.netPeriod) r.core (.hostPcieCompletion id)
    | _ => s.answer id (.ok 0 0)
  | .capgive _ =>
    let f := s.takeFree
    (f.2.setReq id { r with stage := .handing key }).postCore (s.netEdgeAfter s.now + Config.latency f.1 * s.netPeriod) r.core (.capabilityHandover id)
  | .reduce rop rtype n v =>
    let w := 8 * reduceWidth rtype
    let count := n / reduceWidth rtype
    let old := lanesOf (Memory.readLE s.mem key n) w count
    let rs := (old.zip (lanesOf v w count)).map (fun e => reduceOne rop rtype e.1 e.2)
    let flags := rs.foldl (fun f c => f ||| c.flags) 0
    ((s.store key n (packLanes w (rs.map (·.code)))).noteWrite r).answer id (.ok 0 (bitsOf flags 20 16))

/-- Step 6 of R234: data that is read must be correctable, and so must a storage word that a write leaves part of (R397, R398). -/
def State.badData (s : State) (r : Req) (key : Nat) : Option Byte :=
  let n := r.op.size
  match r.op with
  | .store _ _ | .putc _ _ _ =>
    if s.badWords.any (fun w => decide (w < key + n) && decide (key < w + 8) && !(decide (key ≤ w) && decide (w + 8 ≤ key + n))) then some 0x80 else none
  | .amo _ _ _ _ _ | .reduce _ _ _ _ => if (s.badIn key n).isSome then some 0x80 else none
  | .load _ _ | .loadV | .waita _ _ _ => if (s.badIn key n).isSome then some 0x00 else none
  | _ => none

/-- Step 5 of R234 and the checks of CAPGIVE (R271, R272): the write capability of an owned granule, which a request of another package never holds (log 40). -/
def State.capability (s : State) (r : Req) (key : Nat) (leaf : Word) : Option Cause :=
  let holds (h : Nat) : Bool := match r.client with | .remote _ _ _ _ => false | _ => decide (h = (s.core r.core).rank)
  match r.op with
  | .capgive target =>
    match s.holder key leaf with
    | none => some (0x0D, 0x02)
    | some h =>
      if !holds h then some (0x0D, 0x01)
      else
        match s.launchOf r.core with
        | some (_, l) => if l.inRange target then none else some (0x0C, 0x02)
        | none => some (0x0C, 0x02)
  | _ =>
    match s.holder key leaf with
    | some h => if r.writes && !holds h then some (0x0D, 0x80) else none
    | none => none

/-- Operations that a space does not take: PUTC outside slice space, AMO and WAITA on host memory (R259, R261, R263). -/
def wrongSpace (op : ReqOp) (p : Place) : Bool :=
  match op, p with
  | .putc _ _ _, .slice _ _ => false
  | .putc _ _ _, _ => true
  | .amo _ _ _ _ _, .host _ => true
  | .waita _ _ _, .host _ => true
  | _, _ => false

/-- A flush whose range does not lie within one space (R267). -/
def Req.leavesSpace (r : Req) : Bool :=
  match r.op with
  | .flush _ n =>
    let last := r.ea.toNat + (n - 1)
    decide (last / 2 ^ 61 ≠ r.ea.toNat / 2 ^ 61) && !(decide (last / 2 ^ 62 = r.ea.toNat / 2 ^ 62) && decide (r.ea.toNat / 2 ^ 62 ≠ 2)) ||
      badAddress false (BitVec.ofNat 64 last)
  | _ => false

/-- A record of a table fault or of a stage-2 absence that an access of a function meets, in the hypervisor's or the driver's queue; `qual` is its qualifier with bit 7 (R419, R423, R458). -/
def State.translationRecord (s : State) (vf : Nat) (part : Option Nat) (ea : Word) (c : Cause) (qual : Byte) : State :=
  let payload := bytesOf 8 ea.toNat ++ bytesOf 2 vf ++ [c.1, qual]
  if (c.1 = 0x0B && c.2 = 0x02) || (c.1 = 0x0E && decide (c.2.toNat ≤ 3)) then s.hypervisorEntry 4 payload
  else if c.1 = 0x0E then
    match part with
    | some p => s.faultEntry p 4 payload
    | none => s
  else s

/-- A missing stage-1 leaf in a pager's region posts an upcall to its core for the failing access of a core, and makes the qualifier 0x01 (R426). -/
def State.upcall (s : State) (core : Nat) (ea : Word) (write : Bool) (part : Option Nat) (p : Place) (c : Cause) : Cause × State :=
  match p, part, c with
  | .hbm va, some pt, (0x0B, 0x00) =>
    match s.pagerAt pt va with
    | some g =>
      match (s.part pt).flat g.pager with
      | some target =>
        let live : Bool :=
          s.launches.any (fun e => s.runs e.2 && e.2.part == pt && e.2.inRange g.pager && !((s.core target).launch == some e.1 && (s.core target).retired))
        if live then
          let m := Message.mk 0x03 0x0B (BitVec.ofNat 16 (g.index + (if write then 256 else 0)))
            (BitVec.ofNat 32 (s.core core).rank) ea
          let at1 := placeRouter (core / 1024) p
          ((0x0B, 0x01), s.sendMail at1.1 at1.2 (16384 + channelOf va) target (s.pidOf core) m)
        else (c, s)
      | none => (c, s)
    | none => (c, s)
  | _, _, _ => (c, s)

/-- A read that misses the read cache waits for a PCIe completion, whose time is open (R462). -/
def State.toHost (s : State) (id : Nat) (r : Req) (key : Nat) : State :=
  let f := s.takeFree
  (f.2.setReq id { r with stage := .atHost key }).postCore (s.netEdgeAfter s.now + Config.latency f.1 * s.netPeriod) r.core (.hostPcieCompletion id)

/-- Whether an earlier access of its core to its bytes of host memory has still to take effect at the host port, so that an access to a key there waits behind it (R277, R286; log 50). -/
def State.hostAhead (s : State) (r : Req) (key : Nat) : Bool :=
  s.reqs.any (fun e => e.2.core = r.core && e.2.client == .core && r.client == .core && decide (e.2.seq < r.seq) &&
    (match e.2.stage with
     | .atHost k | .behind k => runsMeet (k, e.2.op.size) (key, r.op.size) || e.2.overlaps r
     | _ => false))

/-- A request to host memory: it waits behind an earlier access of its core to its bytes, and a read is served through the read cache (R267, R462). -/
def State.serveHost (s : State) (id : Nat) (r : Req) (p : Place) (key : Nat) : State :=
  let read (n : Nat) : State :=
    match s.hostRead (hostPortOf (r.core / 1024)) (key - hostKey 0) n with
    | some v => s.answer id (.ok v 0)
    | none => s.toHost id r key
  if s.hostAhead r key then s.setReq id { r with stage := .behind key }
  else
    match r.op with
    | .load n _ => read n
    | .loadV => read 64
    | _ => s.effect id r p key

/-- What a request uses of the translation tables at its destination: a near access the leaf that marks its granule, and a FLUSH the pages of its range (R267, R271, R421). -/
def State.requestUses (s : State) (r : Req) (p : Place) : List (Nat × Bool × Nat) :=
  let iface := ifaceOf (r.core / 1024) p
  let vf := s.vfOf r.core
  match r.near, p, r.op with
  | true, .slice c off, _ => s.usesGranule iface vf c off
  | _, .host a, .flush _ n => (List.range ((a + n - 1) / 65536 + 1 - a / 65536)).flatMap (fun i => s.usesOf iface vf (.host (max a (65536 * (a / 65536 + i)))))
  | _, _, _ => s.usesOf iface vf p

/-- The checks of R234 from step 3 on, and the effect or the failure of a request. -/
def State.serveReq (s : State) (id : Nat) (r : Req) (p : Place) : State :=
  let iface := ifaceOf (r.core / 1024) p
  let vf := s.vfOf r.core
  let part := s.partOf (s.core r.core)
  if !s.ready (r.core / 1024) p then s.fail id 0x18 (r.qual 0)
  else if r.near then
    match p with
    | .slice c off =>
      let n := r.op.size
      let d := s.core c
      if !((!r.op.reads || d.grantsAll 62 off n) && (!r.writes || d.grantsAll 61 off n)) then s.fail id 0x0A (r.qual 0x03)
      else
        let key := sliceKey c off
        match s.capability r key (s.granuleLeaf iface vf p 0) with
        | some e => s.fail id e.1 e.2
        | none =>
          match s.badData r key with
          | some q => s.fail id 0x0F q
          | none => s.effect id r p key
    | _ => s
  else if wrongSpace r.op p then s.fail id 0x0C (r.qual 0x08)
  else if r.leavesSpace then s.fail id 0x0C 0x01
  else
    let t := s.translate iface vf part p r.op.reads r.writes
    match t.1 with
    | .error c =>
      let u := t.2.upcall r.core r.ea r.writes part p c
      (u.2.translationRecord vf part r.ea u.1 (r.qual u.1.2)).fail id u.1.1 (r.qual u.1.2)
    | .ok tr =>
      let s := t.2
      match s.capability r tr.key (s.granuleLeaf iface vf p tr.leaf) with
      | some e => s.fail id e.1 e.2
      | none =>
        match s.badData r tr.key with
        | some q => s.fail id 0x0F q
        | none =>
          match p with
          | .host _ => s.serveHost id r p tr.key
          | _ => s.effect id r p tr.key

/-- A request served at its place, which keeps what it uses of the translation tables until its response (R234, R421). -/
def State.serve (s : State) (id : Nat) (r : Req) (p : Place) : State :=
  let r := { r with used := s.requestUses r p }
  (s.setReq id r).serveReq id r p

/-- The partition that a core's slice answers a request of another package for: the one with the request's partition id, whose running launch holds the core (R234, step 2; log 40). -/
def State.remotePart (s : State) (pid core : Nat) : Option Nat :=
  match s.launchOf core with
  | some (_, l) => if (s.part l.part).pid.toNat = pid ∧ s.runs l = true then some l.part else none
  | none => none

/-- Step 2 of R234 for a request at a core's slice. -/
def State.mayReach (s : State) (r : Req) (core : Nat) : Bool :=
  match r.client with
  | .remote _ _ pid _ => (s.remotePart pid core).isSome
  | _ => s.sharesRange r.core core

/-- The input by which a request reaches a slice: one of the butterfly's four, or the mesh port (R233; log 10). -/
def Req.input (r : Req) : Nat := if r.near then r.core % 4 else 4

/-- The request that a slice serves next, with its input: the inputs take turns, and each gives its oldest (R233). -/
def State.nextServed (s : State) (c : Nat) : Option (Nat × Nat) :=
  let d := s.core c
  (List.range 5).findSome? (fun i =>
    let k := (d.sliceTurn + 1 + i) % 5
    (d.sliceQueue.find? (fun id => (s.req id).any (fun r => r.input = k))).map (fun id => (id, k)))

/-- The effect of a request that its slice serves. -/
def State.serveAt (s : State) (id c : Nat) : State :=
  match s.req id with
  | none => s
  | some r =>
    match s.placeOf r with
    | .slice _ off => if s.mayReach r c then s.serve id r (.slice c off) else s.fail id (if r.near then 0x0A else 0x0C) (r.qual 0x02)
    | _ => s

/-- A request at a slice (R233, R234): it joins those that wait, and at the end of each vector cycle that neither the core's own accesses nor its fetches take, the slice serves one of them. -/
def State.serveSlice (s : State) (id : Nat) (c : Nat) : State :=
  let d := s.core c
  let k := d.clock.vec
  let again := k.edge (k.index s.now + 2) - 1
  if !d.sliceQueue.contains id then
    (s.setCore c { d with sliceQueue := d.sliceQueue ++ [id] }).postCore (k.after s.now - 1) c (.destinationRequest id)
  else if s.now < max d.sliceFree d.fetchFree then s.postCore again c (.destinationRequest id)
  else
    match s.nextServed c with
    | none => s
    | some (h, turn) =>
      let s := s.setCore c { d with sliceQueue := d.sliceQueue.filter (fun x => x != h && (s.req x).isSome), sliceFree := k.after s.now, sliceTurn := turn }
      let s := if h = id then s else s.postCore again c (.destinationRequest id)
      s.serveAt h c

/-- The machine with the counts of a budget interval that has ended set back (R371). -/
def State.budgetRefresh (s : State) : State :=
  let epoch := s.now / (1000 * tickUnits)
  if epoch = s.budgetEpoch then s else { s with budgetEpoch := epoch, budgetUsed := [] }

/-- Whether requests of a partition wait at a stack for the next interval already, so that any later one waits behind them (R371). -/
def State.budgetQueue (s : State) (part : Option Nat) (stack : Nat) : Bool :=
  s.budgetHeld.any (fun id => (s.req id).any (fun r => s.partOf (s.core r.core) == part &&
    (match s.placeOf r with | .hbm va => decide (channelOf va / 32 = stack) | _ => false)))

/-- Whether a stack admits a request of a partition, and the machine with its bytes counted (R371). -/
def State.budgetAdmits (s : State) (part : Option Nat) (stack bytes : Nat) : Bool × State :=
  match part with
  | none => (true, s)
  | some p =>
    let limit := bitsOf (s.page p 0x18) 31 0 * 4096
    let s := s.budgetRefresh
    let k := 128 * stack + p
    let used := SMap.get (fun _ => 0) s.budgetUsed k
    if (limit ≠ 0 && decide (limit ≤ used)) || s.budgetQueue part stack then (false, s)
    else (true, { s with budgetUsed := SMap.set (fun _ => 0) s.budgetUsed k (used + bytes) })

/-- The VC and the payload of a transaction: requests go on VC0 and answers on VC2, as within a package (R237, R238, R467). -/
def linkVc (m : LinkMsg) : Nat × Nat :=
  match m with
  | .request _ _ _ _ op => (0, op.payload)
  | .withdraw _ _ _ => (0, 0)
  | .response _ _ _ _ => (2, 64)
  | .freed _ _ | .failure _ _ _ _ => (2, 0)

/-- A transaction put on a link's port: its flits stand in the port's replay buffer (R467). -/
def State.putLink (s : State) (port : Nat) (m : LinkMsg) : State :=
  { s with linkOut := s.linkOut ++ [⟨port, (linkVc m).1, flitsOf (linkVc m).2, m⟩] }

/-- A request for another package: out through its link's port with a timeout, or failed at once (R410, R468, R469). -/
def State.toLink (s : State) (id : Nat) (r : Req) (pkg : Nat) : State :=
  match s.linkTo pkg with
  | none => s.fail id 0x1D (r.qual 0x00)
  | some port =>
    let limit := max 0x1000 (s.reg (0x452000 + 64 * port)).toNat
    let m := LinkMsg.request s.pkg (s.pidFor r).toNat id r.ea r.op
    ((s.setReq id { r with stage := .onLink s.now }).putLink port m).postCore (s.now + limit * tickUnits) r.core (.linkTimeout id)

/-- The time at which the present interval of the budgets ends (R371). -/
def State.intervalEnd (s : State) : Nat := (s.now / (1000 * tickUnits) + 1) * (1000 * tickUnits)

/-- A request at an HBM stack: it is served, or it waits in the stack's queue of its partition for the next interval (R371). -/
def State.atStack (s : State) (id : Nat) (r : Req) (va : Nat) : State :=
  let b := s.budgetAdmits (s.partOf (s.core r.core)) (channelOf va / 32) r.op.moved
  if b.1 then b.2.serve id r (.hbm va)
  else State.postOnce { b.2 with budgetHeld := b.2.budgetHeld ++ [id] } b.2.intervalEnd 0 .budgetInterval

/-- DESTINATION_REQUEST (R234): a request at its destination is checked, takes effect in one step, and is answered. -/
def execDestinationRequest (id : Nat) (s : State) : Host.Outcome State Fault Refusal :=
  match s.req id with
  | none => .next s
  | some r =>
    if r.stage != .sent || s.budgetHeld.contains id then .next s
    else if s.drops (s.pidFor r) then .next (s.dropReq id)
    else
      match s.placeOf r with
      | .slice c _ => .next (s.serveSlice id c)
      | .remote pkg => .next (s.toLink id r pkg)
      | .hbm va => .next (s.atStack id r va)
      | p => .next (s.serve id r p)

/-- A request that waited at a stack comes before its arbiter again; one of a partition in reset is dropped (R243, R371). -/
def State.retryStack (s : State) (id : Nat) : State :=
  match s.req id with
  | none => s
  | some r =>
    if s.drops (s.pidFor r) then s.dropReq id
    else match s.placeOf r with | .hbm va => s.atStack id r va | _ => s

/-- BUDGET_INTERVAL (R371): the counts are set back, and the requests that waited are served in their order, as far as the new interval admits them; the others wait on, in that order. -/
def execBudgetInterval (s : State) : Host.Outcome State Fault Refusal :=
  .next (s.budgetHeld.foldl State.retryStack (State.budgetRefresh { s with budgetHeld := [] }))

/-- The accesses of a core that wait at a host port, looked at in their order: one that nothing precedes any more takes effect there (R277, R286, R290). -/
def State.freeBehind (s : State) (core : Nat) : State :=
  s.reqs.foldl (fun t e =>
    match e.2.stage with
    | .behind _ => if e.2.core = core then t.serve e.1 e.2 (t.placeOf e.2) else t
    | _ => t) s

/-- HOST_PCIE_COMPLETION (R462, R267): host memory has answered, the read cache is filled, and the request is answered. -/
def execHostPcieCompletion (id : Nat) (s : State) : Host.Outcome State Fault Refusal :=
  match s.req id with
  | none => .next s
  | some r =>
    match r.stage, r.op with
    | .atHost _, .flush _ _ => .next ((s.answer id (.ok 0 0)).freeBehind r.core)
    | .atHost key, o =>
      let port := hostPortOf (r.core / 1024)
      let a := key - hostKey 0
      let n := o.size
      let s := s.fillLines port ((a + n - 1) / 64 + 1 - a / 64) (a / 64)
      .next ((s.answer id (.ok ((s.hostRead port a n).getD 0) 0)).freeBehind r.core)
    | _, _ => .next s

/-- CAPABILITY_HANDOVER (R272): at one instant the holder changes, the giver is answered, and the target is told. -/
def execCapabilityHandover (id : Nat) (s : State) : Host.Outcome State Fault Refusal :=
  match s.req id with
  | none => .next s
  | some r =>
    match r.op, r.stage with
    | .capgive target, .handing key =>
      let s := { s with holders := SMap.put s.holders (key / 2 ^ 16) target }
      let at1 := placeRouter (r.core / 1024) (s.placeOf r)
      let taker := ((s.partOf (s.core r.core)).bind (fun pt => (s.part pt).flat target)).getD r.core
      let base := r.ea &&& ~~~(0xFFFF : Word)
      let m := Message.mk 0x04 0 0 (BitVec.ofNat 32 (s.core r.core).rank) base
      .next ((s.sendMail at1.1 at1.2 r.core taker (s.pidOf r.core) m).answer id (.ok 0 0))
    | _, _ => .next s

/-! ### Responses -/

/-- DLY: network cycles from the request's leaving to the response's entering, saturating (R245). -/
def State.delayOf (s : State) (r : Req) : Nat := min 0xFFFF (r.cycles + (s.net.index s.now - s.net.index r.sentAt))

/-- A word of an account with one more response (R245). -/
def countResponse (a : Word) (dly : Nat) : Word :=
  BitVec.ofNat 64 (min 0xFFFF (bitsOf a 63 48 + 1) * 2 ^ 48 + min (2 ^ 48 - 1) (bitsOf a 47 0 + dly))

/-- A response counted in an account at a time; the ones of that time are kept apart, for an LACCZ of the same cycle (R245, R246, R273). -/
def Core.account (c : Core) (now : Nat) (cls : Option Nat) (dly : Nat) : Core :=
  let idx := if c.lacci.getLsbD 8 then some (bitsOf c.lacci 5 0) else cls
  match idx with
  | none => c
  | some i =>
    let a := c.accounts[i]?.getD 0
    { c with accounts := c.accounts.setIfInBounds i (countResponse a dly), fresh := c.fresh.filter (fun e => e.1 = now) ++ [(now, i, a, dly)] }

/-- What a successful response writes (R253, R254, R259, R263). -/
def Req.results (r : Req) (value status : Nat) : List Dest :=
  match r.op with
  | .load n signed => [.gen r.dst (writeT (readT value ⟨8 * n, signed⟩) ⟨8 * n, signed⟩)]
  | .loadV => match r.vec with | some v => [.vec v (BitVec.ofNat 512 value)] | none => []
  | .amo _ n signed _ _ => [.gen r.dst (writeT (readT value ⟨8 * n, signed⟩) ⟨8 * n, signed⟩)]
  | .waita n signed _ => [.gen r.dst (writeT (readT value ⟨8 * n, signed⟩) ⟨8 * n, signed⟩), .gen r.dst2 (BitVec.ofNat 64 status)]
  | _ => []

/-- A pending result written and released (R51). -/
def Core.finishVar (c : Core) (k : Nat) (ds : List Dest) : Core :=
  let c := ds.foldl Core.apply c
  { c with var := c.var.filter (fun v => v.id != k) }

/-- A sleeping core whose instruction has completed goes on at the first edge of its clock. -/
def State.awaken (s : State) (core : Nat) : State :=
  let k := (s.core core).clock.pipe
  s.complete core (k.ceil s.now - k.period) (s.lastHead core)

/-- The response of a core's request enters its interface (R245, R255, R258). -/
def State.coreResponse (s : State) (id : Nat) (r : Req) (a : Answer) : State :=
  let c := (s.core r.core).account s.now r.cls (s.delayOf r)
  let s :=
    match a with
    | .ok value status =>
      let c := match r.result with | some k => c.finishVar k (r.results value status) | none => c
      (s.setCore r.core c).dropReq id
    | .fail code qual => (s.setCore r.core c).holdBack id r (some (code, qual))
  let s := match (s.core r.core).run with | .sleeping (.waita k _) => if k = id then s.awaken r.core else s | _ => s
  s.postReleases r.core

/-- RESPONSE_ARRIVAL (R245): a response enters the interface that sent its request. -/
def execResponseArrival (id : Nat) (s : State) : Host.Outcome State Fault Refusal :=
  match s.req id with
  | none => .next s
  | some r =>
    match r.stage with
    | .answered a =>
      match r.client with
      | .core => .next (s.coreResponse id r a)
      | .copy pod entry piece _ _ =>
        -- a write of another package's slice is known to have taken effect by its response (R446; log 34)
        let s := match s.placeOf r, a with | .remote _, .ok _ _ => s.noteWrite r | _, _ => s
        .next ((s.setReq id { r with stage := .returned a }).postCore s.now r.core (.copyPieceWrite pod entry piece))
      | .operand pod cmd _ =>
        let i : Instr := match r.op with | .store _ _ => .mstoreComplete pod cmd | _ => .mloadComplete pod cmd
        .next ((s.setReq id { r with stage := .returned a }).postCore s.now r.core i)
      | .remote port pkg _ req =>
        let m : LinkMsg := match a with | .ok value status => .response pkg req value status | .fail code qual => .failure pkg req code qual
        .next ((s.dropReq id).putLink port m)
    | _ => .next s

/-- A WAITA whose entry has been freed: its registers leave the scoreboard, and the core stands at it again, where its interrupt or its stop finds it (R265, R407). -/
def State.endWaita (s : State) (n id : Nat) (r : Req) : State :=
  let c := s.core n
  let run : RunState := if s.forcedStop n then .stopped .withdrawn else .running
  (s.dropReq id).setCore n { c with var := c.var.filter (fun v => some v.id != r.result), run := run }

/-- The WAITA that a core sleeps in with its withdrawal on its way, and its request. -/
def State.withdrawing (s : State) (n : Nat) : Option (Nat × Req) :=
  match (s.core n).run with
  | .sleeping (.waita id _) => ((s.req id).filter (·.withdrawn)).map (fun r => (id, r))
  | _ => none

/-- WAITA_WITHDRAWAL (R265): a withdrawal reaches its destination. An entry still armed is freed, so that the interrupt is entered at the WAITA; one that has responded completes instead; and one of another package is withdrawn over its link. -/
def execWaitaWithdrawal (s : State) : Host.Outcome State Fault Refusal :=
  match s.withdrawing s.cur with
  | none => .next s
  | some (id, r) =>
    match r.stage with
    | .armed _ _ | .sent => .next (s.endWaita s.cur id r)
    | .onLink _ =>
      match s.placeOf r with
      | .remote p => .next (match s.linkTo p with | some port => s.putLink port (.withdraw s.pkg id r.ea) | none => s)
      | _ => .next s
    | _ => .next s

/-- VAR_RESULT_ARRIVAL (R51): a variable-latency result that is due is written and released. -/
def execVarResultArrival (core k : Nat) (s : State) : Host.Outcome State Fault Refusal :=
  let c := s.core core
  match c.var.find? (fun v => v.id = k && v.arrived s.now) with
  | some v => .next (s.setCore core ((c.settle s.now).finishVar k v.writes))
  | none => .next s

/-- LINK_TIMEOUT (R410): a request on a link has no response in time. -/
def execLinkTimeout (id : Nat) (s : State) : Host.Outcome State Fault Refusal :=
  match s.req id with
  | none => .next s
  | some r =>
    match r.stage with
    | .onLink _ => .next (s.fail id 0x1D (r.qual 0x01))
    | _ => .next s

/-- RETT replays every access the core holds, oldest first, as new requests (R257, R258). -/
def State.replay (s : State) (n : Nat) : State :=
  let c := s.core n
  let kept := c.held.filterMap (fun h => (s.req h.req).map (fun r => (h.req, r)))
  let s := kept.foldl (fun t e => t.dropReq e.1) (s.setCore n { c with held := [], reported := none, mfr := 0 })
  kept.foldl (fun t e =>
    let d := t.core n
    let moved := d.var.map (fun v => if v.source = .req e.1 then { v with source := .req t.nextId } else v)
    (t.setCore n { d with var := moved }).issueReq { e.2 with withdrawn := false }) s

/-- The reported access is discarded: its registers take 0 and leave the scoreboard (R257). -/
def State.discardReported (s : State) (n : Nat) : State :=
  let c := s.core n
  match c.reported with
  | none => s
  | some id =>
    let c := match (s.req id).bind (·.result) with
      | some k =>
        match (s.req id) with
        | some r => c.finishVar k ([Dest.gen r.dst 0, Dest.gen r.dst2 0] ++ (match r.vec with | some v => [Dest.vec v 0] | none => []))
        | none => c
      | none => c
    (s.setCore n { c with held := c.held.filter (fun h => h.req != id), reported := none, mfr := 0 }).dropReq id

end Sys2Proof.Machine
end

