-- ==== Sys2Proof/Machine/Exchange.lean ====
section
/-! DEFINITION. The exchange fabric: class 0x9 and the arrival of its words (R219 to R223). -/

namespace Sys2Proof.Machine

/-- The distance of two numbers. -/
def absDiff (a b : Nat) : Nat := (a - b) + (b - a)

/-- D(a, b) in network cycles, by super-groups of one die (R219). -/
def exchangeDelay (a b : Nat) : Nat := 6 + 2 * (absDiff (a % 4) (b % 4) + absDiff (a / 4) (b / 4))

/-- The flat numbers of the cores a route names, for a core (R219). -/
def Core.routeTargets (c : Core) (core : Nat) : List Nat :=
  ((List.range 64).filter (fun i => c.routeMask.getLsbD i)).map (fun i => core / 1024 * 1024 + 64 * c.routeSg.toNat + i)

/-- SEND: b and f[3] zero (R221). -/
def sigSend : Sig where
  op := 0x900
  roles := fun _ => { a := .gr }
  reserved := fun o => o.b != 0 || o.f.getLsbD 3

/-- A word put on its way to one core (R220). -/
def State.sendWord (s : State) (x : Word) (slot target : Nat) : State :=
  let d := exchangeDelay (s.cur / 64 % 16) (target / 64 % 16)
  let due := s.now + d * s.netPeriod
  let id := s.nextId
  State.postCore { s with xwords := SMap.put s.xwords id ⟨s.cur, target, slot, x, due⟩, nextId := id + 1 } due target (.exchangeWordArrival id)

/-- SEND (R221). -/
def execSend (t : TailH) (s : State) : Host.Outcome State Fault Refusal :=
  issue sigSend (opndH t) s fun o s =>
    let c := s.cc
    .done ((c.routeTargets s.cur).foldl (fun s target => s.sendWord (c.readG o.a) (o.f.toNat % 8) target) s)

/-- EXCHANGE_WORD_ARRIVAL (R220): a later word replaces a slot's word, and of two on one edge the one from the lower exchange number stands. -/
def execExchangeWordArrival (word : Nat) (s : State) : Host.Outcome State Fault Refusal :=
  match SMap.find s.xwords word with
  | none => .next s
  | some w =>
    let s := { s with xwords := SMap.erase s.xwords word }
    let c := s.core w.target
    let old := c.slots[w.slot]?.getD XSlot.empty
    let from1 := w.sender % 1024
    if old.arrival = w.arrival ∧ old.sender < from1 then .next s
    else .next (s.setCore w.target { c with slots := c.slots.setIfInBounds w.slot ⟨w.value, w.arrival, from1⟩ })

/-- The super-group that a MUXSEL of the core in turn names (R222). -/
def State.muxTarget (s : State) (o : Opnd) : Int := ((s.cur / 64 % 16 : Nat) : Int) + signExt o.imm.toNat 20

/-- The exchange misuse of a MUXSEL of the core in turn, which stands as `c` (R218, R222). -/
def State.muxMisuse (s : State) (c : Core) (o : Opnd) : Option Raise :=
  let target := s.muxTarget o
  if target < 0 ∨ 15 < target then some ⟨0x12, 0x02, wordOf target⟩
  else
    let sg := target.toNat
    let base := s.cur / 1024 * 1024 + 64 * sg
    ((List.range 64).find? (fun i => (c.readG o.a).getLsbD i && !s.sharesRange s.cur (base + i))).map
      (fun i => ⟨0x12, 0x03, BitVec.ofNat 64 (64 * sg + i)⟩)

/-- MUXSEL: d zero (R222). -/
def sigMuxsel : Sig where
  op := 0x901
  roles := fun _ => { a := .gr }
  reserved := fun o => o.d != 0
  misuses := fun s c o => (s.muxMisuse c o).isSome

/-- MUXSEL (R222). -/
def execMuxsel (t : TailI) (s : State) : Host.Outcome State Fault Refusal :=
  issue sigMuxsel (opndI t) s fun o s =>
    let c := s.cc
    match s.muxMisuse c o with
    | some r => .fault r
    | none => .done (s.setCc { c with routeSg := BitVec.ofNat 4 (s.muxTarget o).toNat, routeMask := c.readG o.a })

/-- Slot(self, j, E) (R220): slots are cleared when a phase opens, so a slot holds what the phase has received. -/
def Core.slotWord (c : Core) (j : Nat) : Word := (c.slots[j]?.getD XSlot.empty).value

/-- RECV: a and imm20[19:3] zero (R223). -/
def sigRecv : Sig where
  op := 0x902
  lat := 1
  roles := fun _ => { d := .gw }
  reserved := fun o => o.a != 0 || decide (8 ≤ o.imm.toNat)

/-- RECV (R223). -/
def execRecv (t : TailI) (s : State) : Host.Outcome State Fault Refusal :=
  issue sigRecv (opndI t) s fun o s => .done (s.putG o.d (s.cc.slotWord (o.imm.toNat % 8)) 1)

/-- RECVM: a and imm20[19:6] zero (R223). -/
def sigRecvm : Sig where
  op := 0x903
  lat := 1
  roles := fun _ => { d := .vrw }
  reserved := fun o => o.a != 0 || decide (64 ≤ o.imm.toNat)

/-- RECVM (R223): lane i takes the word of slot j, and the other lanes are kept. -/
def execRecvm (t : TailI) (s : State) : Host.Outcome State Fault Refusal :=
  issue sigRecvm (opndI t) s fun o s =>
    .done (s.after 1 [.lane o.d.toNat (o.imm.toNat % 8) (s.cc.slotWord (o.imm.toNat / 8 % 8))])

end Sys2Proof.Machine
end

