-- ==== Sys2Proof/Machine/Control.lean ====
section
/-! DEFINITION. Transfers, loops, repetition, prefixes and traps of class 0x0 (R106 to R123, R192, R442). -/

namespace Sys2Proof.Machine

/-! ### Transfers (R44, R45, R107) -/

/-- A target by a displacement in halfwords from the base of the instruction's line (R44). -/
def Core.lineTarget (c : Core) (imm width : Nat) : LAddr :=
  BitVec.ofInt 18 ((c.pc.toNat / 64 * 64 : Nat) + 2 * signExt imm width)

/-- The bad-target fault (R45). -/
def badTargetFault (t : Word) : Result := .fault ⟨0x01, 0x04, t⟩

/-- A target in a general register: bits [63:18] must be clear (R44). -/
def State.registerTarget (s : State) (o : Opnd) : Except Word LAddr :=
  let x := s.cc.readG o.a
  if decide (2 ^ 18 ≤ x.toNat) || s.badTarget s.cur (x.setWidth 18) then .error x else .ok (x.setWidth 18)

/-- A displaced target that passes R45, or the bad one. -/
def State.displacedTarget (s : State) (imm width : Nat) : Except Word LAddr :=
  let t := s.cc.lineTarget imm width
  if s.badTarget s.cur t then .error (t.setWidth 64) else .ok t

/-- J and CALL: d and a zero (R106). -/
def sigJump (op : Opcode) (userOnly : Bool) : Sig where
  op := op
  reserved := fun o => o.d != 0 || o.a != 0
  wrongMode := fun c _ => userOnly && c.hm

/-- JR and CALLR: b and f zero (R106). -/
def sigJumpReg (op : Opcode) (userOnly : Bool) : Sig where
  op := op
  roles := fun _ => { a := .gr }
  reserved := fun o => o.b != 0 || o.f != 0
  wrongMode := fun c _ => userOnly && c.hm

/-- The jump of J and JR (R107). -/
def jumpTo (s : State) : Except Word LAddr → Result
  | .error x => badTargetFault x
  | .ok t => .jump s t

/-- The call of CALL and CALLR: the spill traps, then the pushed return address and the moved window (R15, R17, R107). -/
def callTo (s : State) : Except Word LAddr → Result
  | .error x => badTargetFault x
  | .ok t =>
    let c := s.cc
    if c.res = 5 then .fault ⟨0x03, 0, BitVec.ofNat 64 ((c.slot.toNat + 48) % 176)⟩
    else if 16 ≤ c.ras.length then .fault ⟨0x05, 0, 0⟩
    else
      .jump (s.setCc { c with
        ras := seqNext c.pc (s.lastHead s.cur) :: c.ras
        slot := BitVec.ofNat 8 ((c.slot.toNat + 32) % 176)
        res := c.res + 1 }) t

/-- J (R107). -/
def execJ (t : TailI) (s : State) : Host.Outcome State Fault Refusal :=
  issue (sigJump 0x001 false) (opndI t) s fun o s => jumpTo s (s.displacedTarget o.imm.toNat 20)

/-- JR (R107). -/
def execJr (t : TailH) (s : State) : Host.Outcome State Fault Refusal :=
  issue (sigJumpReg 0x002 false) (opndH t) s fun o s => jumpTo s (s.registerTarget o)

/-- CALL (R107). -/
def execCall (t : TailI) (s : State) : Host.Outcome State Fault Refusal :=
  issue (sigJump 0x003 true) (opndI t) s fun o s => callTo s (s.displacedTarget o.imm.toNat 20)

/-- CALLR (R107). -/
def execCallr (t : TailH) (s : State) : Host.Outcome State Fault Refusal :=
  issue (sigJumpReg 0x004 true) (opndH t) s fun o s => callTo s (s.registerTarget o)

/-- An instruction of form Z that is refused in a mode (R69). -/
def sigZ (op : Opcode) (bad : Core → Bool) : Sig where
  op := op
  wrongMode := fun c _ => bad c

/-- RET (R15, R17, R107). -/
def execRet (s : State) : Host.Outcome State Fault Refusal :=
  issue (sigZ 0x005 Core.hm) noOpnd s fun _ s =>
    let c := s.cc
    match c.ras with
    | [] => if 0 < c.rasSaved.toNat then .fault ⟨0x06, 0, 0⟩ else .fault ⟨0x07, 0, 0⟩
    | t :: rest =>
      if c.res = 1 then .fault ⟨0x04, 0, BitVec.ofNat 64 ((c.slot.toNat + 144) % 176)⟩
      else if s.badTarget s.cur t then badTargetFault (t.setWidth 64)
      else .jump (s.setCc { c with ras := rest, slot := BitVec.ofNat 8 ((c.slot.toNat + 144) % 176), res := c.res - 1 }) t

/-! ### Loops and repetition (R108, R111) -/

/-- LOOP: d is the level, b is zero (R108). -/
def sigLoop : Sig where
  op := 0x006
  roles := fun _ => { a := .gr }
  reserved := fun o => o.b != 0
  refuses := fun _ o => decide (2 ≤ o.d.toNat)
  wrongMode := fun c _ => c.hm

/-- LOOP (R108): one whose count is not 0 applies the loop-end rule at its completion, and a squashed one makes no check of its end, which is formed from PC and so is taken as no field of the encoding (R25; log 17). -/
def execLoop (t : TailL) (s : State) : Host.Outcome State Fault Refusal :=
  issue sigLoop (opndL t) s fun o s =>
    let c := s.cc
    let e := c.lineTarget o.imm.toNat 30
    let start := seqNext c.pc (s.lastHead s.cur)
    if s.badTarget s.cur e then badTargetFault (e.setWidth 64)
    else if e.toNat < start.toNat then .fault ⟨0x01, 0x03, e.setWidth 64⟩
    else
      let n := (c.readG o.a).setWidth 32
      if n = 0 then .move s (s.seqNextAt s.cur e)
      else if o.d = 0 then .done (s.setCc { c with lc0 := n, ls0 := start, le0 := e })
      else .done (s.setCc { c with lc1 := n, ls1 := start, le1 := e })

/-- REP: a[5:4] and imm20[19] zero (R111). -/
def sigRep : Sig where
  op := 0x007
  reserved := fun o => decide (16 ≤ o.a.toNat) || o.imm.getLsbD 19
  wrongMode := fun c _ => c.hm

/-- REP (R111): one whose COUNT is not 0 goes to its body without the loop-end rule (log 17). -/
def execRep (t : TailI) (s : State) : Host.Outcome State Fault Refusal :=
  issue sigRep (opndI t) s fun o s =>
    let c := s.cc
    let base := seqNext c.pc (s.lastHead s.cur)
    let len := o.imm.toNat % 8
    let count := o.imm.toNat / 8 % 2 ^ 16
    if count = 0 then
      match s.stepOver s.cur (len + 1) base with
      | .ok p => .move s p
      | .error p => .fault ⟨0x01, 0x05, BitVec.ofNat 64 (p.toNat / 64 * 64)⟩
    else
      let reps := count * 2 ^ 48 + o.a.toNat % 16 * 2 ^ 44 + o.d.toNat * 2 ^ 38 + len * 2 ^ 32 + base.toNat
      .move (s.setCc { c with reps := BitVec.ofNat 64 reps }) base

/-! ### Traps, returns and stops (R117 to R123) -/

/-- TRAP: d, a and imm20[19:8] zero (R121). -/
def sigTrap : Sig where
  op := 0x008
  reserved := fun o => o.d != 0 || o.a != 0 || decide (256 ≤ o.imm.toNat)
  wrongMode := fun c _ => c.hm

/-- TRAP (R110, R121). -/
def execTrap (t : TailI) (s : State) : Host.Outcome State Fault Refusal :=
  issue sigTrap (opndI t) s fun o s => .trap s ⟨0x17, o.imm.setWidth 8, 0⟩

/-- RETT (R120, R257): the return, and the replay of every access the core holds. -/
def execRett (s : State) : Host.Outcome State Fault Refusal :=
  issue (sigZ 0x009 (fun c => !c.hm)) noOpnd s fun _ s =>
    let t := s.cc.epc
    if s.badTarget s.cur t then badTargetFault (t.setWidth 64)
    else .own ((s.returnTo s.cur s.now t).replay s.cur)

/-- HALT (R123, R192): the core has written every result, its profile is written, and it issues nothing further. -/
def execHalt (s : State) : Host.Outcome State Fault Refusal :=
  issue { sigZ 0x00A (fun _ => false) with waitsAll := true } noOpnd s fun _ s =>
    let c := s.cc.issued s.now
    .own (((s.setCc { c with run := .halted, tsm := 0 }).profile s.cur).noteRetired s.cur)

/-- ISYNC (R123): earlier stores have taken effect, and the next line is fetched anew. -/
def execIsync (s : State) : Host.Outcome State Fault Refusal :=
  issue (sigZ 0x00B (fun _ => false)) noOpnd s fun _ s => if s.ownWrites s.cur then .wait else .fresh s

/-- NOP (R123). -/
def execNop (s : State) : Host.Outcome State Fault Refusal :=
  issue (sigZ 0x000 (fun _ => false)) noOpnd s fun _ s => .done s

/-- DBGCTL.BKS of the core's partition (R441). -/
def State.breakStops (s : State) : Bool :=
  match s.partOf s.cc with
  | some p => (s.page p 0x08).getLsbD 0
  | none => false

/-- BKPT (R121, R442). -/
def execBkpt (s : State) : Host.Outcome State Fault Refusal :=
  issue (sigZ 0x010 Core.hm) noOpnd s fun _ s => if s.breakStops then .stopped else .fault ⟨0x16, 0, 0⟩

/-! ### Prefixes (R26, R115, R116) -/

/-- A core in which a prefix has issued: it is pending, and the run began at it or earlier (R26, R27). -/
def Core.prefixed (c : Core) (kind : Nat) (epfx : Word) (p : LAddr) : Core :=
  { c with
    stat := setBits c.stat 2 0 (((if c.pp then bitsOf c.stat 2 1 else 0) ||| kind) * 2 + 1)
    epfx := epfx
    runStart := match c.runStart with | some (q, k) => some (q, k + 1) | none => some (p, 1) }

/-- EPFX as a prefix finds it: a field whose prefix is not pending is zero (R26). -/
def Core.payloads (c : Core) : Word := if c.pp then c.epfx else 0

/-- A prefix issues: the instruction after it comes next, and its payload waits for the target (R25, R26). -/
def prefixIssued (kind : Nat) (pay : Core → Word) (s : State) : Result :=
  let c := s.cc
  let s' := s.complete s.cur s.now (s.lastHead s.cur)
  let d := s'.cc
  .own (s'.setCc ({ d with stat := setBits d.stat 2 0 (bitsOf c.stat 2 0), runStart := c.runStart }.prefixed kind (pay c) c.pc))

/-- GD: a names the guard register, f[3:1] is zero (R115). -/
def sigGd : Sig where
  op := opGD
  roles := fun _ => { a := .gname }
  reserved := fun o => decide (2 ≤ o.f.toNat)

/-- GD (R115): its payload is its tail as issued. -/
def execGd (t : TailH) (s : State) : Host.Outcome State Fault Refusal :=
  issue sigGd (opndH t) s fun o s =>
    prefixIssued 1 (fun c => setBits c.payloads 15 0 (o.a.toNat + o.b.toNat * 64 + o.f.toNat * 4096)) s

/-- FMT: every field has its use; c[5] is reserved, and BF names a vector register with RND = SR (R126). -/
def sigFmt : Sig where
  op := opFMT
  reserved := fun o => o.c.getLsbD 5
  noVector := fun o => o.c.toNat % 8 = 5 && decide (32 ≤ o.b.toNat)

/-- FMT (R116): its payload is its tail as encoded. -/
def execFmt (t : TailW) (s : State) : Host.Outcome State Fault Refusal :=
  issue sigFmt (opndW t) s fun _ s => prefixIssued 2 (fun c => setBits c.payloads 63 32 t.toBits.toNat) s

end Sys2Proof.Machine
end

