-- ==== Sys2Proof/Machine/GlobalMem.lean ====
section
/-! DEFINITION. Near, global and synchronising memory instructions: class 0x4 (R249 to R269, R272, R276, R288). -/

namespace Sys2Proof.Machine

/-- SCOPE of an m field (R249). -/
def Opnd.scope (o : Opnd) : Nat := o.m.toNat / 32

/-- ORD of an m field (R249). -/
def Opnd.ord (o : Opnd) : Nat := o.m.toNat / 8 % 4

/-- An ORD that an instruction does not accept, a SCOPE of 7, or a SCOPE without an ORD (R249). -/
def badOrder (accepts : List Nat) (o : Opnd) : Bool :=
  !accepts.contains o.ord || o.scope == 7 || (o.ord == 0 && o.scope != 0)

/-- The types of atomics and waits: .i32, .n32, .i64, .n64 (R259, R263). -/
def wordType (o : Opnd) : Bool := decide (2 ≤ o.m.toNat % 4)

/-- Whether an ORD acquires (R249). -/
def Opnd.acquires (o : Opnd) : Bool := o.ord % 2 = 1

/-- The scope of an ORD that releases (R249). -/
def Opnd.releases (o : Opnd) : Option Nat := if 2 ≤ o.ord then some o.scope else none

/-- The request that an instruction of the core in turn makes (R249 to R251, R256, R258). -/
def State.newReq (s : State) (g : Sig) (o : Opnd) (near : Bool) (op : ReqOp) (writes : Bool) : Req :=
  let c := s.cc
  let ea := c.eaD o
  let p := if near then nearPlace s.cur ea else globalPlace s.pkg ea
  { core := s.cur, client := .core, seq := 0, op := op, near := near, ea := ea
    acquire := o.acquires, release := o.releases, blocks := false, handler := c.hm
    result := none, dst := none, dst2 := none, vec := none, reg := o.d, opc := opFn g.op
    cls := if badAddress near ea then none else some (classOf s.cur p)
    writes := writes, sentAt := 0, cycles := 0, stage := .sent, withdrawn := false }

/-- The misaligned fault of an access, if it is not aligned to its size (R250). -/
def misaligned (ea : Word) (size : Nat) : Option Raise := if ea.toNat % size ≠ 0 then some ⟨0x08, 0, ea⟩ else none

/-- A request without a result issues: not misaligned, and not the 33rd (R250, R251). -/
def State.post1 (s : State) (r : Req) (align : Nat) : Result :=
  match misaligned r.ea align with
  | some f => .fault f
  | none => if 32 ≤ s.outstanding s.cur then .wait else .done (s.issueReq r)

/-- A request whose response writes registers issues: its result is pending from now on (R51, R250, R251). -/
def State.post2 (s : State) (r : Req) (align : Nat) (gens : List Field) (vecs : List Nat) (after : State → Nat → Result) : Result :=
  match misaligned r.ea align with
  | some f => .fault f
  | none =>
    if 32 ≤ s.outstanding s.cur then .wait
    else
      let id := s.nextId
      let r := { r with result := some s.cc.varNext }
      after ((s.putVar (.req id) gens vecs [] false).issueReq r) id

/-- The least cycles from issue to the result of a request, less one (R50): a near one is answered 2L + 1 cycles after it when nothing delays it (R233), and a global one not before 6 network cycles, the time to the own super-group's slices and back through their router (R237; log 50). -/
def State.leastTime (s : State) (near : Bool) (c : Core) (o : Opnd) : Nat :=
  if near then
    match nearPlace s.cur (c.eaD o) with
    | .slice d _ => 2 * nearLevels s.cur d
    | _ => 0
  else 6 * s.netPeriod / c.clock.pipePeriod - 1

/-! ### Loads and stores (R253, R254) -/

/-- LDN, STN, LDG, STG: b and c zero (R253). -/
def sigMem (op : Opcode) (d : Role) (ords : List Nat) : Sig where
  op := op
  lat := 1
  slow := fun s c o => s.leastTime (decide (opFn op < 2)) c o
  roles := fun _ => { d := d, a := .gr }
  reserved := fun o => o.b != 0 || o.c != 0
  refuses := fun _ o => badOrder ords o

/-- LDGV, STGV: no type (R254). -/
def sigMemV (op : Opcode) (d : Role) (ords : List Nat) : Sig where
  op := op
  lat := 1
  slow := fun s c o => s.leastTime false c o
  roles := fun _ => { d := d, a := .gr }
  reserved := fun o => o.b != 0 || o.c != 0 || o.m.toNat % 8 != 0
  refuses := fun _ o => badOrder ords o

/-- A load of an integer (R253). -/
def loadInt (g : Sig) (near : Bool) (o : Opnd) (s : State) : Result :=
  let t := o.mtype
  let r := s.newReq g o near (.load (t.width / 8) t.signed) false
  s.post2 { r with dst := s.cc.phys o.d } (t.width / 8) [o.d] [] (fun s _ => .done s)

/-- A store of an integer (R253). -/
def storeInt (g : Sig) (near : Bool) (o : Opnd) (s : State) : Result :=
  let n := o.mtype.width / 8
  s.post1 (s.newReq g o near (.store n ((s.cc.readG o.d).toNat % 256 ^ n)) true) n

/-- LDN (R253). -/
def execLdn (t : TailD) (s : State) : Host.Outcome State Fault Refusal :=
  let g := sigMem 0x400 .gw [0, 1]
  issue g (opndD t) s (loadInt g true)

/-- STN (R253). -/
def execStn (t : TailD) (s : State) : Host.Outcome State Fault Refusal :=
  let g := sigMem 0x401 .gr [0, 2]
  issue g (opndD t) s (storeInt g true)

/-- LDG (R253). -/
def execLdg (t : TailD) (s : State) : Host.Outcome State Fault Refusal :=
  let g := sigMem 0x402 .gw [0, 1]
  issue g (opndD t) s (loadInt g false)

/-- STG (R253). -/
def execStg (t : TailD) (s : State) : Host.Outcome State Fault Refusal :=
  let g := sigMem 0x403 .gr [0, 2]
  issue g (opndD t) s (storeInt g false)

/-- LDGV (R254). -/
def execLdgv (t : TailD) (s : State) : Host.Outcome State Fault Refusal :=
  let g := sigMemV 0x404 .vw [0, 1]
  issue g (opndD t) s fun o s =>
    s.post2 { s.newReq g o false .loadV false with vec := some o.d.toNat } 64 [] [o.d.toNat] (fun s _ => .done s)

/-- STGV (R254). -/
def execStgv (t : TailD) (s : State) : Host.Outcome State Fault Refusal :=
  let g := sigMemV 0x405 .vr [0, 2]
  issue g (opndD t) s fun o s => s.post1 (s.newReq g o false (.store 64 (s.cc.readV o.d.toNat).toNat) true) 64

/-! ### Atomics, counters and waits (R259 to R265) -/

/-- OPN of an AMO (R259). -/
def amoOpn (o : Opnd) : Nat := o.c.toNat % 16

/-- AMO (R259). -/
def sigAmo : Sig where
  op := 0x406
  lat := 1
  slow := fun s c o => s.leastTime (o.c.getLsbD 4) c o
  roles := fun o => { d := if amoOpn o = 7 then .grw else .gw, a := .gr, b := .gr }
  reserved := fun o => o.c.getLsbD 5
  refuses := fun _ o => badOrder [0, 1, 2, 3] o || !wordType o || decide (9 ≤ amoOpn o) || (amoOpn o == 8 && o.b != 0)

/-- AMO (R259). -/
def execAmo (t : TailD) (s : State) : Host.Outcome State Fault Refusal :=
  issue sigAmo (opndD t) s fun o s =>
    let ty := o.mtype
    let op := ReqOp.amo (amoOpn o) (ty.width / 8) ty.signed (s.cc.readGT o.b ty) (s.cc.readGT o.d ty)
    let r := s.newReq sigAmo o (o.c.getLsbD 4) op true
    s.post2 { r with dst := s.cc.phys o.d } (ty.width / 8) [o.d] [] (fun s _ => .done s)

/-- PUTC: b is the counter, c is zero (R261). -/
def sigPutc : Sig where
  op := 0x407
  roles := fun _ => { d := .gr, a := .gr }
  reserved := fun o => o.c != 0
  refuses := fun _ o => badOrder [0, 2] o || decide (16 ≤ o.b.toNat)

/-- PUTC (R261). -/
def execPutc (t : TailD) (s : State) : Host.Outcome State Fault Refusal :=
  issue sigPutc (opndD t) s fun o s =>
    let n := o.mtype.width / 8
    s.post1 (s.newReq sigPutc o false (.putc n ((s.cc.readG o.d).toNat % 256 ^ n) o.b.toNat) true) n

/-- A drain point whose waits are over clears TSM (R288). -/
def State.drainPoint (s : State) : State := s.setCc { s.cc with tsm := 0 }

/-- Memory-touching instructions wait for an acquire that completes after some cycles (R262, R269). -/
def State.acquireIn (s : State) (cycles : Nat) : State :=
  let c := s.cc
  s.setCc { c with memReady := max c.memReady (s.now + cycles * c.clock.pipePeriod) }

/-- WAITC: b is the counter, c and m[7:1] zero (R262). -/
def sigWaitc : Sig where
  op := 0x408
  lat := 2
  roles := fun _ => { d := .gw, a := .gr }
  reserved := fun o => o.c != 0 || decide (2 ≤ o.m.toNat)
  refuses := fun _ o => decide (16 ≤ o.b.toNat)

/-- The corrupted-weight-tile fault of a context of a core, if its mark is set and not yet reported (R353). -/
def State.corruptMark (s : State) (core x : Nat) : Option Raise :=
  let k := s.ctx (ctxKey core x)
  if k.corrupt && !k.reported then
    let first := k.bad.headD (0, false)
    some ⟨0x10, BitVec.ofNat 8 (x + (if k.retry then 2 else 0) + (if first.2 then 4 else 0)), BitVec.ofNat 64 (k.layer * 2 ^ 32 + first.1)⟩
  else none

/-- The mark that a WAITC on a counter reports: bd0's before bd1's (R353). -/
def State.counterMark (s : State) (core n : Nat) : Option Raise :=
  [0, 1].findSome? (fun x => if (s.ctx (ctxKey core x)).counter = n then s.corruptMark core x else none)

/-- WAITC (R262, R265, R353). -/
def execWaitc (t : TailW) (s : State) : Host.Outcome State Fault Refusal :=
  issue sigWaitc (opndW t) s fun o s =>
    let s := s.drainPoint
    let c := s.cc
    let k := c.counters[o.b.toNat]?.getD 0
    let x : BitVec 32 := (c.readG o.a).setWidth 32
    match s.counterMark s.cur o.b.toNat with
    | some r => .fault r
    | none =>
    if k.toNat < x.toNat then .sleep s .condition
    else
      let s := if o.m.getLsbD 0 then s.setCc { c with counters := c.counters.setIfInBounds o.b.toNat (k - x) } else s
      let due := s.now + 2 * c.clock.pipePeriod
      .done ((s.putVar (.at due) [o.d] [] [.gen (c.phys o.d) (k.setWidth 64)] false).acquireIn 2)

/-- WAITA: d and c receive the word and its status (R263). -/
def sigWaita : Sig where
  op := 0x409
  lat := 1
  slow := fun s c o => s.leastTime false c o
  roles := fun _ => { d := .gw, a := .gr, b := .gr, c := .gw }
  refuses := fun _ o => badOrder [0, 1] o || !wordType o || (o.d == o.c && o.d != 0)

/-- WAITA (R263, R265). -/
def execWaita (t : TailD) (s : State) : Host.Outcome State Fault Refusal :=
  issue sigWaita (opndD t) s fun o s =>
    let s := s.drainPoint
    let ty := o.mtype
    let n := ty.width / 8
    let r := s.newReq sigWaita o false (.waita n ty.signed (pat (s.cc.readGT o.b ty) ty.width)) false
    s.post2 { r with dst := s.cc.phys o.d, dst2 := s.cc.phys o.c } n [o.d, o.c] [] (fun s id => .sleep s (.waita id false))

/-- WAKE: d, b and c zero, m[2:1] zero (R264). -/
def sigWake : Sig where
  op := 0x40A
  roles := fun _ => { a := .gr }
  reserved := fun o => o.d != 0 || o.b != 0 || o.c != 0 || o.m.toNat / 2 % 4 != 0
  refuses := fun _ o => badOrder [0, 2] o

/-- WAKE (R264). -/
def execWake (t : TailD) (s : State) : Host.Outcome State Fault Refusal :=
  issue sigWake (opndD t) s fun o s => s.post1 (s.newReq sigWake o false (.wake (o.m.getLsbD 0)) false) 8

/-! ### Fences, flushes, the inbox and handovers (R266 to R269, R272) -/

/-- FENCE: the kind in ORD, and m[2:0] zero (R266). -/
def sigFence : Sig where
  op := 0x40B
  reserved := fun o => o.d != 0 || o.a != 0 || o.b != 0 || o.c != 0 || o.m.toNat % 8 != 0
  refuses := fun _ o => badOrder [1, 2, 3] o

/-- FENCE (R266, R288): a drain point of every kind, after which no earlier access is outstanding. -/
def execFence (t : TailW) (s : State) : Host.Outcome State Fault Refusal :=
  issue sigFence (opndW t) s fun _ s => .done s.drainPoint

/-- FLUSH: kinds in m[1:0]; m[7:2], d and c zero (R267). -/
def sigFlush : Sig where
  op := 0x40C
  roles := fun _ => { a := .gr, b := .gr }
  reserved := fun o => o.d != 0 || o.c != 0 || decide (4 ≤ o.m.toNat)
  refuses := fun _ o => o.m == 0

/-- FLUSH (R267): a length of 0 touches nothing. -/
def execFlush (t : TailD) (s : State) : Host.Outcome State Fault Refusal :=
  issue sigFlush (opndD t) s fun o s =>
    let s := s.drainPoint
    let n := (s.cc.readG o.b).toNat % 2 ^ 32
    if n = 0 then .done s
    else
      let r := s.newReq sigFlush o false (.flush (o.m.toNat % 4) n) false
      s.post1 { r with acquire := false, release := none, blocks := true } 1

/-- INBOX: a and b zero, m[0] waits (R269). -/
def sigInbox : Sig where
  op := 0x40D
  lat := 2
  roles := fun _ => { d := .gw, c := .gw }
  reserved := fun o => o.a != 0 || o.b != 0 || decide (2 ≤ o.m.toNat)
  refuses := fun _ o => o.d == o.c && o.d != 0

/-- Bytes 0 to 7 of a message (R268). -/
def Message.head (m : Message) : Word :=
  BitVec.ofNat 64 (m.kind.toNat + m.status.toNat * 2 ^ 8 + m.tag.toNat * 2 ^ 16 + m.src.toNat * 2 ^ 32)

/-- Messages that waited for a free entry of a core's inbox try again (R268). -/
def State.admitMail (s : State) (core : Nat) : State :=
  s.mail.foldl (fun t e => if e.2.core = core && e.2.waits then t.postCore t.now core (.inboxMessageArrival e.1) else t) s

/-- The result of an INBOX: two registers, 2 cycles on; later accesses wait for it (R269). -/
def State.inboxResult (s : State) (o : Opnd) (x y : Word) : State :=
  let c := s.cc
  let due := s.now + 2 * c.clock.pipePeriod
  (s.putVar (.at due) [o.d, o.c] [] [.gen (c.phys o.d) x, .gen (c.phys o.c) y] false).acquireIn 2

/-- INBOX (R265, R269). -/
def execInbox (t : TailW) (s : State) : Host.Outcome State Fault Refusal :=
  issue sigInbox (opndW t) s fun o s =>
    let s := s.drainPoint
    let c := s.cc
    match c.inbox with
    | [] => if o.m.getLsbD 0 then .sleep s .condition else .done (s.inboxResult o 0 0)
    | m :: rest => .done (((s.setCc { c with inbox := rest }).admitMail s.cur).inboxResult o m.head m.data)

/-- CAPGIVE: d, c and m zero (R272). -/
def sigCapgive : Sig where
  op := 0x40E
  roles := fun _ => { a := .gr, b := .gr }
  reserved := fun o => o.d != 0 || o.c != 0 || o.m != 0

/-- CAPGIVE (R272). -/
def execCapgive (t : TailD) (s : State) : Host.Outcome State Fault Refusal :=
  issue sigCapgive (opndD t) s fun o s =>
    let s := s.drainPoint
    let r := s.newReq sigCapgive o false (.capgive ((s.cc.readG o.b).toNat % 2 ^ 16)) false
    s.post1 { r with blocks := true } 1

end Sys2Proof.Machine
end

