-- ==== Sys2Proof/Machine/LocalMem.lean ====
section
/-! DEFINITION. Accesses to the core's own slice: the checks of a local access, and class 0x3 (R101 to R105, R309, R398). -/

namespace Sys2Proof.Machine

/-- The checks of R101 on one run of bytes: alignment, then range and rights. -/
def State.localFault (s : State) (write : Bool) (align ea n : Nat) : Option Raise :=
  if ea % align ≠ 0 then some ⟨0x08, 0, BitVec.ofNat 64 ea⟩
  else
    match s.cc.firstFailing (if write then 61 else 62) ea n with
    | some (a, outside) => some ⟨0x09, BitVec.ofNat 8 ((if write then 1 else 0) + (if outside then 4 else 0)), BitVec.ofNat 64 a⟩
    | none => none

/-- The first failing run of a list, each checked wholly before the next (R104, R169). -/
def State.localFaults (s : State) (write : Bool) (align : Nat) (runs : List (Nat × Nat)) : Option Raise :=
  runs.findSome? (fun r => s.localFault write align r.1 r.2)

/-- The local-protection fault of the lowest failing byte of one access that covers several runs (R101, R333). -/
def State.lowestFault (s : State) (write : Bool) (runs : List (Nat × Nat)) : Option Raise :=
  (runs.filterMap (fun r => s.localFault write 1 r.1 r.2)).foldl (fun m f => match m with | none => some f | some g => some (if f.eaddr.toNat < g.eaddr.toNat then f else g)) none

/-- Whether the range scoreboard holds an access: loads by destination ranges, stores by every range (R309). -/
def Core.rangeHolds (c : Core) (write : Bool) (runs : List (Nat × Nat)) : Bool :=
  c.ranges.any (fun g => (g.dest || write) && runs.any (fun r => decide (r.1 ≤ g.hi) && decide (g.lo < r.1 + r.2)))

/-- Whether some run of a list covers a byte. -/
def covers (runs : List (Nat × Nat)) (a : Nat) : Bool := runs.any (fun r => decide (r.1 ≤ a) && decide (a < r.1 + r.2))

/-- Whether the runs of a list cover a whole storage word of the own slice. -/
def coversWord (runs : List (Nat × Nat)) (w : Nat) : Bool := (List.range 8).all (fun i => covers runs (w + i))

/-- The first bad word, by its local address, that an access may not touch: any for a read, one that a store leaves part of for a write (R398). -/
def State.localBad (s : State) (write : Bool) (runs : List (Nat × Nat)) : Option Nat :=
  let base := sliceKey s.cur 0
  let bad (r : Nat × Nat) : Option Nat :=
    s.badWords.foldl (fun m w =>
      if base ≤ w && w < base + r.1 + r.2 && base + r.1 < w + 8 && !(write && coversWord runs (w - base)) then
        (match m with | some x => some (min x (w - base)) | none => some (w - base))
      else m) none
  runs.findSome? bad

/-- Whether a read of the core's own slice through a fabric, which has no response yet, holds a local read of its bytes (R286; log 50). -/
def State.ownReadAhead (s : State) (runs : List (Nat × Nat)) : Bool :=
  s.reqs.any (fun e => decide (e.2.core = s.cur) && e.2.op.returns && e.2.awaits &&
    (match s.sliceRun e.2 with | some a => runs.any (fun r => runsMeet a (sliceKey s.cur 0 + r.1, r.2)) | none => false))

/-- Every check of a local access, in order: addresses and rights, the holds, bad data (R101, R286, R309, R398); in exchange mode nothing holds it (R217). None when it may go on. -/
def State.localCheck (s : State) (write : Bool) (align : Nat) (runs : List (Nat × Nat)) : Option Result :=
  match s.localFaults write align runs with
  | some r => some (.fault r)
  | none =>
    if !s.cc.xm && (s.cc.rangeHolds write runs || (!write && s.ownReadAhead runs)) then some .wait
    else
      match s.localBad write runs with
      | some w => some (.fault ⟨0x0F, if write then 0x81 else 0x01, BitVec.ofNat 64 w⟩)
      | none => none

/-- The slice is taken by the core's own access, for a vector cycle after those that its fetches take (R233). -/
def State.takeSlice (s : State) : State :=
  let c := s.cc
  s.setCc { c with sliceFree := c.sliceTaken s.now + c.clock.vecPeriod }

/-- Values stored to the own slice in order, each as an address, a size and a value (R102 to R105). -/
def State.localStores (s : State) (xs : List (Nat × Nat × Nat)) : State :=
  (s.storeAll (xs.map (fun x => (sliceKey s.cur x.1, x.2.1, x.2.2)))).takeSlice

/-- LD, ST: the type in b[2:0], b[5:3] zero (R102). -/
def sigLd (op : Opcode) (d : Role) (lat : Nat) : Sig where
  op := op
  lat := lat
  roles := fun _ => { d := d, a := .gr }
  reserved := fun o => decide (8 ≤ o.b.toNat)

/-- LDV, STV (R103). -/
def sigLdv (op : Opcode) (d : Role) (lat : Nat) : Sig where
  op := op
  lat := lat
  roles := fun _ => { d := d, a := .gr }
  reserved := fun o => o.b != 0

/-- LDVS, STVS (R104). -/
def sigLdvs (op : Opcode) (d : Role) (lat : Nat) : Sig where
  op := op
  lat := lat
  roles := fun _ => { d := d, a := .gr, b := .gr }
  reserved := fun o => o.c != 0 || decide (8 ≤ o.m.toNat)

/-- LDP, STP (R105). -/
def sigLdp (op : Opcode) (r : Role) (lat : Nat) : Sig where
  op := op
  lat := lat
  roles := fun _ => { d := r, a := .gr, b := r }
  refuses := fun _ o => r == .gw && o.d == o.b && o.d != 0

/-- The addresses of a strided access (R104). -/
def Core.strided (c : Core) (o : Opnd) (width : Nat) : List Nat :=
  (List.range (512 / width)).map (fun (i : Nat) => (wordOf ((c.readG o.a).toNat + (i : Int) * (c.readG o.b).toInt)).toNat)

/-- LD (R102). -/
def execLd (t : TailL) (s : State) : Host.Outcome State Fault Refusal :=
  issue (sigLd 0x300 .gw 3) (opndL t) s fun o s =>
    let ty := o.btype
    let ea := (s.cc.eaL o).toNat
    match s.localCheck false (ty.width / 8) [(ea, ty.width / 8)] with
    | some r => r
    | none => .done (s.takeSlice.putG o.d (writeT (readT (s.localRead ea (ty.width / 8)) ty) ty) 3)

/-- ST (R102). -/
def execSt (t : TailL) (s : State) : Host.Outcome State Fault Refusal :=
  issue (sigLd 0x301 .gr 0) (opndL t) s fun o s =>
    let n := o.btype.width / 8
    let ea := (s.cc.eaL o).toNat
    match s.localCheck true n [(ea, n)] with
    | some r => r
    | none => .done (s.localStores [(ea, n, (s.cc.readG o.d).toNat)])

/-- LDV (R103). -/
def execLdv (t : TailL) (s : State) : Host.Outcome State Fault Refusal :=
  issue (sigLdv 0x302 .vw 3) (opndL t) s fun o s =>
    let ea := (s.cc.eaL o).toNat
    match s.localCheck false 64 [(ea, 64)] with
    | some r => r
    | none => .done (s.takeSlice.after 3 [.vec o.d.toNat (BitVec.ofNat 512 (s.localRead ea 64))])

/-- STV (R103). -/
def execStv (t : TailL) (s : State) : Host.Outcome State Fault Refusal :=
  issue (sigLdv 0x303 .vr 0) (opndL t) s fun o s =>
    let ea := (s.cc.eaL o).toNat
    match s.localCheck true 64 [(ea, 64)] with
    | some r => r
    | none => .done (s.localStores [(ea, 64, (s.cc.readV o.d.toNat).toNat)])

/-- LDVS (R104). -/
def execLdvs (t : TailW) (s : State) : Host.Outcome State Fault Refusal :=
  issue (sigLdvs 0x304 .vw 5) (opndW t) s fun o s =>
    let w := o.mtype.width
    let eas := s.cc.strided o w
    match s.localCheck false (w / 8) (eas.map (fun a => (a, w / 8))) with
    | some r => r
    | none => .done (s.takeSlice.after 5 [.vec o.d.toNat (BitVec.ofNat 512 (packLanes w (eas.map (fun a => s.localRead a (w / 8)))))])

/-- STVS (R104). -/
def execStvs (t : TailW) (s : State) : Host.Outcome State Fault Refusal :=
  issue (sigLdvs 0x305 .vr 0) (opndW t) s fun o s =>
    let w := o.mtype.width
    let eas := s.cc.strided o w
    let x := (s.cc.readV o.d.toNat).toNat
    match s.localCheck true (w / 8) (eas.map (fun a => (a, w / 8))) with
    | some r => r
    | none => .done (s.localStores (eas.mapIdx (fun i a => (a, w / 8, laneOf x w i))))

/-- LDP (R105). -/
def execLdp (t : TailL) (s : State) : Host.Outcome State Fault Refusal :=
  issue (sigLdp 0x306 .gw 3) (opndL t) s fun o s =>
    let ea := (s.cc.eaL o).toNat
    match s.localCheck false 8 [(ea, 16)] with
    | some r => r
    | none => .done (s.takeSlice.after 3 [.gen (s.cc.phys o.d) (BitVec.ofNat 64 (s.localRead ea 8)),
        .gen (s.cc.phys o.b) (BitVec.ofNat 64 (s.localRead (ea + 8) 8))])

/-- STP (R105). -/
def execStp (t : TailL) (s : State) : Host.Outcome State Fault Refusal :=
  issue (sigLdp 0x307 .gr 0) (opndL t) s fun o s =>
    let ea := (s.cc.eaL o).toNat
    match s.localCheck true 8 [(ea, 16)] with
    | some r => r
    | none => .done (s.localStores [(ea, 8, (s.cc.readG o.d).toNat), (ea + 8, 8, (s.cc.readG o.b).toNat)])

end Sys2Proof.Machine
end

