-- ==== Sys2Proof/Machine/Records.lean ====
section
/-! DEFINITION. Accesses of the package's own units, the trace path, the record log and its replay (R234, R393, R444 to R455). -/

namespace Sys2Proof.Machine

/-! ### Accesses of the package's own units -/

/-- Step 2 of R234 for a unit's access: a slice lies in the partition and in the range of the launch that the unit works for; the package's own control is not asked (R243). -/
def State.unitReaches (s : State) (part : Option Nat) (launch : Option Launch) (p : Place) : Bool :=
  match part, p with
  | some i, .slice c _ =>
    (match (s.part i).rankOf c, launch with
     | some r, some l => l.inRange r
     | _, _ => false)
  | _, _ => true

/-- Step 6 of R234 for a unit's access: bytes read must be correctable, and so must a word that a write leaves part of (R398). -/
def State.unitBad (s : State) (key n : Nat) (read : Bool) : Bool :=
  s.badWords.any (fun w => decide (w < key + n) && decide (key < w + 8) && (read || !(decide (key ≤ w) && decide (w + 8 ≤ key + n))))

/-- The machine with a unit's bytes counted for its partition by the arbiter of the stack it goes to (R371). -/
def State.countBudget (s : State) (part : Option Nat) (p : Place) (n : Nat) : State :=
  match part, p with
  | some i, .hbm va =>
    let k := 128 * (channelOf va / 32) + i
    let s := s.budgetRefresh
    { s with budgetUsed := SMap.set (fun _ => 0) s.budgetUsed k (SMap.get (fun _ => 0) s.budgetUsed k + n) }
  | _, _ => s

/-- The key a global address leads to for a unit on a die, by the checks of R234, and the machine with its caches filled, its bytes counted, and its failure recorded (R419, R423, R426): it works for a launch, and acts for a core, if it is given them. -/
def State.unitKey (s : State) (die vf : Nat) (part : Option Nat) (ea : Word) (n : Nat) (read write : Bool)
    (launch : Option Launch := none) (core : Option Nat := none) : Except Cause Nat × State :=
  let q (x : Byte) : Byte := if write then x ||| 0x80 else x
  let p := globalPlace s.pkg ea
  if badAddress false ea then (.error (0x0C, q 0x01), s)
  else if !s.unitReaches part launch p then (.error (0x0C, q 0x02), s)
  else if !s.ready die p then (.error (0x18, q 0x00), s)
  else
    let iface := ifaceOf die p
    let t := s.translate iface vf part p read write
    match t.1 with
    | .error c =>
      let u := match core with | some k => t.2.upcall k ea write part p c | none => (c, t.2)
      (.error (u.1.1, q u.1.2), u.2.translationRecord vf part ea u.1 (q u.1.2))
    | .ok tr =>
      let u := t.2.countBudget part p n
      let owned := match u.holder tr.key (u.granuleLeaf iface vf p tr.leaf) with
        | some h => write && core.map (fun c => (u.core c).rank) != some h
        | none => false
      if owned then (.error (0x0D, 0x80), u)
      else if u.unitBad tr.key n read then (.error (0x0F, q 0x00), u)
      else (.ok tr.key, u)

/-- What an event of a partition's units comes to: it is put off to the next interval when it reads or writes a stack whose count has reached the partition's budget (R371). -/
def State.admitted (s : State) (part : Nat) (i : Instr) (event : State → Host.Outcome State Fault Refusal) : Host.Outcome State Fault Refusal :=
  let s := s.budgetRefresh
  let limit := if 128 ≤ part then 0 else bitsOf (s.page part 0x18) 31 0 * 4096
  match event s with
  | .next t =>
    let used (u : State) (k : Nat) : Nat := SMap.get (fun _ => 0) u.budgetUsed k
    let spent := decide (limit ≠ 0) && t.budgetUsed.any (fun e => decide (e.1 % 128 = part) && decide (used s e.1 < e.2) && decide (limit ≤ used s e.1))
    if spent then .next (s.postCore ((s.now / (1000 * tickUnits) + 1) * (1000 * tickUnits)) 0 i) else .next t
  | r => r

/-- A read by a unit of the package: a value or a failure. -/
def State.unitRead (s : State) (die vf : Nat) (part : Option Nat) (ea : Word) (n : Nat) : Except Cause Nat × State :=
  let k := s.unitKey die vf part ea n true false
  match k.1 with
  | .error c => (.error c, k.2)
  | .ok key => (.ok (Memory.readLE k.2.mem key n), k.2)

/-- A write by a unit of the package, in one step: none, or its failure. -/
def State.unitWrite (s : State) (die vf : Nat) (part : Option Nat) (ea : Word) (n v : Nat)
    (launch : Option Launch := none) (core : Option Nat := none) : Option Cause × State :=
  let k := s.unitKey die vf part ea n false true launch core
  match k.1 with
  | .error c => (some c, k.2)
  | .ok key => (none, k.2.deviceStore key n v)

/-- The die that speaks for a partition entry: that of its first super-group. -/
def PartEntry.die (e : PartEntry) : Nat := (e.list.headD 0) / 16

/-! ### The trace path (R444 to R449) -/

/-- TRDROP counted up, and the next record told of it (R444, R445). -/
def State.dropTrace (s : State) (part : Nat) : State :=
  let d := bitsOf (s.page part 0x38) 31 0
  let s := s.setPage part 0x38 (BitVec.ofNat 64 (min (d + 1) (2 ^ 32 - 1)))
  s.setPartition part { s.partition part with dropped := true }

/-- TRLEN is a power of two from 2^10 to 2^26 (R444). -/
def traceSlots (x : Word) : Option Nat :=
  ((List.range 17).map (fun i => 2 ^ (i + 10))).find? (fun n => n = bitsOf x 31 0)

/-- A trace record written into its partition's buffer, or dropped (R444, R445, R447). -/
def State.writeTrace (s : State) (part : Nat) (r : TraceRecord) : State :=
  match traceSlots (s.page part 0x28) with
  | none => s
  | some n =>
    let head := bitsOf (s.page part 0x30) 31 0
    let wrap := (s.page part 0x40).getLsbD 8
    if n ≤ head ∧ wrap = false then s.dropTrace part
    else
      let e := s.part part
      let flags : Byte := if (s.partition part).dropped then 1 else 0
      let va := s.page part 0x20 + BitVec.ofNat 64 (64 * (head % n))
      let w := s.unitWrite e.die e.vf (some part) va 64 (leValue (r.set 1 flags))
      match w.1 with
      | some _ => w.2.dropTrace part
      | none =>
        let s := w.2.setPage part 0x30 (BitVec.ofNat 64 ((head + 1) % 2 ^ 32))
        s.setPartition part { s.partition part with dropped := false }

/-- Where half of a core's profile goes: PRBASE + 512 × RANK, and 256 bytes on for the second (R449). -/
def State.profileAddress (s : State) (part : Nat) (bytes : List Byte) : Word :=
  s.page part 0x48 + BitVec.ofNat 64 (512 * fieldAt bytes 256 4 + 256 * fieldAt bytes 260 1)

/-- Half of a core's profile written (R449). -/
def State.writeProfile (s : State) (part : Nat) (bytes : List Byte) : State :=
  let e := s.part part
  let w := s.unitWrite e.die e.vf (some part) (s.profileAddress part bytes) 256 (leValue (bytes.take 256))
  match w.1 with
  | some _ => w.2.dropTrace part
  | none => w.2

/-- An item is a record of the buffer; any other is half of a profile. -/
def TraceItem.buffered (x : TraceItem) : Bool := decide (x.record.length = 64)

/-- Two items have one source, whose items keep their order (R447). -/
def TraceItem.follows (x y : TraceItem) : Bool := x.part == y.part && x.core == y.core

/-- The address an item goes to, from the next slot of the buffer; none when tracing is disabled (R444). -/
def State.traceAddress (s : State) (x : TraceItem) : Option Word :=
  if x.buffered then (traceSlots (s.page x.part 0x28)).map (fun n => s.page x.part 0x20 + BitVec.ofNat 64 (64 * (bitsOf (s.page x.part 0x30) 31 0 % n)))
  else some (s.profileAddress x.part x.record)

/-- An item leaves the trace path: a TRACE's record leaves its core's queue with it (R448; log 34). -/
def State.endTrace (s : State) (x : TraceItem) : State :=
  let s := { s with traceOut := s.traceOut.erase x }
  match x.core with
  | some n =>
    let c := s.core n
    if x.buffered && x.record.head? == some 0x01 then s.setCore n { c with trace := c.trace.drop 1 } else s
  | none => s

/-- An item has left the trace path, and the next of its source may leave (R447). -/
def State.traceOn (s : State) (x : TraceItem) : State := if s.traceOut.any (fun y => y.follows x) then s.post s.now 0 .traceWrite else s

/-- The oldest item whose source has none on its way leaves as a packet of VC1; one for which tracing is disabled leaves the path at once (R237, R238, R447). -/
def State.traceStep (s : State) : State :=
  match s.traceOut.find? (fun x => !x.sent && !s.traceOut.any (fun y => y.sent && y.follows x)) with
  | none => s
  | some x =>
    match s.traceAddress x with
    | none => (s.endTrace x).traceOn x
    | some va =>
      let e := s.part x.part
      let home := match x.core with | some n => routerOfCore n | none => e.list.headD 0
      let s := { s with traceOut := s.traceOut.replace x { x with sent := true } }
      s.inject (s.netEdgeAfter s.now) home 0
        (packetOf (.trace x.part x.core) 1 (if x.buffered then 64 else 256) e.pid (routerOfChannel (channelOf (bitsOf va 47 0))))

/-- An item of a source reaches its partition's memory and is written or dropped; the next of its source may leave (R447, R449). A partition that has used up its budget waits for the next interval (R371). -/
def State.traceStore (s : State) (part : Nat) (core : Option Nat) : Host.Outcome State Fault Refusal :=
  match s.traceOut.find? (fun x => x.sent && x.part == part && x.core == core) with
  | none => .next s
  | some x =>
    let stack := (s.traceAddress x).map (fun va => channelOf (bitsOf va 47 0) / 32)
    let b := match stack with | some k => s.budgetAdmits (some part) k 0 | none => (true, s)
    if !b.1 then .next (s.post ((s.now / (1000 * tickUnits) + 1) * (1000 * tickUnits)) 0 (.traceStore part core))
    else
      let t := b.2.endTrace x
      let t := if x.buffered then t.writeTrace part x.record else t.writeProfile part x.record
      .next (t.traceOn x)

/-! ### The record log (R450, R451) -/

/-- A word of a partition's log. -/
def State.logWord (s : State) (part off n : Nat) : Nat :=
  let e := s.part part
  match (s.unitRead e.die e.vf (some part) (s.page part 0x50 + BitVec.ofNat 64 off) n).1 with
  | .ok v => v
  | .error _ => 0

/-- Bytes written into a partition's log by the package's own control, which no budget counts (R371, R450; log 34). -/
def State.logStore (s : State) (part off n v : Nat) : State :=
  let e := s.part part
  { (s.unitWrite e.die e.vf (some part) (s.page part 0x50 + BitVec.ofNat 64 off) n v).2 with budgetUsed := s.budgetUsed, budgetEpoch := s.budgetEpoch }

/-- The log's header at the start of a recorded launch (R450). -/
def State.logOpen (s : State) (part : Nat) : State := s.logStore part 0 64 0x474F4C52

/-- A bit of the log header's FLAGS set: 0 OVF, 1 DIV (R450). -/
def State.logFlag (s : State) (part bit : Nat) : State :=
  s.logStore part 8 1 ((s.logWord part 8 1) ||| 2 ^ bit)

/-- Records appended to the log, or OVF set and nothing further logged (R450). -/
def State.logAppend (s : State) (part : Nat) (bytes : List Byte) : State :=
  let count := s.logWord part 4 4
  let off := 64 + 64 * count
  if (s.logWord part 8 1).testBit 0 then s
  else if (s.page part 0x58).toNat < off + bytes.length then s.logFlag part 0
  else (s.logStore part off bytes.length (leValue bytes)).logStore part 4 4 (count + bytes.length / 64)

/-- A record logged for a launch that records (R450, R451, R453). -/
def State.logFor (s : State) (launch : Nat) (bytes : List Byte) : State :=
  match SMap.find s.launches launch with
  | some l => if l.flag 1 && !l.replay then s.logAppend l.part bytes else s
  | none => s

/-! ### Replay (R453, R454) -/

/-- The slots of a log that hold records: the two slots of the launch block follow its record (R450, R451). -/
def State.logSlots (s : State) (part : Nat) : List Nat :=
  (List.range (s.logWord part 4 4)).filter (fun i => i = 0 || 3 ≤ i)

/-- A field of a log record. -/
def State.logField (s : State) (part slot off n : Nat) : Nat := s.logWord part (64 + 64 * slot + off) n

/-- The first log record of a kind that a replay has not used and that passes a test (R453). -/
def State.logFind (s : State) (l : Launch) (kind : Nat) (ok : Nat → Bool) : Option Nat :=
  (s.logSlots l.part).find? (fun i => s.logField l.part i 0 1 = kind && !l.replayed.contains i && ok i)

/-- A replay that has used a log record (R453). -/
def State.logUse (s : State) (launch slot : Nat) : State :=
  match SMap.find s.launches launch with
  | some l => { s with launches := SMap.put s.launches launch { l with replayed := l.replayed ++ [slot] } }
  | none => s

/-- A replay diverges (R454): DIV is set in the log header, and the launch carries on. -/
def State.diverge (s : State) (launch : Nat) : State :=
  match SMap.find s.launches launch with
  | some l =>
    if l.diverged then s
    else State.logFlag { s with launches := SMap.put s.launches launch { l with diverged := true } } l.part 1
  | none => s

/-- The end of a replay: a logged event that has had no live counterpart, or whose stamp was never reached, is a divergence (R454). -/
def State.closeReplay (s : State) (launch : Nat) : State :=
  match SMap.find s.launches launch with
  | some l =>
    if l.replay && (s.logSlots l.part).any (fun i =>
        [0x11, 0x12, 0x13, 0x15, 0x16].contains (s.logField l.part i 0 1) && !l.replayed.contains i) then s.diverge launch else s
  | none => s

end Sys2Proof.Machine
end

