-- ==== Sys2Proof/Machine/CopyUnit.lean ====
section
/-! DEFINITION. The copy unit of each pod: COPY, JTEST, JWAIT, its queue, its requests and its completions (R296 to R311, R466). -/

namespace Sys2Proof.Machine

/-! ### The unit and its jobs -/

/-- The stride of a side between rows (R300, R301). -/
def CopyOrder.stride (o : CopyOrder) (dst : Bool) : Int := if o.form = 1 then signExt (o.u (if dst then 28 else 24) 4) 32 else 0

/-- The bounding range of a side, from its lowest byte to its highest over all rows (R301). -/
def CopyOrder.bound (o : CopyOrder) (dst : Bool) : Int × Int :=
  let first : Int := if dst then o.dest else o.src
  let last := first + ((max 1 o.rows - 1 : Nat) : Int) * o.stride dst
  (min first last, max first last + o.len - 1)

/-- The number of blocks of a deal (R302). -/
def CopyOrder.blocks (o : CopyOrder) : Nat := (o.len + o.u 32 2 - 1) / o.u 32 2

/-- The rank that takes block k of a deal (R302). -/
def CopyOrder.dealRank (o : CopyOrder) (k : Nat) : Nat := o.u 36 4 + k % o.u 34 1 * o.u 35 1

/-- The recipients of a deal: the ranks named for at least one block (R302). -/
def CopyOrder.recipients (o : CopyOrder) : List Nat := (List.range (min o.blocks (o.u 34 1))).map o.dealRank

/-- The slice-space address of a core's slice (R235). -/
def State.sliceAddress (s : State) (core : Nat) : Nat := 2 ^ 62 + s.pkg * 2 ^ 31 + core * 2 ^ 18

/-- The flat number of a rank of the partition of a core (R184). -/
def State.flatOf (s : State) (core rank : Nat) : Option Nat := (s.partOf (s.core core)).bind (fun p => (s.part p).flat rank)

/-! ### Ranges in the issuer's slice (R309) -/

/-- The rows of `len` bytes, of those that start at `start` and every `stride` on, that touch a run: the first and the last. -/
def rowsIn (start stride : Int) (len rows : Nat) (lo hi : Int) : Option (Int × Int) :=
  let last : Int := (rows : Int) - 1
  let top := start + len - 1
  let r : Int × Int :=
    if stride = 0 then (if start ≤ hi ∧ lo ≤ top then (0, last) else (1, 0))
    else if 0 < stride then (max 0 (-((top - lo).fdiv stride)), min last ((hi - start).fdiv stride))
    else (max 0 (-((hi - start).fdiv (-stride))), min last ((top - lo).fdiv (-stride)))
  if 0 < len ∧ r.1 ≤ r.2 then some r else none

/-- The bounding range of the bytes of some rows that lie in a core's slice, as local addresses. -/
def State.inSlice (s : State) (core : Nat) (start stride : Int) (len rows : Nat) (dst : Bool) (owner : Nat) : List RangeEntry :=
  let base : Int := s.sliceAddress core
  match rowsIn start stride len rows base (base + 0x3FFFF) with
  | none => []
  | some (a, b) =>
    let lowest := min (start + a * stride) (start + b * stride)
    let highest := max (start + a * stride) (start + b * stride) + len - 1
    [⟨(max lowest base - base).toNat, (min highest (base + 0x3FFFF) - base).toNat, dst, false, owner⟩]

/-- The ranges a job records (R309). -/
def State.copyRanges (s : State) (o : CopyOrder) (owner : Nat) : List RangeEntry :=
  if o.form = 2 then
    if o.u 32 2 = 0 ∨ o.u 34 1 = 0 then []
    else if o.recipients.contains (s.core o.core).rank then
      let base : Int := s.sliceAddress o.core
      s.inSlice o.core (base + o.u 40 4) 0 ((o.blocks + o.u 34 1 - 1) / o.u 34 1 * o.u 32 2) 1 true owner
    else []
  else
    let src := if o.form = 4 then [] else s.inSlice o.core o.src (o.stride false) o.len o.rows false owner
    src ++ s.inSlice o.core o.dest (o.stride true) o.len o.rows true owner

/-- Whether a core's scoreboard of 16 ranges has room for some more (R309). -/
def Core.rangeRoom (c : Core) (n : Nat) : Bool := decide (c.ranges.length + n ≤ 16)

/-- Copy units whose core waits for room in its scoreboard look again. -/
def State.rangesCleared (s : State) (core : Nat) : State :=
  if (s.copyUnit (core / 8)).jobs.any (fun e => !e.2.recorded && e.2.order.core = core) then s.kickCopy (core / 8) else s

/-! ### Acceptance (R296, R297, R299) -/

/-- The first core of a pod in cyclic order after a pointer, among those that pass a test (R296). -/
def cyclicFirst (n p : Nat) (ok : Nat → Bool) : Option Nat := ((List.range n).map (fun i => (p + 1 + i) % n)).find? ok

/-- A job's ranges enter its core's scoreboard, its handle is written, and the core goes on (R299, steps 5 and 6). -/
def State.giveHandle (s : State) (pod e : Nat) (j : CopyJob) (rs : List RangeEntry) : State :=
  let u := s.copyUnit pod
  let o := j.order
  let c := s.core o.core
  let s := s.setCopyUnit pod (u.setJob e { j with recorded := true })
  let due := max o.due (c.clock.vec.ceil s.now)
  let v := VarResult.mk c.varNext (.at due) o.dst.toList [] [.gen o.dst (jobHandle (u.entry e).gen e)] false
  let s := s.setCore o.core { c with ranges := c.ranges ++ rs, var := c.var ++ [v], varNext := c.varNext + 1 }
  let s := s.postCore due o.core (.varResultArrival o.core v.id)
  match c.run with
  | .sleeping .copy => s.awaken o.core
  | _ => s

/-- A job whose ranges have room in the scoreboard has them recorded and its handle written (R299, R309). -/
def State.recordJob (s : State) (pod e : Nat) : State :=
  match ((s.copyUnit pod).entry e).job with
  | none => s
  | some j =>
    let rs := s.copyRanges j.order e
    if j.recorded || !(s.core j.order.core).rangeRoom rs.length then s else s.giveHandle pod e j rs

/-- COPY_ACCEPT (R296, R299): one waiting COPY is accepted into the lowest-numbered free entry. -/
def execCopyAccept (pod : Nat) (s : State) : Host.Outcome State Fault Refusal :=
  let u := s.copyUnit pod
  let late := (u.jobs.filter (fun e => !e.2.recorded)).map Prod.fst
  let s := late.foldl (fun t e => t.recordJob pod e) s
  let u := s.copyUnit pod
  match (List.range 64).find? (fun e => (u.entry e).job.isNone) with
  | none => .next s
  | some e =>
    match cyclicFirst 8 u.aptr (fun i => u.waiting.any (fun o => o.core % 8 = i)) with
    | none => .next s
    | some i =>
      match u.waiting.find? (fun o => o.core % 8 = i) with
      | none => .next s
      | some o =>
        let j : CopyJob :=
          { order := o, seq := u.accepted, stage := .queued, recorded := false, cursor := some (0, 0), nextPiece := 0, reads := [], ready := []
            pieces := [], out := 0, written := 0, flags := 0, landed := false, failure := none, region := none, stamp := 0, command := false, device := none, blocks := [] }
        let u := { u with waiting := u.waiting.filter (fun x => x.core != o.core), aptr := i, accepted := u.accepted + 1 }
        let s := s.setCopyUnit pod (u.setJob e j)
        let s := s.copyTrace 2 e (u.entry e) j
        .next ((s.recordJob pod e).kickCopy pod)

/-! ### Starting (R296, R300 to R305) -/

/-- The bytes of the descriptor that a form uses (R300). -/
def formUses (form i : Nat) : Bool :=
  let inside (lo n : Nat) : Bool := decide (lo ≤ i) && decide (i < lo + n)
  inside 0 8 || inside 16 4 ||
    (match form with
     | 0 => inside 8 8
     | 1 => inside 8 8 || inside 20 12
     | 2 => inside 32 12
     | 3 => inside 8 8 || inside 44 4
     | _ => inside 8 8 || inside 48 2)

/-- The storage-table entry of a namespace, if it is set up (R466). -/
def State.storageWord (s : State) (ns off : Nat) : Word := s.reg (0x400000 + 64 * ns + off)

/-- A namespace is set up: FLAGS.V (R466). -/
def State.storageValid (s : State) (ns : Nat) : Bool := (s.storageWord ns 32).getLsbD 48

/-- The logical block size of a namespace (R466). -/
def State.blockSize (s : State) (ns : Nat) : Nat := 2 ^ bitsOf (s.storageWord ns 32) 39 32

/-- The element size of RTYPE (R303). -/
def CopyOrder.elem (o : CopyOrder) : Nat := reduceWidth (o.u 45 1)

/-- Source and destination overlap (R301). -/
def CopyOrder.overlap (o : CopyOrder) : Option Byte :=
  if (o.bound false).1 ≤ (o.bound true).2 ∧ (o.bound true).1 ≤ (o.bound false).2 then some 0x04 else none

/-- The descriptor error of a job at its start, by qualifier; a reduce job to neither HBM nor slice space has no other (R300 to R305). -/
def State.copyError (s : State) (o : CopyOrder) : Option Byte :=
  let unusedSet := (List.range 64).any (fun i => !formUses o.form i && decide (o.u i 1 ≠ 0))
  if o.form = 3 ∧ 2 ≤ o.dest / 2 ^ 62 then some 0x03
  else if unusedSet then some 0x01
  else if o.len = 0 then some 0x02
  else
    match o.form with
    | 1 => if o.rows = 0 ∨ 65536 < o.rows then some 0x02 else o.overlap
    | 2 =>
      let blk := o.u 32 2
      let n := o.u 34 1
      let step := o.u 35 1
      let off := o.u 40 4
      if blk % 64 ≠ 0 ∨ blk = 0 ∨ 16384 < blk ∨ n = 0 ∨ 64 < n ∨ step = 0 ∨ 64 < step ∨ off % 64 ≠ 0 then some 0x02
      else if o.src / 2 ^ 62 ≠ 0 then some 0x05
      else if o.src % 64 ≠ 0 then some 0x02
      else
        let inRange (r : Nat) : Bool := match s.launchOf o.core with | some (_, l) => l.inRange r | none => false
        if !o.recipients.all inRange then some 0x05
        else if 0x40000 < off + (o.blocks + n - 1) / n * blk then some 0x02
        else none
    | 3 =>
      let w := o.elem
      if 2 < o.u 44 1 ∨ 3 < o.u 45 1 ∨ o.len % w ≠ 0 ∨ o.src % w ≠ 0 ∨ o.dest % w ≠ 0 ∨
          o.dest / 2 ^ 16 ≠ (o.dest + o.len - 1) / 2 ^ 16 then some 0x03
      else none
    | 4 =>
      let ns := o.u 48 2
      if 4096 ≤ ns then some 0x02
      else if !s.storageValid ns then some 0x06
      else if o.len % s.blockSize ns ≠ 0 ∨ o.dest / 2 ^ 62 ≠ 0 ∨ o.dest % 512 ≠ 0 then some 0x02
      else none
    | _ => o.overlap

/-- The sequence region of a reduce job: its launch and the granule of DST's first byte; none outside HBM and slice space (R303). -/
def State.copyRegion (s : State) (o : CopyOrder) : Option Nat :=
  if o.form = 3 ∧ o.dest / 2 ^ 62 ≤ 1 then some ((((s.core o.core).launch).getD 0) * 2 ^ 48 + o.dest / 2 ^ 16) else none

/-- (SEQ − NEXT) mod 2^16 of a reduce job in a region (R303). -/
def State.seqAhead (s : State) (o : CopyOrder) (region : Nat) : Nat :=
  (o.u 46 2 + 2 ^ 16 - SMap.get (fun _ => 0) s.reduceNext region % 2 ^ 16) % 2 ^ 16

/-- Whether a queued job waits for its sequence turn (R303). -/
def State.waitsTurn (s : State) (o : CopyOrder) : Bool :=
  match s.copyRegion o with
  | some g => decide (1 ≤ s.seqAhead o g) && decide (s.seqAhead o g < 32768)
  | none => false

/-- Places of a unit's completion buffer that are held: messages that have not entered their inbox (R296, R307). -/
def State.copyHeld (s : State) (pod : Nat) : Nat := (s.mail.filter (fun e => e.2.sender = copySender pod)).length

/-- A stop of the partition of a pod, which starts no new job (R404). -/
def State.podStopping (s : State) (pod : Nat) : Bool :=
  match s.partOf (s.core (8 * pod)) with
  | some p => (match (s.partition p).stop with | .stopped _ _ _ => true | _ => false)
  | none => false

/-- A job starts: it is checked, and an error completes it with nothing moved (R296, R303, R305). -/
def State.beginJob (s : State) (pod e : Nat) (j : CopyJob) : State :=
  let region := s.copyRegion j.order
  let stale := match region with | some g => decide (32768 ≤ s.seqAhead j.order g) | none => false
  let err : Option Byte := if stale then some 0x08 else s.copyError j.order
  let j := { j with stage := .active, region := if stale then none else region, stamp := s.nextId }
  let s := { s with nextId := s.nextId + 1 }
  match err with
  | some q =>
    (s.setCopyUnit pod ((s.copyUnit pod).setJob e { j with failure := some (0x19, q, 0), cursor := none })).postCore s.now (8 * pod) (.copyJobComplete pod e)
  | none => s.setCopyUnit pod ((s.copyUnit pod).setJob e j)

/-- The core whose oldest startable job comes next, with that job (R296). -/
def State.nextJob (s : State) (pod : Nat) : Option (Nat × Nat × CopyJob) :=
  let u := s.copyUnit pod
  let q := u.jobs.filter (fun e => e.2.stage = .queued && !s.waitsTurn e.2.order)
  match cyclicFirst 8 u.sptr (fun i => q.any (fun e => e.2.order.core % 8 = i)) with
  | none => none
  | some i =>
    match q.filter (fun e => e.2.order.core % 8 = i) with
    | [] => none
    | h :: t => some (i, t.foldl (fun m x => if x.2.seq < m.2.seq then x else m) h)

/-- Active jobs of a unit (R296). -/
def CopyUnit.active (u : CopyUnit) : Nat := (u.jobs.filter (fun e => e.2.stage != .queued)).length

/-- The start step: active slots are filled while the completion buffer has a free place (R296). -/
def State.startJobs (s : State) (pod : Nat) : (fuel : Nat) → State
  | 0 => s
  | fuel + 1 =>
    if 4 ≤ (s.copyUnit pod).active ∨ 8 ≤ s.copyHeld pod ∨ s.podStopping pod = true then s
    else
      match s.nextJob pod with
      | none => s
      | some (i, e, j) =>
        let s := s.beginJob pod e j
        State.startJobs (s.setCopyUnit pod { s.copyUnit pod with sptr := i }) pod fuel

/-! ### Completion (R305 to R307) -/

/-- The completion message of a job (R306). -/
def State.copyMessage (s : State) (e : Nat) (x : CopyEntry) (j : CopyJob) : Message :=
  let f := j.failure.getD (0, 0, 0)
  let data :=
    match j.device with
    | some d => if d ≠ 0 ∧ f.2.1 = 0x07 then 0x07 * 2 ^ 56 + 3 * 2 ^ 53 + d.toNat * 2 ^ 32 + j.written % 2 ^ 32
                else f.2.1.toNat * 2 ^ 56 + f.2.2 * 2 ^ 53 + j.written % 2 ^ 48
    | none => f.2.1.toNat * 2 ^ 56 + f.2.2 * 2 ^ 53 + j.flags % 32 * 2 ^ 48 + j.written % 2 ^ 48
  Message.mk 0x01 f.1 (BitVec.ofNat 16 (x.gen % 256 * 256 + e)) (BitVec.ofNat 32 (s.core j.order.core).rank) (BitVec.ofNat 64 data)

/-- Steps 5 and 6 of R306: the message is posted when the completion buffer has a place, and the entry is freed. -/
def State.postJob (s : State) (pod e : Nat) : State :=
  let u := s.copyUnit pod
  let x := u.entry e
  match x.job with
  | none => s
  | some j =>
    if !j.order.quiet && decide (8 ≤ s.copyHeld pod) then s
    else
      let s := s.setCopyUnit pod (u.setEntry e { x with job := none, gen := (x.gen + 1) % 2 ^ 24 })
      let s :=
        if j.order.quiet then s
        else
          let o := j.order
          s.sendMail (routerOfCore o.core) 0 (copySender pod) o.core (s.pidOf o.core) (s.copyMessage e x j)
      let s := s.kickCopy pod
      match (s.core j.order.core).launch with
      | some l => s.postOnce s.now j.order.core (.launchCompletion l)
      | none => s

/-- Jobs whose messages wait for a place, in the order of their completion (R307). -/
def State.postWaiting (s : State) (pod : Nat) : State :=
  let js := (s.copyUnit pod).jobs.filterMap (fun e => match e.2.stage with | .posting k => some (k, e.1) | _ => none)
  (js.foldl (fun r x => SMap.insert r x.1 x.2) []).foldl (fun t x => t.postJob pod x.2) s

/-- COPY_JOB_COMPLETE (R302, R303, R306): counters, then the status and the ranges, then the message and the entry. A job that ends while its COPY still waits for room in the scoreboard has no ranges to record, and its core goes on with its handle (R296, R299; DEDUCED, log 27). -/
def execCopyJobComplete (pod e : Nat) (s : State) : Host.Outcome State Fault Refusal :=
  let u := s.copyUnit pod
  let x := u.entry e
  match x.job with
  | none => .next s
  | some j =>
    if j.stage != .active then .next s
    else
      let s := if j.recorded then s else s.giveHandle pod e j []
      let o := j.order
      let moved := j.failure.isNone || decide ((j.failure.map (fun f => f.2.2)).getD 0 ≠ 0)
      let s :=
        if o.dcnt && moved then
          o.recipients.foldl (fun t r => match t.flatOf o.core r with | some c => t.bumpCounter c o.n | none => t) s
        else s
      let s := if o.cen then s.bumpCounter o.core o.n else s
      let c := s.core o.core
      let s := s.setCore o.core { c with ranges := c.ranges.filter (fun r => r.owner != e) }
      let s := match j.region with
        | some g => { s with reduceNext := SMap.set (fun _ => 0) s.reduceNext g ((SMap.get (fun _ => 0) s.reduceNext g + 1) % 2 ^ 16) }
        | none => s
      let s := s.copyTrace 4 e x j
      let j := { j with stage := .posting u.completed, recorded := true }
      let u := { u with completed := u.completed + 1 }
      let s := s.setCopyUnit pod (u.setEntry e { x with status := (j.failure.map (·.1)).getD 0, job := some j })
      let s := s.rangesCleared o.core
      -- a region's next turn may belong to a job of another unit
      let s := match j.region with
        | some _ => s.copyUnits.foldl (fun (t : State) (q : Nat × CopyUnit) => if q.2.jobs.isEmpty then t else t.kickCopy q.1) s
        | none => s
      .next (s.postWaiting pod)

/-! ### Requests (R296, R310) -/

/-- A request of an engine, checked as one of a core (R234, R310). -/
def engineReq (core : Nat) (client : Client) (op : ReqOp) (ea : Word) (writes : Bool) : Req :=
  { core := core, client := client, seq := 0, op := op, near := false, ea := ea, acquire := false, release := none, blocks := false
    handler := false, result := none, dst := none, dst2 := none, vec := none, reg := 0, opc := 0, cls := none, writes := writes
    sentAt := 0, cycles := 0, stage := .sent, withdrawn := false }

/-- An engine's request is sent; it sets no TSM bit (R310). -/
def State.sendEngine (s : State) (r : Req) : State :=
  let id := s.nextId
  (State.setReq { s with nextId := id + 1 } id r).send id

/-- The start, the destination and the length of the piece at a row and an offset; none past the job's last row or block (R296, R301, R302). -/
def State.pieceAt (s : State) (o : CopyOrder) (row off : Nat) : Option (Word × Word × Nat × Nat) :=
  if o.form = 2 then
    if o.blocks ≤ row then none
    else
      let blk := o.u 32 2
      let total := min blk (o.len - row * blk)
      match s.flatOf o.core (o.dealRank row) with
      | some c =>
        let d := s.sliceAddress c + o.u 40 4 + row / o.u 34 1 * blk + off
        some (BitVec.ofNat 64 (o.src + row * blk + off), BitVec.ofNat 64 d, min (256 - d % 256) (total - off), total)
      | none => none
  else if o.rows ≤ row then none
  else
    let src := wordOf (o.src + (row : Int) * o.stride false + off)
    let d := wordOf (o.dest + (row : Int) * o.stride true + off)
    some (src, d, min (256 - d.toNat % 256) (o.len - off), o.len)

/-- The reads of a piece, cut at the 256-byte boundaries of its source (R296). -/
def pieceReads (piece : Nat) (src : Word) : (fuel off left : Nat) → List CopyRead
  | 0, _, _ => []
  | fuel + 1, off, left =>
    if left = 0 then []
    else
      let a := src + BitVec.ofNat 64 off
      let n := min left (256 - a.toNat % 256)
      ⟨piece, off, a, n⟩ :: pieceReads piece src fuel (off + n) (left - n)

/-- The next piece of a job cut from its rows (R296). -/
def State.cutPiece (s : State) (j : CopyJob) : CopyJob :=
  match j.cursor with
  | none => j
  | some (row, off) =>
    match s.pieceAt j.order row off with
    | none => { j with cursor := none }
    | some (src, dst, n, total) =>
      let rs := pieceReads j.nextPiece src 4 0 n
      let next := if off + n < total then (row, off + n) else (row + 1, 0)
      { j with
        cursor := (s.pieceAt j.order next.1 next.2).map (fun _ => next)
        nextPiece := j.nextPiece + 1
        reads := rs
        pieces := SMap.put j.pieces j.nextPiece ⟨dst, n, 0, rs.length⟩ }

/-- Whether an active job has a request ready (R296). -/
def CopyJob.hasRequest (j : CopyJob) : Bool :=
  j.stage = .active && j.failure.isNone &&
    (if j.order.form = 4 then !j.command else !j.ready.isEmpty || !j.reads.isEmpty || j.cursor.isSome)

/-- The namespace of a storage job (R300). -/
def CopyOrder.ns (o : CopyOrder) : Nat := o.u 48 2

/-- The slots of a namespace's queues (R466). -/
def State.queueDepth (s : State) (ns : Nat) : Nat := 2 ^ bitsOf (s.storageWord ns 32) 47 40

/-- Active storage jobs of a namespace that have still to submit their command, by pod. -/
def State.unsubmitted (s : State) (ns : Nat) : List (Nat × CopyJob) :=
  s.copyUnits.flatMap (fun u => (u.2.jobs.filter (fun e => e.2.order.form = 4 && e.2.order.ns = ns && e.2.stage = .active && e.2.failure.isNone && !e.2.command)).map (fun e => (u.1, e.2)))

/-- A storage job may submit its command: its namespace's queue has a slot, and every job of it that started earlier has submitted its own (R466; log 51). -/
def State.storageTurn (s : State) (j : CopyJob) : Bool :=
  decide ((s.nvme.filter (fun c => c.ns = j.order.ns)).length + 1 < s.queueDepth j.order.ns) &&
    (s.unsubmitted j.order.ns).all (fun x => decide (j.stamp ≤ x.2.stamp))

/-- Whether a job has a request that it may send now (R296, R466). -/
def State.mayRequest (s : State) (j : CopyJob) : Bool := j.hasRequest && (decide (j.order.form ≠ 4) || s.storageTurn j)

/-- Units with a storage job that waits to submit its command look again. -/
def State.kickStorage (s : State) (ns : Nat) : State := (s.unsubmitted ns).foldl (fun t x => t.kickCopy x.1) s

/-- A PCIe write of the package to an address that a storage-table entry gives: bytes of a queue in host memory, or a doorbell (R466). -/
def State.pcieStore (s : State) (addr n v : Nat) : State := s.deviceStore (hostKey (addr % 2 ^ 60)) n v

/-- The submission-queue entry of a command, as NVM Express lays it out, with the two PRP entries that name its HBM run through BAR2 (R466; PRESUMED, log 51). -/
def NvmeCommand.entryBytes (c : NvmeCommand) (prp1 prp2 : Word) : List Byte :=
  bytesOf 2 0x02 ++ bytesOf 2 c.slot ++ bytesOf 4 c.nsid.toNat ++ bytesOf 16 0 ++ bytesOf 8 prp1.toNat ++ bytesOf 8 prp2.toNat ++
    bytesOf 8 c.lba ++ bytesOf 2 (c.blocks - 1) ++ bytesOf 14 0

/-- The command of a storage job submitted: one run of logical blocks, as an entry of its namespace's submission queue, and then the queue's doorbell (R466). -/
def State.submit (s : State) (pod e : Nat) (o : CopyOrder) : State :=
  let slot := SMap.get (fun _ => 0) s.nvmeTail o.ns
  let tail := (slot + 1) % s.queueDepth o.ns
  let c : NvmeCommand := ⟨pod, e, o.ns, (s.storageWord o.ns 32).setWidth 32, slot, o.src, o.len / s.blockSize o.ns, BitVec.ofNat 64 o.dest, o.len⟩
  let f := s.takeFree
  let g := f.2.takeFree
  let s := g.2.pcieStore ((s.storageWord o.ns 0).toNat + 64 * slot) 64 (leValue (c.entryBytes (Config.freeWord f.1) (Config.freeWord g.1)))
  let s := s.pcieStore (s.storageWord o.ns 16).toNat 4 tail
  State.kickStorage { s with nvme := s.nvme ++ [c], nvmeTail := SMap.set (fun _ => 0) s.nvmeTail o.ns tail } o.ns

/-- The completion doorbell of a namespace rung: the place after the last completion taken, which is that of the oldest command still out (R466). -/
def State.ringCompletion (s : State) (ns : Nat) : State :=
  let depth := s.queueDepth ns
  let out := (s.nvme.filter (fun c => c.ns = ns)).length
  s.pcieStore (s.storageWord ns 24).toNat 4 ((SMap.get (fun _ => 0) s.nvmeTail ns + depth - out % depth) % depth)

/-- COPY_JOB_START (R296, R307): completions are posted and queued jobs start; the issue step of the cycle comes after it. -/
def execCopyJobStart (pod : Nat) (s : State) : Host.Outcome State Fault Refusal := .next ((s.postWaiting pod).startJobs pod 64)

/-- Whether a job has nothing left to do: all of its requests have their responses, and none is to be sent (R306). -/
def CopyJob.finished (j : CopyJob) : Bool :=
  j.stage = .active && j.out = 0 &&
    (j.failure.isSome || (j.order.form ≠ 4 && j.ready.isEmpty && j.reads.isEmpty && j.cursor.isNone))

/-- A job's completion is posted when it has nothing left to do. -/
def State.checkJob (s : State) (pod e : Nat) : State :=
  match ((s.copyUnit pod).entry e).job with
  | some j => if j.finished then s.postOnce s.now (8 * pod) (.copyJobComplete pod e) else s
  | none => s

/-- Credit on VC1 at the pod's router: no packet of it waits to enter (R238, R296). -/
def State.copyCredit (s : State) (pod : Nat) : Bool := (s.buf (bufIdx (routerOfCore (8 * pod)) 0 1)).waiting.isEmpty

/-- One request of a job is sent: a write whose data has arrived before the next read; the order is open (R296). -/
def State.sendCopy (s : State) (pod e : Nat) (j : CopyJob) : State :=
  let put (s : State) (j : CopyJob) : State := s.setCopyUnit pod ((s.copyUnit pod).setJob e j)
  let o := j.order
  if o.form = 4 then (put s { j with command := true }).submit pod e o
  else
    match j.ready with
    | p :: rest =>
      match SMap.find j.pieces p with
      | some x =>
        let op := if o.form = 3 then ReqOp.reduce (o.u 44 1) (o.u 45 1) x.bytes x.value else ReqOp.store x.bytes x.value
        (put s { j with ready := rest, out := j.out + 1 }).sendEngine (engineReq o.core (.copy pod e p 0 true) op x.dst true)
      | none => put s { j with ready := rest }
    | [] =>
      let j := if j.reads.isEmpty then s.cutPiece j else j
      match j.reads with
      | r :: rest =>
        (put s { j with reads := rest, out := j.out + 1 }).sendEngine
          (engineReq o.core (.copy pod e r.piece r.off false) (.load r.bytes false) r.ea false)
      | [] => (put s j).checkJob pod e

/-- COPY_REQUEST_ISSUE (R296): one request of the next active job that has one, with credit on VC1. -/
def execCopyRequestIssue (pod : Nat) (s : State) : Host.Outcome State Fault Refusal :=
  let u := s.copyUnit pod
  let want := u.jobs.filter (fun e => s.mayRequest e.2)
  if want.isEmpty then .next s
  else
    if !s.copyCredit pod then .next (s.kickCopy pod)
    else
      match cyclicFirst 64 u.iptr (fun i => want.any (fun e => e.1 = i)) with
      | none => .next s
      | some e =>
        match (u.entry e).job with
        | none => .next s
        | some j =>
          let s := (s.setCopyUnit pod { u with iptr := e }).sendCopy pod e j
          .next (if (s.copyUnit pod).jobs.any (fun e => s.mayRequest e.2) then s.kickCopy pod else s)

/-- A response of a job's request taken in: data of a read, bytes and flags of a write, or the job's first failure (R305, R306). -/
def State.copyResponse (s : State) (pod e piece : Nat) (id : Nat) (off : Nat) (write : Bool) (a : Answer) : State :=
  let s := s.dropReq id
  let u := s.copyUnit pod
  let x := u.entry e
  match x.job with
  | none => s
  | some j =>
    let j := { j with out := j.out - 1 }
    let put (j : CopyJob) : State := s.setCopyUnit pod (u.setJob e j)
    match a, SMap.find j.pieces piece with
    | .fail code qual, _ =>
      (put { j with failure := if j.failure.isSome then j.failure else some (code, qual, if write then 2 else 1), ready := [], reads := [], cursor := none }).checkJob pod e
    | .ok v st, some p =>
      if write then
        (put { j with written := j.written + p.bytes, flags := j.flags ||| st, pieces := SMap.erase j.pieces piece }).checkJob pod e
      else
        let p := { p with value := p.value + v * 256 ^ off, left := p.left - 1 }
        let j := { j with pieces := SMap.put j.pieces piece p }
        if p.left = 0 && j.failure.isNone then
          (put { j with ready := j.ready ++ [piece] }).kickCopy pod
        else (put j).checkJob pod e
    | .ok _ _, none => (put j).checkJob pod e

/-- COPY_PIECE_WRITE (R296): responses of a piece are taken in, and once all of its data has arrived its write is ready to be sent. -/
def execCopyPieceWrite (pod entry piece : Nat) (s : State) : Host.Outcome State Fault Refusal :=
  .next (s.reqs.foldl (fun t q =>
    match q.2.client, q.2.stage with
    | .copy p e x off w, .returned a => if p = pod ∧ e = entry ∧ x = piece then t.copyResponse pod e x q.1 off w a else t
    | _, _ => t) s)

/-! ### Storage (R304, R466) -/

/-- A storage job with every block landed, or one that has failed, completes once its device status is known; the data read is logged, or compared in a replay (R304, R451, R453). -/
def State.checkStorage (s : State) (pod e : Nat) : State :=
  let u := s.copyUnit pod
  let x := u.entry e
  match x.job with
  | none => s
  | some j =>
    let o := j.order
    let ns := o.u 48 2
    match j.device with
    | none => s
    | some d =>
      let finish (s : State) (j : CopyJob) : State :=
        (s.setCopyUnit pod ((s.copyUnit pod).setJob e j)).postOnce s.now (8 * pod) (.copyJobComplete pod e)
      let j := if d ≠ 0 && j.failure.isNone then { j with failure := some (0x19, 0x07, 3) } else j
      if j.failure.isNone && decide (j.blocks.length * s.blockSize ns < o.len) then s
      else
        let crc := crc32c (j.blocks.flatMap Prod.snd)
        let h := (jobHandle x.gen e).toNat
        match s.launchOf o.core with
        | some (n, l) =>
          if l.replay then
            match s.logFind l 0x12 (fun i => s.logField l.part i 24 4 = h && s.logField l.part i 4 4 = (s.core o.core).rank) with
            | some i =>
              let same := decide (s.logField l.part i 44 4 = crc)
              let s := s.logUse n i
              if same then finish s j else finish (s.diverge n) { j with failure := if j.failure.isSome then j.failure else some (0x19, 0x09, 3) }
            | none => finish (s.diverge n) j
          else
            let c := s.core o.core
            let r := traceRecord 0x12 c.rank c.ssc s.tick
              (bytesOf 4 h ++ bytesOf 4 ns ++ bytesOf 8 o.src ++ bytesOf 4 o.len ++ bytesOf 4 crc)
            finish (s.logFor n r) j
        | none => finish s j

/-- BAR2_PEER_WRITE (R466): a controller writes one logical block of a storage copy into HBM. -/
def execBar2PeerWrite (pod entry block : Nat) (data : List Byte) (s : State) : Host.Outcome State Fault Refusal :=
  let u := s.copyUnit pod
  let x := u.entry entry
  match x.job with
  | none => .next s
  | some j =>
    let o := j.order
    let size := s.blockSize (o.u 48 2)
    if !(j.stage = .active && j.command && o.form = 4) || decide (o.len ≤ block * size) || data.length ≠ size then .next s
    else
      let w := s.unitWrite (o.core / 1024) (s.vfOf o.core) (s.partOf (s.core o.core)) (BitVec.ofNat 64 (o.dest + block * size)) size (leValue data) none (some o.core)
      let j' :=
        match w.1 with
        | some c => { j with failure := if j.failure.isSome then j.failure else some (c.1, c.2, 2), blocks := SMap.put j.blocks block data }
        | none =>
          { j with
            written := if (SMap.find j.blocks block).isSome then j.written else j.written + size
            blocks := SMap.put j.blocks block data }
      let t := w.2.setCopyUnit pod (u.setJob entry j')
      let t := if w.1.isNone then t.noteLanded pod entry else t
      .next (t.checkStorage pod entry)

/-- NVME_COMPLETION (R304, R466): the device status of a storage job; the completion queue's doorbell is rung. -/
def execNvmeCompletion (pod entry : Nat) (status : BitVec 16) (s : State) : Host.Outcome State Fault Refusal :=
  let u := s.copyUnit pod
  match (u.entry entry).job with
  | none => .next s
  | some j =>
    if j.stage = .active && j.command && j.order.form = 4 && j.device.isNone then
      let s := State.kickStorage { s with nvme := s.nvme.filter (fun c => !(c.pod = pod && c.entry = entry)) } j.order.ns
      let s := s.ringCompletion j.order.ns
      .next ((s.setCopyUnit pod ((s.copyUnit pod).setJob entry { j with device := some status })).checkStorage pod entry)
    else .next s

/-! ### The instructions (R298, R299, R308) -/

/-- COPY: b, c[5] and m[7:5] zero (R298). -/
def sigCopy : Sig where
  op := 0xB00
  lat := 2
  roles := fun _ => { d := .gw, a := .gr }
  reserved := fun o => o.b != 0 || o.c.getLsbD 5 || decide (32 ≤ o.m.toNat)
  refuses := fun _ o => decide (5 ≤ o.m.toNat % 8) || (o.m.getLsbD 4 && (o.m.toNat % 8 != 2 || !o.c.getLsbD 4))

/-- COPY (R298, R299): the descriptor is read as a local load, and the core waits for the queue. -/
def execCopy (t : TailD) (s : State) : Host.Outcome State Fault Refusal :=
  issue sigCopy (opndD t) s fun o s =>
    let ea := (s.cc.eaD o).toNat
    match s.localCheck false 64 [(ea, 64)] with
    | some r => r
    | none =>
      let pod := s.cur / 8
      let order : CopyOrder :=
        { core := s.cur, desc := Memory.readBytes s.mem (sliceKey s.cur ea) 64, form := o.m.toNat % 8
          n := o.c.toNat % 16, cen := o.c.getLsbD 4
          dcnt := o.m.getLsbD 4, quiet := o.m.getLsbD 3, dst := s.cc.phys o.d
          due := let vec := s.cc.clock.vec; vec.edge (vec.index s.now + 2) }
      let u := s.copyUnit pod
      let s := s.takeSlice.setCopyUnit pod { u with waiting := u.waiting.filter (fun x => x.core != s.cur) ++ [order] }
      .sleep (s.kickCopy pod) .copy

/-- A COPY that still waits at the queue is withdrawn: no job is queued (R299). -/
def State.withdrawCopy (s : State) (core : Nat) : State :=
  let u := s.copyUnit (core / 8)
  s.setCopyUnit (core / 8) { u with waiting := u.waiting.filter (fun x => x.core != core) }

/-- Whether a core's COPY still waits at the queue, where an interrupt withdraws it (R299). -/
def State.copyWaits (s : State) (core : Nat) : Bool := (s.copyUnit (core / 8)).waiting.any (fun x => x.core = core)

/-- r of R308 for a handle of this pod's unit. -/
def CopyUnit.test (u : CopyUnit) (h : Word) : Nat :=
  if bitsOf h 63 32 ≠ 0 ∨ 64 ≤ bitsOf h 7 0 then 3
  else
    let x := u.entry (bitsOf h 7 0)
    let gen := bitsOf h 31 8
    if x.job.isSome then (if x.gen = gen then 0 else 2)
    else if x.gen = (gen + 1) % 2 ^ 24 then 1 + x.status.toNat * 256
    else 2

/-- JTEST, JWAIT: b, c and m zero (R308). -/
def sigJtest (op : Opcode) : Sig where
  op := op
  lat := 2
  roles := fun _ => { d := .gw, a := .gr }
  reserved := fun o => o.b != 0 || o.c != 0 || o.m != 0

/-- The result of a test, 2 cycles on; a result of 1 acquires (R308). -/
def State.testResult (s : State) (o : Opnd) (r : Nat) : State :=
  let c := s.cc
  let s := s.putVar (.at (s.now + 2 * c.clock.pipePeriod)) [o.d] [] [.gen (c.phys o.d) (BitVec.ofNat 64 r)] false
  if r % 256 = 1 then s.acquireIn 2 else s

/-- JTEST (R308). -/
def execJtest (t : TailW) (s : State) : Host.Outcome State Fault Refusal :=
  issue (sigJtest 0xB01) (opndW t) s fun o s => .done (s.testResult o ((s.copyUnit (s.cur / 8)).test (s.cc.readG o.a)))

/-- JWAIT (R308): it sleeps while the result would be 0. -/
def execJwait (t : TailW) (s : State) : Host.Outcome State Fault Refusal :=
  issue (sigJtest 0xB02) (opndW t) s fun o s =>
    let r := (s.copyUnit (s.cur / 8)).test (s.cc.readG o.a)
    if r = 0 then .sleep s .condition else .done (s.testResult o r)

end Sys2Proof.Machine
end

