-- ==== Sys2Proof/Machine/Scalar.lean ====
section
/-! DEFINITION. Integer operations: classes 0x1 and 0x2 (R88 to R100). -/

namespace Sys2Proof.Machine

/-! ### Operations on typed operands (R90, R91) -/

/-- The shift count, Trunc(G(b), 6) mod N (R90). -/
def shiftBy (y : Int) (t : IType) : Nat := pat y t.width % 64 % t.width

/-- ADD (R90). -/
def opAdd (x y : Int) (_ : IType) : Int := x + y
/-- SUB (R90). -/
def opSub (x y : Int) (_ : IType) : Int := x - y
/-- MUL (R90). -/
def opMul (x y : Int) (_ : IType) : Int := x * y
/-- MULH: the high half of the 2N-bit product (R90). -/
def opMulh (x y : Int) (t : IType) : Int := (x * y) / (2 ^ t.width : Int)
/-- DIV: truncated toward zero, and all ones for a zero divisor (R91). -/
def opDiv (x y : Int) (t : IType) : Int := if y = 0 then 2 ^ t.width - 1 else Int.tdiv x y
/-- REM: the dividend for a zero divisor (R91). -/
def opRem (x y : Int) (_ : IType) : Int := if y = 0 then x else x - Int.tdiv x y * y
/-- AND, on patterns (R90). -/
def opAnd (x y : Int) (t : IType) : Int := ((pat x t.width &&& pat y t.width : Nat) : Int)
/-- OR, on patterns (R90). -/
def opOr (x y : Int) (t : IType) : Int := ((pat x t.width ||| pat y t.width : Nat) : Int)
/-- XOR, on patterns (R90). -/
def opXor (x y : Int) (t : IType) : Int := ((pat x t.width ^^^ pat y t.width : Nat) : Int)
/-- ANDN: x AND NOT y, on patterns (R90). -/
def opAndn (x y : Int) (t : IType) : Int := ((pat x t.width &&& (2 ^ t.width - 1 - pat y t.width) : Nat) : Int)
/-- ORN: x OR NOT y, on patterns (R90). -/
def opOrn (x y : Int) (t : IType) : Int := ((pat x t.width ||| (2 ^ t.width - 1 - pat y t.width) : Nat) : Int)
/-- SHL (R90). -/
def opShl (x y : Int) (t : IType) : Int := ((pat x t.width * 2 ^ shiftBy y t : Nat) : Int)
/-- SHR, a logical shift (R90). -/
def opShr (x y : Int) (t : IType) : Int := ((pat x t.width / 2 ^ shiftBy y t : Nat) : Int)
/-- SAR, an arithmetic shift for either signedness (R90). -/
def opSar (x y : Int) (t : IType) : Int := signExt (pat x t.width) t.width / (2 ^ shiftBy y t : Int)
/-- ROL (R90). -/
def opRol (x y : Int) (t : IType) : Int :=
  let p := pat x t.width
  let k := shiftBy y t
  ((p * 2 ^ k + p / 2 ^ (t.width - k) : Nat) : Int)
/-- ROR (R90). -/
def opRor (x y : Int) (t : IType) : Int :=
  let p := pat x t.width
  let k := shiftBy y t
  ((p / 2 ^ k + p * 2 ^ (t.width - k) : Nat) : Int)
/-- MIN (R90). -/
def opMin (x y : Int) (_ : IType) : Int := if x ≤ y then x else y
/-- MAX (R90). -/
def opMax (x y : Int) (_ : IType) : Int := if x ≤ y then y else x
/-- ABS (R90). -/
def opAbs (x : Int) (t : IType) : Int := if t.signed && decide (x < 0) then -x else x
/-- NEG (R90). -/
def opNeg (x : Int) (_ : IType) : Int := -x
/-- CLZ (R90). -/
def opClz (x : Int) (t : IType) : Int := (countLeading t.width (pat x t.width) : Int)
/-- CTZ (R90). -/
def opCtz (x : Int) (t : IType) : Int := (countTrailing t.width (pat x t.width) : Int)
/-- POPC (R90). -/
def opPopc (x : Int) (t : IType) : Int := (popCount t.width (pat x t.width) : Int)
/-- BREV (R90). -/
def opBrev (x : Int) (t : IType) : Int := (reverseBits t.width (pat x t.width) : Int)
/-- BSWAP (R90). -/
def opBswap (x : Int) (t : IType) : Int := (reverseBytes (t.width / 8) (pat x t.width) : Int)

/-! ### Operand forms (R89, R98) -/

/-- A binary register form: d, a and b registers, c and m[7:3] zero (R89). -/
def sigBinary (op : Opcode) (lat : Nat) : Sig where
  op := op
  lat := lat
  roles := fun _ => { d := .gw, a := .gr, b := .gr }
  reserved := fun o => o.c != 0 || decide (8 ≤ o.m.toNat)

/-- The time a division takes: open up to 36 cycles for 64 bits, and less for narrower types (R91, log 5). -/
def divLatency (t : IType) (k : Nat) : Nat := 1 + Config.latency k % (if t.width = 64 then 36 else 35)

/-- DIV and REM: a binary form whose latency is the next free one (R50, R91). -/
def sigDivide (op : Opcode) : Sig := { sigBinary op 1 with slow := fun s _ o => divLatency o.mtype s.free - 1 }

/-- A unary form: d and a registers, b, c and m[7:3] zero (R89). -/
def sigUnary (op : Opcode) : Sig where
  op := op
  lat := 1
  roles := fun _ => { d := .gw, a := .gr }
  reserved := fun o => o.b != 0 || o.c != 0 || decide (8 ≤ o.m.toNat)

/-- An immediate form: d and a registers, the type in b[2:0], b[5:3] zero (R98). -/
def sigImm (op : Opcode) (lat : Nat) : Sig where
  op := op
  lat := lat
  roles := fun _ => { d := .gw, a := .gr }
  reserved := fun o => decide (8 ≤ o.b.toNat)

/-- An immediate shift or rotate: the count lies in 0 to N − 1 (R98). -/
def sigImmShift (op : Opcode) : Sig where
  op := op
  lat := 1
  roles := fun _ => { d := .gw, a := .gr }
  reserved := fun o => decide (8 ≤ o.b.toNat)
  refuses := fun _ o => decide (o.btype.width ≤ o.imm.toNat)

/-- The effect of a binary register form: WriteT(d, v, T) (R88, R90). -/
def binary (f : Int → Int → IType → Int) (lat : Nat) (o : Opnd) (s : State) : Result :=
  let t := o.mtype
  .done (s.putG o.d (writeT (f (s.cc.readGT o.a t) (s.cc.readGT o.b t) t) t) lat)

/-- The effect of a unary form (R88, R90). -/
def unary (f : Int → IType → Int) (o : Opnd) (s : State) : Result :=
  let t := o.mtype
  .done (s.putG o.d (writeT (f (s.cc.readGT o.a t) t) t) 1)

/-- The effect of an immediate form (R98). -/
def immediate (f : Int → Int → IType → Int) (lat : Nat) (o : Opnd) (s : State) : Result :=
  let t := o.btype
  .done (s.putG o.d (writeT (f (s.cc.readGT o.a t) (o.immT t) t) t) lat)

/-- The effect of DIV and REM: a variable-latency result (R91). -/
def divide (f : Int → Int → IType → Int) (o : Opnd) (s : State) : Result :=
  let t := o.mtype
  let v := writeT (f (s.cc.readGT o.a t) (s.cc.readGT o.b t) t) t
  let free := s.takeFree
  let due := s.now + divLatency t free.1 * s.cc.clock.pipePeriod
  .done (free.2.putVar (.at due) [o.d] [] [.gen (s.cc.phys o.d) v] false)

/-- A saturating sum or difference: STAT.SAT is set when it clamps (R92). -/
def saturating (e : Int) (t : IType) (o : Opnd) (s : State) : Result :=
  let r := saturate e t
  .done (s.after 1 [.gen (s.cc.phys o.d) (writeT r.1 t), .flags r.2])

/-- The effect of ADDS and SUBS (R92). -/
def binarySat (f : Int → Int → IType → Int) (o : Opnd) (s : State) : Result :=
  let t := o.mtype
  saturating (f (s.cc.readGT o.a t) (s.cc.readGT o.b t) t) t o s

/-- The effect of ADDS with an immediate (R92, R98). -/
def immediateSat (f : Int → Int → IType → Int) (o : Opnd) (s : State) : Result :=
  let t := o.btype
  saturating (f (s.cc.readGT o.a t) (o.immT t) t) t o s

/-- One bit of d replaced by a comparison's result; the other bits kept (R93). -/
def putBit (o : Opnd) (bit : Nat) (v : Bool) (s : State) : Result :=
  .done (s.putG o.d (setBits (s.cc.readG o.d) bit bit (if v then 1 else 0)) 1)

/-- CMP: d, a and b registers, c the bit index, m[5:3] the condition (R89, R93). -/
def sigCmp : Sig where
  op := 0x11B
  lat := 1
  roles := fun _ => { d := .grw, a := .gr, b := .gr }
  reserved := fun o => decide (64 ≤ o.m.toNat)
  refuses := fun _ o => decide (o.m.toNat / 8 % 8 = 7)

/-- CMP with an immediate: b[5:3] the condition, imm30[29:24] the bit index (R98). -/
def sigCmpImm : Sig where
  op := 0x21B
  lat := 1
  roles := fun _ => { d := .grw, a := .gr }
  refuses := fun _ o => decide (o.b.toNat / 8 % 8 = 7)

/-- SEL (R89, R94). -/
def sigSel : Sig where
  op := 0x11C
  lat := 1
  roles := fun _ => { d := .gw, a := .gr, b := .gr, c := .gr }
  reserved := fun o => decide (64 ≤ o.m.toNat)

/-- BFX and BFI take a field of c + 1 bits at position b that ends at bit 63 or below (R95). -/
def fieldRunsOver (o : Opnd) : Bool := decide (64 < o.b.toNat + o.c.toNat + 1)

/-- BFX (R89, R95). -/
def sigBfx : Sig where
  op := 0x11D
  lat := 1
  roles := fun _ => { d := .gw, a := .gr }
  reserved := fun o => decide (8 ≤ o.m.toNat)
  refuses := fun _ o => fieldRunsOver o || o.mtype.width != 64

/-- BFI (R89, R95). -/
def sigBfi : Sig where
  op := 0x11E
  lat := 1
  roles := fun _ => { d := .grw, a := .gr }
  reserved := fun o => o.m != 0
  refuses := fun _ o => fieldRunsOver o

/-- BSET, BCLR, BTGL, CLMUL and CLMULH: three registers and no type (R89). -/
def sigPlain (op : Opcode) (lat : Nat) : Sig where
  op := op
  lat := lat
  roles := fun _ => { d := .gw, a := .gr, b := .gr }
  reserved := fun o => o.c != 0 || o.m != 0

/-- BSET, BCLR and BTGL with an immediate index: b and imm30[29:6] zero (R98). -/
def sigBitImm (op : Opcode) : Sig where
  op := op
  lat := 1
  roles := fun _ => { d := .gw, a := .gr }
  reserved := fun o => o.b != 0 || decide (64 ≤ o.imm.toNat)

/-- One bit of a word changed by `f` (R96). -/
def bitOp (f : Bool → Bool) (x : Word) (i : Nat) : Word := setBits x i i (if f (x.getLsbD i) then 1 else 0)

/-- The effect of BSET, BCLR and BTGL with the index in a register (R96). -/
def bitRegister (f : Bool → Bool) (o : Opnd) (s : State) : Result :=
  .done (s.putG o.d (bitOp f (s.cc.readG o.a) ((s.cc.readG o.b).toNat % 64)) 1)

/-- The effect of BSET, BCLR and BTGL with an immediate index (R96). -/
def bitImmediate (f : Bool → Bool) (o : Opnd) (s : State) : Result :=
  .done (s.putG o.d (bitOp f (s.cc.readG o.a) (o.imm.toNat % 64)) 1)

/-- The 127-bit carry-less product of two registers (R97). -/
def clmulOf (s : State) (o : Opnd) : Nat := clmulNat (s.cc.readG o.a).toNat 64 (s.cc.readG o.b).toNat

/-- LI, LIH: d and imm32 only (R99). -/
def sigLoadImm (op : Opcode) (d : Role) : Sig where
  op := op
  lat := 1
  roles := fun _ => { d := d }
  reserved := fun o => o.a != 0 || o.b != 0 || o.c != 0 || o.m != 0

/-- LEA (R100). -/
def sigLea : Sig where
  op := 0x232
  lat := 1
  roles := fun _ => { d := .gw, a := .gr, b := .gr }
  reserved := fun o => o.c != 0 || decide (4 ≤ o.m.toNat)

/-! ### The instructions -/

/-- ADD (R90). -/
def execAdd (t : TailW) (s : State) : Host.Outcome State Fault Refusal :=
  issue (sigBinary 0x100 1) (opndW t) s (binary opAdd 1)

/-- SUB (R90). -/
def execSub (t : TailW) (s : State) : Host.Outcome State Fault Refusal :=
  issue (sigBinary 0x101 1) (opndW t) s (binary opSub 1)

/-- MUL (R90). -/
def execMul (t : TailW) (s : State) : Host.Outcome State Fault Refusal :=
  issue (sigBinary 0x102 3) (opndW t) s (binary opMul 3)

/-- MULH (R90). -/
def execMulh (t : TailW) (s : State) : Host.Outcome State Fault Refusal :=
  issue (sigBinary 0x103 3) (opndW t) s (binary opMulh 3)

/-- DIV (R91). -/
def execDiv (t : TailW) (s : State) : Host.Outcome State Fault Refusal :=
  issue (sigDivide 0x104) (opndW t) s (divide opDiv)

/-- REM (R91). -/
def execRem (t : TailW) (s : State) : Host.Outcome State Fault Refusal :=
  issue (sigDivide 0x105) (opndW t) s (divide opRem)

/-- AND (R90). -/
def execAnd (t : TailW) (s : State) : Host.Outcome State Fault Refusal :=
  issue (sigBinary 0x106 1) (opndW t) s (binary opAnd 1)

/-- OR (R90). -/
def execOr (t : TailW) (s : State) : Host.Outcome State Fault Refusal :=
  issue (sigBinary 0x107 1) (opndW t) s (binary opOr 1)

/-- XOR (R90). -/
def execXor (t : TailW) (s : State) : Host.Outcome State Fault Refusal :=
  issue (sigBinary 0x108 1) (opndW t) s (binary opXor 1)

/-- ANDN (R90). -/
def execAndn (t : TailW) (s : State) : Host.Outcome State Fault Refusal :=
  issue (sigBinary 0x109 1) (opndW t) s (binary opAndn 1)

/-- ORN (R90). -/
def execOrn (t : TailW) (s : State) : Host.Outcome State Fault Refusal :=
  issue (sigBinary 0x10A 1) (opndW t) s (binary opOrn 1)

/-- SHL (R90). -/
def execShl (t : TailW) (s : State) : Host.Outcome State Fault Refusal :=
  issue (sigBinary 0x10B 1) (opndW t) s (binary opShl 1)

/-- SHR (R90). -/
def execShr (t : TailW) (s : State) : Host.Outcome State Fault Refusal :=
  issue (sigBinary 0x10C 1) (opndW t) s (binary opShr 1)

/-- SAR (R90). -/
def execSar (t : TailW) (s : State) : Host.Outcome State Fault Refusal :=
  issue (sigBinary 0x10D 1) (opndW t) s (binary opSar 1)

/-- ROL (R90). -/
def execRol (t : TailW) (s : State) : Host.Outcome State Fault Refusal :=
  issue (sigBinary 0x10E 1) (opndW t) s (binary opRol 1)

/-- ROR (R90). -/
def execRor (t : TailW) (s : State) : Host.Outcome State Fault Refusal :=
  issue (sigBinary 0x10F 1) (opndW t) s (binary opRor 1)

/-- MIN (R90). -/
def execMin (t : TailW) (s : State) : Host.Outcome State Fault Refusal :=
  issue (sigBinary 0x110 1) (opndW t) s (binary opMin 1)

/-- MAX (R90). -/
def execMax (t : TailW) (s : State) : Host.Outcome State Fault Refusal :=
  issue (sigBinary 0x111 1) (opndW t) s (binary opMax 1)

/-- ADDS (R92). -/
def execAdds (t : TailW) (s : State) : Host.Outcome State Fault Refusal :=
  issue (sigBinary 0x112 1) (opndW t) s (binarySat opAdd)

/-- SUBS (R92). -/
def execSubs (t : TailW) (s : State) : Host.Outcome State Fault Refusal :=
  issue (sigBinary 0x113 1) (opndW t) s (binarySat opSub)

/-- ABS (R90). -/
def execAbs (t : TailW) (s : State) : Host.Outcome State Fault Refusal :=
  issue (sigUnary 0x114) (opndW t) s (unary opAbs)

/-- NEG (R90). -/
def execNeg (t : TailW) (s : State) : Host.Outcome State Fault Refusal :=
  issue (sigUnary 0x115) (opndW t) s (unary opNeg)

/-- CLZ (R90). -/
def execClz (t : TailW) (s : State) : Host.Outcome State Fault Refusal :=
  issue (sigUnary 0x116) (opndW t) s (unary opClz)

/-- CTZ (R90). -/
def execCtz (t : TailW) (s : State) : Host.Outcome State Fault Refusal :=
  issue (sigUnary 0x117) (opndW t) s (unary opCtz)

/-- POPC (R90). -/
def execPopc (t : TailW) (s : State) : Host.Outcome State Fault Refusal :=
  issue (sigUnary 0x118) (opndW t) s (unary opPopc)

/-- BREV (R90). -/
def execBrev (t : TailW) (s : State) : Host.Outcome State Fault Refusal :=
  issue (sigUnary 0x119) (opndW t) s (unary opBrev)

/-- BSWAP (R90). -/
def execBswap (t : TailW) (s : State) : Host.Outcome State Fault Refusal :=
  issue (sigUnary 0x11A) (opndW t) s (unary opBswap)

/-- CMP (R93). -/
def execCmp (t : TailW) (s : State) : Host.Outcome State Fault Refusal :=
  issue sigCmp (opndW t) s fun o s =>
    let t := o.mtype
    putBit o o.c.toNat (condition (o.m.toNat / 8 % 8) (s.cc.readGT o.a t) (s.cc.readGT o.b t) t.width) s

/-- SEL (R94). -/
def execSel (t : TailW) (s : State) : Host.Outcome State Fault Refusal :=
  issue sigSel (opndW t) s fun o s =>
    .done (s.putG o.d (if (s.cc.readG o.c).getLsbD (o.m.toNat % 64) then s.cc.readG o.a else s.cc.readG o.b) 1)

/-- BFX (R95). -/
def execBfx (t : TailW) (s : State) : Host.Outcome State Fault Refusal :=
  issue sigBfx (opndW t) s fun o s =>
    let len := o.c.toNat + 1
    let f := natBits (s.cc.readG o.a).toNat (o.b.toNat + len - 1) o.b.toNat
    .done (s.putG o.d (if o.mtype.signed then wordOf (signExt f len) else BitVec.ofNat 64 f) 1)

/-- BFI (R95). -/
def execBfi (t : TailW) (s : State) : Host.Outcome State Fault Refusal :=
  issue sigBfi (opndW t) s fun o s =>
    .done (s.putG o.d (setBits (s.cc.readG o.d) (o.b.toNat + o.c.toNat) o.b.toNat (s.cc.readG o.a).toNat) 1)

/-- BSET (R96). -/
def execBset (t : TailW) (s : State) : Host.Outcome State Fault Refusal :=
  issue (sigPlain 0x11F 1) (opndW t) s (bitRegister (fun _ => true))

/-- BCLR (R96). -/
def execBclr (t : TailW) (s : State) : Host.Outcome State Fault Refusal :=
  issue (sigPlain 0x120 1) (opndW t) s (bitRegister (fun _ => false))

/-- BTGL (R96). -/
def execBtgl (t : TailW) (s : State) : Host.Outcome State Fault Refusal :=
  issue (sigPlain 0x121 1) (opndW t) s (bitRegister (fun b => !b))

/-- CLMUL (R97). -/
def execClmul (t : TailW) (s : State) : Host.Outcome State Fault Refusal :=
  issue (sigPlain 0x122 3) (opndW t) s fun o s =>
    .done (s.putG o.d (BitVec.ofNat 64 (clmulOf s o)) 3)

/-- CLMULH (R97). -/
def execClmulh (t : TailW) (s : State) : Host.Outcome State Fault Refusal :=
  issue (sigPlain 0x123 3) (opndW t) s fun o s =>
    .done (s.putG o.d (BitVec.ofNat 64 (clmulOf s o / 2 ^ 64)) 3)

/-- ADD with an immediate (R98). -/
def execAddImm (t : TailL) (s : State) : Host.Outcome State Fault Refusal :=
  issue (sigImm 0x200 1) (opndL t) s (immediate opAdd 1)

/-- MUL with an immediate (R98). -/
def execMulImm (t : TailL) (s : State) : Host.Outcome State Fault Refusal :=
  issue (sigImm 0x202 3) (opndL t) s (immediate opMul 3)

/-- AND with an immediate (R98). -/
def execAndImm (t : TailL) (s : State) : Host.Outcome State Fault Refusal :=
  issue (sigImm 0x206 1) (opndL t) s (immediate opAnd 1)

/-- OR with an immediate (R98). -/
def execOrImm (t : TailL) (s : State) : Host.Outcome State Fault Refusal :=
  issue (sigImm 0x207 1) (opndL t) s (immediate opOr 1)

/-- XOR with an immediate (R98). -/
def execXorImm (t : TailL) (s : State) : Host.Outcome State Fault Refusal :=
  issue (sigImm 0x208 1) (opndL t) s (immediate opXor 1)

/-- SHL with an immediate (R98). -/
def execShlImm (t : TailL) (s : State) : Host.Outcome State Fault Refusal :=
  issue (sigImmShift 0x20B) (opndL t) s (immediate opShl 1)

/-- SHR with an immediate (R98). -/
def execShrImm (t : TailL) (s : State) : Host.Outcome State Fault Refusal :=
  issue (sigImmShift 0x20C) (opndL t) s (immediate opShr 1)

/-- SAR with an immediate (R98). -/
def execSarImm (t : TailL) (s : State) : Host.Outcome State Fault Refusal :=
  issue (sigImmShift 0x20D) (opndL t) s (immediate opSar 1)

/-- ROL with an immediate (R98). -/
def execRolImm (t : TailL) (s : State) : Host.Outcome State Fault Refusal :=
  issue (sigImmShift 0x20E) (opndL t) s (immediate opRol 1)

/-- ROR with an immediate (R98). -/
def execRorImm (t : TailL) (s : State) : Host.Outcome State Fault Refusal :=
  issue (sigImmShift 0x20F) (opndL t) s (immediate opRor 1)

/-- MIN with an immediate (R98). -/
def execMinImm (t : TailL) (s : State) : Host.Outcome State Fault Refusal :=
  issue (sigImm 0x210 1) (opndL t) s (immediate opMin 1)

/-- MAX with an immediate (R98). -/
def execMaxImm (t : TailL) (s : State) : Host.Outcome State Fault Refusal :=
  issue (sigImm 0x211 1) (opndL t) s (immediate opMax 1)

/-- ADDS with an immediate (R92, R98). -/
def execAddsImm (t : TailL) (s : State) : Host.Outcome State Fault Refusal :=
  issue (sigImm 0x212 1) (opndL t) s (immediateSat opAdd)

/-- CMP with an immediate (R93, R98). -/
def execCmpImm (t : TailL) (s : State) : Host.Outcome State Fault Refusal :=
  issue sigCmpImm (opndL t) s fun o s =>
    let t := o.btype
    let y := readT (wordOf (signExt o.imm.toNat 24)).toNat t
    putBit o (o.imm.toNat / 2 ^ 24 % 64) (condition (o.b.toNat / 8 % 8) (s.cc.readGT o.a t) y t.width) s

/-- BSET with an immediate (R96, R98). -/
def execBsetImm (t : TailL) (s : State) : Host.Outcome State Fault Refusal :=
  issue (sigBitImm 0x21F) (opndL t) s (bitImmediate (fun _ => true))

/-- BCLR with an immediate (R96, R98). -/
def execBclrImm (t : TailL) (s : State) : Host.Outcome State Fault Refusal :=
  issue (sigBitImm 0x220) (opndL t) s (bitImmediate (fun _ => false))

/-- BTGL with an immediate (R96, R98). -/
def execBtglImm (t : TailL) (s : State) : Host.Outcome State Fault Refusal :=
  issue (sigBitImm 0x221) (opndL t) s (bitImmediate (fun b => !b))

/-- LI (R99). -/
def execLi (t : TailD) (s : State) : Host.Outcome State Fault Refusal :=
  issue (sigLoadImm 0x230 .gw) (opndD t) s fun o s =>
    .done (s.putG o.d (wordOf (signExt o.imm.toNat 32)) 1)

/-- LIH (R99). -/
def execLih (t : TailD) (s : State) : Host.Outcome State Fault Refusal :=
  issue (sigLoadImm 0x231 .grw) (opndD t) s fun o s =>
    .done (s.putG o.d (BitVec.ofNat 64 (o.imm.toNat * 2 ^ 32 + (s.cc.readG o.d).toNat % 2 ^ 32)) 1)

/-- LEA (R100). -/
def execLea (t : TailD) (s : State) : Host.Outcome State Fault Refusal :=
  issue sigLea (opndD t) s fun o s =>
    let x : Int := (s.cc.readG o.a).toNat + (s.cc.readG o.b).toNat * 2 ^ (o.m.toNat % 4) + signExt o.imm.toNat 32
    .done (s.putG o.d (wordOf x) 1)

end Sys2Proof.Machine
end

