-- ==== Sys2Proof/Machine/VecFloat.lean ====
section
/-! DEFINITION. Floating-point vector instructions: class 0x5 (R145 to R154). -/

namespace Sys2Proof.Machine

/-- The element format F: DF, or FP32 without one (R148). -/
def FmtView.elem (v : FmtView) : Fmt := v.df.getD .f32

/-- An exact result encoded, with the flags of its operation and of its rounding (R136, R139, R149). -/
def Exact.coded (e : Exact) (F : Fmt) (v : FmtView) (fz : Bool) : Coded :=
  let r := enc F e.v v.rm 0 v.satf fz
  ⟨r.code, e.flags ||| r.flags⟩

/-- Lanes of codes packed into a vector, with their flags ORed (R139, R145). -/
def packCoded (n : Nat) (cs : List Coded) : VWord × Word :=
  (BitVec.ofNat 512 (packLanes n (cs.map (·.code))), cs.foldl (fun w c => w ||| c.flags) 0)

/-- The number of lanes of an element width (R145). -/
def laneCount (n : Nat) : Nat := 512 / n

/-- The lane values of a vector register as sources (R140, R149). -/
def State.srcLanes (s : State) (r : Field) (F : Fmt) : List FVal :=
  (lanesOf (s.cc.readV r.toNat).toNat F.width (laneCount F.width)).map (fun c => srcVal F c s.cc.fz)

/-- The fields of a floating instruction: vector registers in d and the given sources, the rest reserved (R148). -/
def sigFloat (op : Opcode) (lat : Nat) (sources : Nat) : Sig where
  op := op
  lat := lat
  roles := fun _ => { d := .vw, a := .vr, b := if 2 ≤ sources then .vr else .imm, c := if 3 ≤ sources then .vr else .imm }
  reserved := fun o => o.m != 0 || (decide (sources < 2) && o.b != 0) || (decide (sources < 3) && o.c != 0)

/-- The effect of a one-operand floating instruction (R149). -/
def float1 (f : FVal → Exact) (lat : Nat) (o : Opnd) (s : State) : Result :=
  let v := s.cc.fmt
  let F := v.elem
  let r := packCoded F.width ((s.srcLanes o.a F).map (fun x => (f x).coded F v s.cc.fz))
  .done (s.putV o.d r.1 r.2 lat)

/-- The effect of a two-operand floating instruction (R149). -/
def float2 (f : RMode → FVal → FVal → Exact) (lat : Nat) (o : Opnd) (s : State) : Result :=
  let v := s.cc.fmt
  let F := v.elem
  let xs := (s.srcLanes o.a F).zip (s.srcLanes o.b F)
  let r := packCoded F.width (xs.map (fun x => (f v.rm x.1 x.2).coded F v s.cc.fz))
  .done (s.putV o.d r.1 r.2 lat)

/-- The effect of a three-operand floating instruction (R149). -/
def float3 (f : RMode → FVal → FVal → FVal → Exact) (lat : Nat) (o : Opnd) (s : State) : Result :=
  let v := s.cc.fmt
  let F := v.elem
  let xs := (s.srcLanes o.a F).zip ((s.srcLanes o.b F).zip (s.srcLanes o.c F))
  let r := packCoded F.width (xs.map (fun x => (f v.rm x.1 x.2.1 x.2.2).coded F v s.cc.fz))
  .done (s.putV o.d r.1 r.2 lat)

/-- VMIN and VMAX round nothing (R151). -/
def minMax (greatest : Bool) (o : Opnd) (s : State) : Result :=
  let F := s.cc.fmt.elem
  let xs := (s.srcLanes o.a F).zip (s.srcLanes o.b F)
  let one (x y : FVal) : Coded := let e := fMinMax greatest x y; ⟨(roundNE e.v F).code, e.flags⟩
  let r := packCoded F.width (xs.map (fun x => one x.1 x.2))
  .done (s.putV o.d r.1 r.2 2)

/-- VABS and VNEG: a sign bit changed, and the canonical NaN for a NaN (R151). -/
def signOp (f : FVal → FVal) (o : Opnd) (s : State) : Result :=
  let F := s.cc.fmt.elem
  let one (x : FVal) : Coded := ⟨(roundNE (if x.isNan then .nan false else f x) F).code, sigFlag x⟩
  let r := packCoded F.width ((s.srcLanes o.a F).map one)
  .done (s.putV o.d r.1 r.2 2)

/-- |x| (R151). -/
def FVal.absolute : FVal → FVal
  | .nan b => .nan b
  | .inf _ => .inf false
  | .num _ m => .num false m

/-- A condition of VCMP on two values (R152). -/
def floatCondition (cc : Nat) (x y : FVal) : Bool :=
  let nan := x.isNan || y.isNan
  match cc with
  | 0 => !nan && FVal.eqv x y
  | 1 => nan || !FVal.eqv x y
  | 2 => !nan && FVal.lt x y
  | 3 => !nan && (FVal.lt x y || FVal.eqv x y)
  | 4 => !nan && FVal.lt y x
  | 5 => !nan && (FVal.lt y x || FVal.eqv x y)
  | 6 => nan
  | _ => !nan

/-- The flag of VCMP: a signalling NaN, or any NaN with an ordered condition (R152). -/
def floatConditionFlag (cc : Nat) (x y : FVal) : Word :=
  if 2 ≤ cc ∧ cc ≤ 5 ∧ (x.isNan || y.isNan) = true then fxInvalid else sigFlag x ||| sigFlag y

/-- A lane mask: bit i for lane i (R145). -/
def laneMask (bs : List Bool) : Word := BitVec.ofNat 64 (packLanes 1 (bs.map (fun b => if b then 1 else 0)))

/-- The class of a code, as the index of its bit (R154). -/
def classBit (F : Fmt) (c : Nat) : Nat :=
  match val F c with
  | .nan true => 8
  | .nan false => 9
  | .inf neg => if neg then 0 else 7
  | .num neg m =>
    if m = 0 then (if neg then 3 else 4)
    else if m < pow2 F.emin then (if neg then 2 else 5)
    else (if neg then 1 else 6)

/-- VCMP: gD, vA, vB, the condition in m[5:3] (R148). -/
def sigVcmp : Sig where
  op := 0x510
  lat := 2
  roles := fun _ => { d := .gw, a := .vr, b := .vr }
  reserved := fun o => o.c != 0 || o.m.toNat % 8 != 0 || decide (64 ≤ o.m.toNat)

/-- VSEL: vD, vA, vB and the mask register gC (R148). -/
def sigVsel : Sig where
  op := 0x511
  lat := 2
  roles := fun _ => { d := .vw, a := .vr, b := .vr, c := .gr }
  reserved := fun o => o.m != 0

/-! ### The instructions -/

/-- VADD (R149). -/
def execVadd (t : TailW) (s : State) : Host.Outcome State Fault Refusal :=
  issue (sigFloat 0x500 4 2) (opndW t) s (float2 fAdd 4)

/-- VSUB: x + (−y), a NaN y keeping its kind (R149). -/
def execVsub (t : TailW) (s : State) : Host.Outcome State Fault Refusal :=
  issue (sigFloat 0x501 4 2) (opndW t) s (float2 (fun rm x y => fAdd rm x y.negate) 4)

/-- VMUL (R149). -/
def execVmul (t : TailW) (s : State) : Host.Outcome State Fault Refusal :=
  issue (sigFloat 0x502 4 2) (opndW t) s (float2 (fun _ => fMul) 4)

/-- VFMA (R149). -/
def execVfma (t : TailW) (s : State) : Host.Outcome State Fault Refusal :=
  issue (sigFloat 0x503 4 3) (opndW t) s (float3 fFma 4)

/-- VFMS (R149). -/
def execVfms (t : TailW) (s : State) : Host.Outcome State Fault Refusal :=
  issue (sigFloat 0x504 4 3) (opndW t) s (float3 (fun rm x y z => fFma rm x y z.negate) 4)

/-- VFNMA: −(x × y) + z (R149). -/
def execVfnma (t : TailW) (s : State) : Host.Outcome State Fault Refusal :=
  issue (sigFloat 0x505 4 3) (opndW t) s (float3 (fun rm x y z => fFma rm x.negate y z) 4)

/-- VDIV (R149). -/
def execVdiv (t : TailW) (s : State) : Host.Outcome State Fault Refusal :=
  issue (sigFloat 0x506 12 2) (opndW t) s (float2 (fun _ => fDiv) 12)

/-- VSQRT (R149). -/
def execVsqrt (t : TailW) (s : State) : Host.Outcome State Fault Refusal :=
  issue (sigFloat 0x507 12 1) (opndW t) s (float1 fSqrt 12)

/-- VRCP (R149). -/
def execVrcp (t : TailW) (s : State) : Host.Outcome State Fault Refusal :=
  issue (sigFloat 0x508 6 1) (opndW t) s (float1 fRcp 6)

/-- VRSQ (R149). -/
def execVrsq (t : TailW) (s : State) : Host.Outcome State Fault Refusal :=
  issue (sigFloat 0x509 6 1) (opndW t) s (float1 fRsq 6)

/-- VEXP2 (R149). -/
def execVexp2 (t : TailW) (s : State) : Host.Outcome State Fault Refusal :=
  issue (sigFloat 0x50A 6 1) (opndW t) s (float1 fExp2 6)

/-- VLOG2 (R149). -/
def execVlog2 (t : TailW) (s : State) : Host.Outcome State Fault Refusal :=
  issue (sigFloat 0x50B 6 1) (opndW t) s (float1 fLog2 6)

/-- VMIN (R151). -/
def execVmin (t : TailW) (s : State) : Host.Outcome State Fault Refusal :=
  issue (sigFloat 0x50C 2 2) (opndW t) s (minMax false)

/-- VMAX (R151). -/
def execVmax (t : TailW) (s : State) : Host.Outcome State Fault Refusal :=
  issue (sigFloat 0x50D 2 2) (opndW t) s (minMax true)

/-- VABS (R151). -/
def execVabs (t : TailW) (s : State) : Host.Outcome State Fault Refusal :=
  issue (sigFloat 0x50E 2 1) (opndW t) s (signOp FVal.absolute)

/-- VNEG (R151). -/
def execVneg (t : TailW) (s : State) : Host.Outcome State Fault Refusal :=
  issue (sigFloat 0x50F 2 1) (opndW t) s (signOp FVal.negate)

/-- VCMP (R152). -/
def execVcmp (t : TailW) (s : State) : Host.Outcome State Fault Refusal :=
  issue sigVcmp (opndW t) s fun o s =>
    let F := s.cc.fmt.elem
    let cc := o.m.toNat / 8 % 8
    let xs := (s.srcLanes o.a F).zip (s.srcLanes o.b F)
    let flags := xs.foldl (fun w x => w ||| floatConditionFlag cc x.1 x.2) 0
    .done (s.after 2 [.gen (s.cc.phys o.d) (laneMask (xs.map (fun x => floatCondition cc x.1 x.2))), .flags flags])

/-- VSEL: lanes of A where the mask bit is 1, and of B elsewhere; patterns, with no flag (R153). -/
def execVsel (t : TailW) (s : State) : Host.Outcome State Fault Refusal :=
  issue sigVsel (opndW t) s fun o s =>
    let n := s.cc.fmt.elem.width
    let mask := s.cc.readG o.c
    let x := (s.cc.readV o.a.toNat).toNat
    let y := (s.cc.readV o.b.toNat).toNat
    let lanes := (List.range (laneCount n)).map (fun i => if mask.getLsbD i then laneOf x n i else laneOf y n i)
    .done (s.after 2 [.vec o.d.toNat (BitVec.ofNat 512 (packLanes n lanes))])

/-- VCLASS (R154). -/
def execVclass (t : TailW) (s : State) : Host.Outcome State Fault Refusal :=
  issue (sigFloat 0x512 2 1) (opndW t) s fun o s =>
    let F := s.cc.fmt.elem
    let lanes := (lanesOf (s.cc.readV o.a.toNat).toNat F.width (laneCount F.width)).map (fun c => 2 ^ classBit F c)
    .done (s.after 2 [.vec o.d.toNat (BitVec.ofNat 512 (packLanes F.width lanes))])

end Sys2Proof.Machine
end

