-- ==== Sys2Proof/Machine/VecInt.lean ====
section
/-! DEFINITION. Integer vector instructions: class 0x6 (R155 to R158). -/

namespace Sys2Proof.Machine

/-- The lanes of a vector register read as a type (R155). -/
def State.intLanes (s : State) (r : Field) (t : IType) : List Int :=
  (lanesOf (s.cc.readV r.toNat).toNat t.width (laneCount t.width)).map (fun x => readT x t)

/-- Integers packed as lanes of a type, each by its low N bits (R155). -/
def packInts (t : IType) (xs : List Int) : VWord := BitVec.ofNat 512 (packLanes t.width (xs.map (fun v => pat v t.width)))

/-- A lane's shift count, Pat(y, N) mod N (R155). -/
def laneShift (y : Int) (t : IType) : Nat := pat y t.width % t.width

/-- VSHL of one lane (R90, R155). -/
def laneShl (x y : Int) (t : IType) : Int := ((pat x t.width * 2 ^ laneShift y t : Nat) : Int)

/-- VSHR of one lane (R90, R155). -/
def laneShr (x y : Int) (t : IType) : Int := ((pat x t.width / 2 ^ laneShift y t : Nat) : Int)

/-- VSAR of one lane (R90, R155). -/
def laneSar (x y : Int) (t : IType) : Int := signExt (pat x t.width) t.width / (2 ^ laneShift y t : Int)

/-- The fields of a class 0x6 lane instruction: T in m[2:0], m[7:3] zero (R155). -/
def sigLanes (op : Opcode) (lat : Nat) : Sig where
  op := op
  lat := lat
  roles := fun _ => { d := .vw, a := .vr, b := .vr }
  reserved := fun o => o.c != 0 || decide (8 ≤ o.m.toNat)

/-- VIMAD: a third source in c (R155). -/
def sigVimad : Sig where
  op := 0x603
  lat := 4
  roles := fun _ => { d := .vw, a := .vr, b := .vr, c := .vr }
  reserved := fun o => decide (8 ≤ o.m.toNat)

/-- VICMP: a lane mask in gD, the condition in m[5:3] (R156). -/
def sigVicmp : Sig where
  op := 0x60D
  lat := 2
  roles := fun _ => { d := .gw, a := .vr, b := .vr }
  reserved := fun o => o.c != 0 || decide (64 ≤ o.m.toNat)
  refuses := fun _ o => decide (o.m.toNat / 8 % 8 = 7)

/-- VCLMUL: m[0] selects the half; m[7:1] and c zero (R157). -/
def sigVclmul : Sig where
  op := 0x60E
  lat := 4
  roles := fun _ => { d := .vw, a := .vr, b := .vr }
  reserved := fun o => o.c != 0 || decide (2 ≤ o.m.toNat)

/-- VRNG: the D tail with key and counter registers; c and m zero (R158). -/
def sigVrng : Sig where
  op := 0x60F
  lat := 4
  roles := fun _ => { d := .vw, a := .gr, b := .gr }
  reserved := fun o => o.c != 0 || o.m != 0

/-- The effect of a two-operand lane instruction (R155). -/
def lanes2 (f : Int → Int → IType → Int) (lat : Nat) (o : Opnd) (s : State) : Result :=
  let t := o.mtype
  let xs := (s.intLanes o.a t).zip (s.intLanes o.b t)
  .done (s.after lat [.vec o.d.toNat (packInts t (xs.map (fun x => f x.1 x.2 t)))])

/-- Mix of R158. -/
def vrngMix (z : Word) : Word :=
  let z := (z ^^^ (z >>> 30)) * 0xBF58_476D_1CE4_E5B9#64
  let z := (z ^^^ (z >>> 27)) * 0x94D0_49BB_1331_11EB#64
  z ^^^ (z >>> 31)

/-- Word j of a VRNG result (R158). -/
def vrngWord (key counter : Word) (j : Nat) : Word :=
  vrngMix (vrngMix (8 * counter + BitVec.ofNat 64 j) + key)

/-! ### The instructions -/

/-- VIADD (R155). -/
def execViadd (t : TailW) (s : State) : Host.Outcome State Fault Refusal :=
  issue (sigLanes 0x600 2) (opndW t) s (lanes2 opAdd 2)

/-- VISUB (R155). -/
def execVisub (t : TailW) (s : State) : Host.Outcome State Fault Refusal :=
  issue (sigLanes 0x601 2) (opndW t) s (lanes2 opSub 2)

/-- VIMUL (R155). -/
def execVimul (t : TailW) (s : State) : Host.Outcome State Fault Refusal :=
  issue (sigLanes 0x602 4) (opndW t) s (lanes2 opMul 4)

/-- VIMIN (R155). -/
def execVimin (t : TailW) (s : State) : Host.Outcome State Fault Refusal :=
  issue (sigLanes 0x604 2) (opndW t) s (lanes2 opMin 2)

/-- VIMAX (R155). -/
def execVimax (t : TailW) (s : State) : Host.Outcome State Fault Refusal :=
  issue (sigLanes 0x605 2) (opndW t) s (lanes2 opMax 2)

/-- VAND (R155). -/
def execVand (t : TailW) (s : State) : Host.Outcome State Fault Refusal :=
  issue (sigLanes 0x606 2) (opndW t) s (lanes2 opAnd 2)

/-- VOR (R155). -/
def execVor (t : TailW) (s : State) : Host.Outcome State Fault Refusal :=
  issue (sigLanes 0x607 2) (opndW t) s (lanes2 opOr 2)

/-- VXOR (R155). -/
def execVxor (t : TailW) (s : State) : Host.Outcome State Fault Refusal :=
  issue (sigLanes 0x608 2) (opndW t) s (lanes2 opXor 2)

/-- VSHL (R155). -/
def execVshl (t : TailW) (s : State) : Host.Outcome State Fault Refusal :=
  issue (sigLanes 0x609 2) (opndW t) s (lanes2 laneShl 2)

/-- VSHR (R155). -/
def execVshr (t : TailW) (s : State) : Host.Outcome State Fault Refusal :=
  issue (sigLanes 0x60A 2) (opndW t) s (lanes2 laneShr 2)

/-- VSAR (R155). -/
def execVsar (t : TailW) (s : State) : Host.Outcome State Fault Refusal :=
  issue (sigLanes 0x60B 2) (opndW t) s (lanes2 laneSar 2)

/-- VIMAD: x × y + z, by the low N bits (R155). -/
def execVimad (t : TailW) (s : State) : Host.Outcome State Fault Refusal :=
  issue sigVimad (opndW t) s fun o s =>
    let t := o.mtype
    let xs := (s.intLanes o.a t).zip ((s.intLanes o.b t).zip (s.intLanes o.c t))
    .done (s.after 4 [.vec o.d.toNat (packInts t (xs.map (fun x => x.1 * x.2.1 + x.2.2)))])

/-- VIADDS: STAT.SAT is set when a lane clamps (R92, R155). -/
def execViadds (t : TailW) (s : State) : Host.Outcome State Fault Refusal :=
  issue (sigLanes 0x60C 2) (opndW t) s fun o s =>
    let t := o.mtype
    let rs := ((s.intLanes o.a t).zip (s.intLanes o.b t)).map (fun x => saturate (x.1 + x.2) t)
    .done (s.putV o.d (packInts t (rs.map Prod.fst)) (rs.foldl (fun w r => w ||| r.2) 0) 2)

/-- VICMP (R156). -/
def execVicmp (t : TailW) (s : State) : Host.Outcome State Fault Refusal :=
  issue sigVicmp (opndW t) s fun o s =>
    let t := o.mtype
    let cc := o.m.toNat / 8 % 8
    let xs := (s.intLanes o.a t).zip (s.intLanes o.b t)
    .done (s.putG o.d (laneMask (xs.map (fun x => condition cc x.1 x.2 t.width))) 2)

/-- VCLMUL: the low or the high half of each 64-bit lane's carry-less product (R157). -/
def execVclmul (t : TailW) (s : State) : Host.Outcome State Fault Refusal :=
  issue sigVclmul (opndW t) s fun o s =>
    let x := (s.cc.readV o.a.toNat).toNat
    let y := (s.cc.readV o.b.toNat).toNat
    let half (p : Nat) : Nat := if o.m.getLsbD 0 then p / 2 ^ 64 else p % 2 ^ 64
    let lanes := (List.range 8).map (fun j => half (clmulNat (laneOf x 64 j) 64 (laneOf y 64 j)))
    .done (s.after 4 [.vec o.d.toNat (BitVec.ofNat 512 (packLanes 64 lanes))])

/-- VRNG (R158). -/
def execVrng (t : TailD) (s : State) : Host.Outcome State Fault Refusal :=
  issue sigVrng (opndD t) s fun o s =>
    let key := s.cc.readG o.a + o.imm.setWidth 64 * 0x9E37_79B9_7F4A_7C15#64
    let counter := s.cc.readG o.b
    let lanes := (List.range 8).map (fun j => (vrngWord key counter j).toNat)
    .done (s.after 4 [.vec o.d.toNat (BitVec.ofNat 512 (packLanes 64 lanes))])

end Sys2Proof.Machine
end

