-- ==== Sys2Proof/Machine/VecData.lean ====
section
/-! DEFINITION. Vector moves, conversion and block quantisation: class 0x7 (R159 to R164). -/

namespace Sys2Proof.Machine

/-- Bits [hi:lo) of a vector replaced, by their position and count. -/
def putBits (x pos n v : Nat) : Nat :=
  x / 2 ^ (pos + n) * 2 ^ (pos + n) + v % 2 ^ n * 2 ^ pos + x % 2 ^ pos

/-- A vector pattern as a register value. -/
def vecOf (x : Nat) : VWord := BitVec.ofNat 512 x

/-- The vector register of a field, as a natural number. -/
def State.vecNat (s : State) (r : Field) : Nat := (s.cc.readV r.toNat).toNat

/-- Bits m[7:3] are 0 (R159). -/
def highM (o : Opnd) : Bool := decide (8 ≤ o.m.toNat)

/-! ### Conversion (R160 to R162) -/

/-- The geometry of a VCVT: the widths, the element count E and the bits P of a part (R160, R161). -/
structure CvtShape where
  wa : Nat
  wd : Nat
  count : Nat
  bits : Nat
  deriving DecidableEq, Repr

/-- The shape of the VCVT under the FMT pending. -/
def FmtView.cvt (v : FmtView) : CvtShape :=
  let wa := (v.af.getD .f32).width
  let wd := (v.df.getD .f32).width
  let big := max wa wd
  let n := if big = 6 then 80 else 512 / big
  ⟨wa, wd, n, n * min wa wd⟩

/-- Codes of AF converted to DF; the first result is element `base` of its register (R138, R160). -/
def Core.convertAll (c : Core) (codes : List Nat) (base : Nat) : List Coded :=
  let v := c.fmt
  codes.mapIdx (fun i x => convert (v.df.getD .f32) (v.af.getD .f32) x v.rm (c.srValue v (base + i)) v.satf c.fz)

/-- The flags of several results. -/
def flagsOf (cs : List Coded) : Word := cs.foldl (fun w c => w ||| c.flags) 0


/-- The random register of SR as a source (R138). -/
def Core.randomUse (c : Core) : List RegUse :=
  match c.fmt.rand with
  | some r => [useV r]
  | none => []

/-- VCVT: the part in m[2:0]; d is also read when only a part of it is written (R161). -/
def sigVcvt : Sig where
  op := 0x706
  lat := 3
  roles := fun _ => { d := .vw, a := .vr }
  reserved := fun o => o.b != 0 || o.c != 0 || highM o
  refuses := fun c o =>
    let k := c.fmt.cvt
    let p := o.m.toNat % 8
    if k.wa = k.wd then decide (p ≠ 0) else decide (512 < k.bits * (p + 1))
  moreReads := fun c o => c.randomUse ++ (if c.fmt.cvt.wd < c.fmt.cvt.wa then [useV o.d.toNat] else [])

/-- VPACK (R162). -/
def sigVpack : Sig where
  op := 0x707
  lat := 3
  roles := fun _ => { d := .vw, a := .vr, b := .vr }
  reserved := fun o => o.c != 0 || o.m != 0
  moreReads := fun c _ => c.randomUse

/-- VUNPK: d and c are written, and differ (R162). -/
def sigVunpk : Sig where
  op := 0x708
  lat := 3
  roles := fun _ => { d := .vw, a := .vr, c := .vw }
  reserved := fun o => o.b != 0 || o.m != 0
  refuses := fun _ o => o.d == o.c
  moreReads := fun c _ => c.randomUse

/-! ### Blocks (R163, R164) -/

/-- The geometry of VQNT and VDQNT: the wide and the narrow format, the elements of a part, those of a block, and the scale byte of block 0. -/
structure BlockShape where
  wide : Fmt
  narrow : Fmt
  count : Nat
  size : Nat
  base : Nat
  deriving DecidableEq, Repr

/-- The shape of a VQNT (R163) or VDQNT (R164) at part p. -/
def blockShape (wide narrow : Fmt) (b32 : Bool) (p : Nat) : BlockShape :=
  let nb := if wide.width = 32 then 1 else 2
  ⟨wide, narrow, 16 * nb, if b32 then 32 else 16, if b32 then p else nb * p⟩

/-- The bits of a part of narrow data. -/
def BlockShape.bits (k : BlockShape) : Nat := k.count * k.narrow.width

/-- A part whose data or scales would leave its register (R163). -/
def BlockShape.leaves (k : BlockShape) (p : Nat) : Bool :=
  decide (512 < k.bits * (p + 1)) || decide (8 < k.base + k.count / k.size)

/-- EM(DF), the exponent of the largest binade (R163). -/
def fmtEM : Fmt → Int
  | .e4m3 => 8
  | .e5m2 => 15
  | .e3m2 => 4
  | .e2m3 => 2
  | .e2m1 => 2
  | _ => 1

/-- MaxF(DF), the largest finite value (R128, R163). -/
def fmtMax (F : Fmt) : Rat :=
  match F with
  | .ds8 => 2
  | _ => FVal.toRat (val F F.maxCode)

/-- The least integer X with a / 2^X ≤ b, for positive a and b (R163). -/
def fitExponent (a b : Rat) : Int :=
  let e := floorLog2 (a / b)
  if a / b ≤ pow2 e then e else e + 1

/-- One quantised block: its scale byte, and its codes with their flags (R163). -/
structure Quantised where
  scale : Nat
  codes : List Coded
  deriving DecidableEq, Repr

/-- The magnitude of a number. -/
def FVal.mag : FVal → Rat
  | .num _ m => m
  | _ => 0

/-- Whether a value is a number. -/
def FVal.isNum : FVal → Bool
  | .num _ _ => true
  | _ => false

/-- One block quantised: the floor rule with PARAM 0, the fit rule with PARAM 1 (R163). `u` gives the random value of an element of the block. -/
def quantise (F : Fmt) (fit : Bool) (rm : RMode) (u : Nat → Nat) (xs : List FVal) : Quantised :=
  if xs.all FVal.isNum then
    let amax := xs.foldl (fun m x => if m < x.mag then x.mag else m) 0
    let e : Int := if amax = 0 then -127 else if fit then fitExponent amax (fmtMax F) else floorLog2 amax - fmtEM F
    let e := sat e (-127) 127
    let scaled (x : FVal) : FVal :=
      match x with
      | .num n m => .num n (m / pow2 e)
      | y => y
    ⟨(e + 127).toNat, xs.mapIdx (fun i x => enc F (scaled x) rm (u i) true false)⟩
  else ⟨0xFF, xs.map (fun _ => ⟨if F = .ds8 then ds8Code 0 else 0, fxInvalid⟩)⟩

/-- A list cut into pieces of `n`, `k` of them. -/
def pieces {α : Type} (n : Nat) : (k : Nat) → List α → List (List α)
  | 0, _ => []
  | k + 1, xs => xs.take n :: pieces n k (xs.drop n)

/-- VQNT: the part in m; d and gC are also read (R163). -/
def sigVqnt : Sig where
  op := 0x709
  lat := 5
  roles := fun _ => { d := .vrw, a := .vr, c := .grw }
  reserved := fun o => o.b != 0
  refuses := fun c o =>
    let v := c.fmt
    (blockShape (v.af.getD .f32) (v.df.getD .e4m3) v.b32 o.m.toNat).leaves o.m.toNat
  moreReads := fun c _ => c.randomUse

/-- VDQNT (R164). -/
def sigVdqnt : Sig where
  op := 0x70A
  lat := 4
  roles := fun _ => { d := .vw, a := .vr, c := .gr }
  reserved := fun o => o.b != 0
  refuses := fun c o =>
    let v := c.fmt
    (blockShape (v.df.getD .f32) (v.af.getD .e4m3) v.b32 o.m.toNat).leaves o.m.toNat

/-! ### Moves (R159) -/

/-- VMOV (R159). -/
def sigVmov : Sig where
  op := 0x700
  lat := 2
  roles := fun _ => { d := .vw, a := .vr }
  reserved := fun o => o.b != 0 || o.c != 0 || o.m != 0

/-- VBCAST (R159). -/
def sigVbcast : Sig where
  op := 0x701
  lat := 2
  roles := fun _ => { d := .vw, a := .gr }
  reserved := fun o => o.b != 0 || o.c != 0 || highM o

/-- A lane index or rotation that is not below L (R159). -/
def laneTooHigh (o : Opnd) : Bool := decide (laneCount o.mtype.width ≤ o.c.toNat)

/-- VINS (R159). -/
def sigVins : Sig where
  op := 0x702
  lat := 2
  roles := fun _ => { d := .vrw, a := .gr }
  reserved := fun o => o.b != 0 || highM o
  refuses := fun _ o => laneTooHigh o

/-- VEXT (R159). -/
def sigVext : Sig where
  op := 0x703
  lat := 2
  roles := fun _ => { d := .gw, a := .vr }
  reserved := fun o => o.b != 0 || highM o
  refuses := fun _ o => laneTooHigh o

/-- VPERM (R159). -/
def sigVperm : Sig where
  op := 0x704
  lat := 3
  roles := fun _ => { d := .vw, a := .vr, b := .vr }
  reserved := fun o => o.c != 0 || highM o

/-- VROT (R159). -/
def sigVrot : Sig where
  op := 0x705
  lat := 2
  roles := fun _ => { d := .vw, a := .vr }
  reserved := fun o => o.b != 0 || highM o
  refuses := fun _ o => laneTooHigh o

/-! ### The instructions -/

/-- VMOV (R159). -/
def execVmov (t : TailW) (s : State) : Host.Outcome State Fault Refusal :=
  issue sigVmov (opndW t) s fun o s => .done (s.after 2 [.vec o.d.toNat (s.cc.readV o.a.toNat)])

/-- VBCAST (R159). -/
def execVbcast (t : TailW) (s : State) : Host.Outcome State Fault Refusal :=
  issue sigVbcast (opndW t) s fun o s =>
    let n := o.mtype.width
    .done (s.after 2 [.vec o.d.toNat (vecOf (packLanes n (List.replicate (laneCount n) ((s.cc.readG o.a).toNat % 2 ^ n))))])

/-- VINS (R159). -/
def execVins (t : TailW) (s : State) : Host.Outcome State Fault Refusal :=
  issue sigVins (opndW t) s fun o s =>
    let n := o.mtype.width
    .done (s.after 2 [.vec o.d.toNat (vecOf (putBits (s.vecNat o.d) (n * o.c.toNat) n (s.cc.readG o.a).toNat))])

/-- VEXT (R159). -/
def execVext (t : TailW) (s : State) : Host.Outcome State Fault Refusal :=
  issue sigVext (opndW t) s fun o s =>
    let t := o.mtype
    .done (s.putG o.d (writeT (readT (laneOf (s.vecNat o.a) t.width o.c.toNat) t) t) 2)

/-- VPERM (R159). -/
def execVperm (t : TailW) (s : State) : Host.Outcome State Fault Refusal :=
  issue sigVperm (opndW t) s fun o s =>
    let n := o.mtype.width
    let l := laneCount n
    let a := s.vecNat o.a
    let lanes := (lanesOf (s.vecNat o.b) n l).map (fun k => laneOf a n (k % l))
    .done (s.after 3 [.vec o.d.toNat (vecOf (packLanes n lanes))])

/-- VROT (R159). -/
def execVrot (t : TailW) (s : State) : Host.Outcome State Fault Refusal :=
  issue sigVrot (opndW t) s fun o s =>
    let n := o.mtype.width
    let l := laneCount n
    let lanes := (List.range l).map (fun i => laneOf (s.vecNat o.a) n ((i + o.c.toNat) % l))
    .done (s.after 2 [.vec o.d.toNat (vecOf (packLanes n lanes))])

/-- VCVT (R161): the bits above 80 elements of 6 bits are 0 (log 19). -/
def execVcvt (t : TailW) (s : State) : Host.Outcome State Fault Refusal :=
  issue sigVcvt (opndW t) s fun o s =>
    let k := s.cc.fmt.cvt
    let p := o.m.toNat % 8
    let narrowing := decide (k.wd < k.wa)
    let source := if narrowing then s.vecNat o.a else s.vecNat o.a / 2 ^ (k.bits * p)
    let rs := s.cc.convertAll (lanesOf source k.wa k.count) (if narrowing then k.count * p else 0)
    let packed := packLanes k.wd (rs.map (·.code))
    let v := if narrowing then putBits (s.vecNat o.d) (k.bits * p) k.bits packed else packed
    .done (s.putV o.d (vecOf v) (flagsOf rs) 3)

/-- VPACK (R162). -/
def execVpack (t : TailW) (s : State) : Host.Outcome State Fault Refusal :=
  issue sigVpack (opndW t) s fun o s =>
    let k := s.cc.fmt.cvt
    let n := laneCount k.wa
    let rs := s.cc.convertAll (lanesOf (s.vecNat o.a) k.wa n ++ lanesOf (s.vecNat o.b) k.wa n) 0
    .done (s.putV o.d (vecOf (packLanes k.wd (rs.map (·.code)))) (flagsOf rs) 3)

/-- VUNPK (R162). -/
def execVunpk (t : TailW) (s : State) : Host.Outcome State Fault Refusal :=
  issue sigVunpk (opndW t) s fun o s =>
    let k := s.cc.fmt.cvt
    let n := laneCount k.wa
    let codes := lanesOf (s.vecNat o.a) k.wa n
    let lo := s.cc.convertAll (codes.take (n / 2)) 0
    let hi := s.cc.convertAll (codes.drop (n / 2)) 0
    .done (s.after 3 [.vec o.d.toNat (vecOf (packLanes k.wd (lo.map (·.code)))),
      .vec o.c.toNat (vecOf (packLanes k.wd (hi.map (·.code)))), .flags (flagsOf lo ||| flagsOf hi)])

/-- VQNT (R163). -/
def execVqnt (t : TailW) (s : State) : Host.Outcome State Fault Refusal :=
  issue sigVqnt (opndW t) s fun o s =>
    let v := s.cc.fmt
    let p := o.m.toNat
    let k := blockShape (v.af.getD .f32) (v.df.getD .e4m3) v.b32 p
    let xs := s.srcLanes o.a k.wide
    let blocks := (pieces k.size (k.count / k.size) xs).mapIdx (fun j b =>
      quantise k.narrow (decide (v.param = 1)) v.rm (fun i => s.cc.srValue v (p * k.count + j * k.size + i)) b)
    let codes := blocks.flatMap (·.codes)
    let data := putBits (s.vecNat o.d) (k.bits * p) k.bits (packLanes k.narrow.width (codes.map (·.code)))
    let scales := blocks.map (·.scale)
    let g := putBits (s.cc.readG o.c).toNat (8 * k.base) (8 * scales.length) (packLanes 8 scales)
    .done (s.after 5 [.vec o.d.toNat (vecOf data), .gen (s.cc.phys o.c) (BitVec.ofNat 64 g), .flags (flagsOf codes)])

/-- VDQNT (R164). -/
def execVdqnt (t : TailW) (s : State) : Host.Outcome State Fault Refusal :=
  issue sigVdqnt (opndW t) s fun o s =>
    let v := s.cc.fmt
    let p := o.m.toNat
    let k := blockShape (v.df.getD .f32) (v.af.getD .e4m3) v.b32 p
    let codes := lanesOf (s.vecNat o.a / 2 ^ (k.bits * p)) k.narrow.width k.count
    let scale (i : Nat) : FVal := val .sc (laneOf (s.cc.readG o.c).toNat 8 (k.base + i / k.size))
    let rs := codes.mapIdx (fun i c => enc k.wide (fMul (val k.narrow c) (scale i)).v v.rm 0 v.satf s.cc.fz)
    .done (s.putV o.d (vecOf (packLanes k.wide.width (rs.map (·.code)))) (flagsOf rs) 4)

end Sys2Proof.Machine
end

