-- ==== Sys2Proof/Machine/VecReduce.lean ====
section
/-! DEFINITION. Vector reductions, distances, top-k lists, gathers and scatters: class 0x8 (R142 to R144, R165 to R173). -/

namespace Sys2Proof.Machine

/-! ### Reductions -/

/-- One step of a floating reduction: .add, .min or .max of two codes (R143, R165). -/
def reduceStep (rop : Nat) (F : Fmt) (v : FmtView) (fz : Bool) (x y : Coded) : Coded :=
  let a := srcVal F x.code fz
  let b := srcVal F y.code fz
  let r : Coded :=
    match rop with
    | 0 => (fAdd v.rm a b).coded F v fz
    | 1 => let e := fMinMax false a b; ⟨(roundNE e.v F).code, e.flags⟩
    | _ => let e := fMinMax true a b; ⟨(roundNE e.v F).code, e.flags⟩
  ⟨r.code, x.flags ||| y.flags ||| r.flags⟩

/-- One level of the pairwise tree (R143). -/
def treeLevel (f : Coded → Coded → Coded) : List Coded → List Coded
  | x :: y :: r => f x y :: treeLevel f r
  | r => r

/-- The pairwise tree over 2^k lanes (R143). -/
def treeReduce (f : Coded → Coded → Coded) : (k : Nat) → List Coded → Coded
  | 0, xs => xs.headD ⟨0, 0⟩
  | k + 1, xs => treeReduce f k (treeLevel f xs)

/-- log2 of the lane count of an element width. -/
def laneLog (n : Nat) : Nat := match n with | 64 => 3 | 32 => 4 | 16 => 5 | 8 => 6 | _ => 9

/-- One step of the prefixes at distance `d` (R144). -/
def scanStep (f : Coded → Coded → Coded) (d : Nat) (xs : List Coded) : List Coded :=
  xs.take d ++ (xs.zip (xs.drop d)).map (fun e => f e.1 e.2)

/-- The inclusive prefixes of 2^k lanes, from distance `d` up (R144). -/
def scanAll (f : Coded → Coded → Coded) : (k d : Nat) → List Coded → List Coded
  | 0, _, xs => xs
  | k + 1, d, xs => scanAll f k (2 * d) (scanStep f d xs)

/-- An integer reduction of two lane values (R165). -/
def intStep (rop : Nat) (t : IType) (x y : Int) : Int :=
  match rop with
  | 0 => x + y
  | 1 => if x ≤ y then x else y
  | 2 => if x ≤ y then y else x
  | 3 => ((pat x t.width &&& pat y t.width : Nat) : Int)
  | 4 => ((pat x t.width ||| pat y t.width : Nat) : Int)
  | _ => ((pat x t.width ^^^ pat y t.width : Nat) : Int)

/-- The operation of VRED and VSCAN, m[5:3] (R165). -/
def redOp (o : Opnd) : Nat := o.m.toNat / 8 % 8

/-- VRED and VSCAN: m[6] selects integer lanes (R165, R166). -/
def sigRed (op : Opcode) (d : Role) : Sig where
  op := op
  lat := 6
  roles := fun _ => { d := d, a := .vr }
  reserved := fun o => o.b != 0 || o.c != 0 || o.m.getLsbD 7 || (!o.m.getLsbD 6 && o.m.toNat % 8 != 0)
  refuses := fun _ o => if o.m.getLsbD 6 then decide (6 ≤ redOp o) else decide (3 ≤ redOp o)

/-- VRED (R165). -/
def execVred (t : TailW) (s : State) : Host.Outcome State Fault Refusal :=
  issue (sigRed 0x800 .gw) (opndW t) s fun o s =>
    if o.m.getLsbD 6 then
      let ty := o.mtype
      let xs := s.intLanes o.a ty
      match xs with
      | [] => .done s
      | x :: r =>
        let v := r.foldl (intStep (redOp o) ty) x
        .done (s.putG o.d (if redOp o = 0 then wordOf v else writeT v ty) 6)
    else
      let v := s.cc.fmt
      let F := v.elem
      let xs := (lanesOf (s.vecNat o.a) F.width (laneCount F.width)).map (fun c => Coded.mk c 0)
      let r := treeReduce (reduceStep (redOp o) F v s.cc.fz) (laneLog F.width) xs
      .done (s.after 6 [.gen (s.cc.phys o.d) (BitVec.ofNat 64 r.code), .flags r.flags])

/-- VSCAN (R166). -/
def execVscan (t : TailW) (s : State) : Host.Outcome State Fault Refusal :=
  issue (sigRed 0x807 .vw) (opndW t) s fun o s =>
    if o.m.getLsbD 6 then
      let ty := o.mtype
      let step (x y : Coded) : Coded := ⟨pat (intStep (redOp o) ty (readT x.code ty) (readT y.code ty)) ty.width, 0⟩
      let xs := (lanesOf (s.vecNat o.a) ty.width (laneCount ty.width)).map (fun c => Coded.mk c 0)
      let r := scanAll step (laneLog ty.width) 1 xs
      .done (s.after 6 [.vec o.d.toNat (vecOf (packLanes ty.width (r.map (·.code))))])
    else
      let v := s.cc.fmt
      let F := v.elem
      let xs := (lanesOf (s.vecNat o.a) F.width (laneCount F.width)).map (fun c => Coded.mk c 0)
      let r := packCoded F.width (scanAll (reduceStep (redOp o) F v s.cc.fz) (laneLog F.width) 1 xs)
      .done (s.putV o.d r.1 r.2 6)

/-- VPOPC (R167). -/
def sigVpopc : Sig where
  op := 0x806
  lat := 2
  roles := fun _ => { d := .vw, a := .vr }
  reserved := fun o => o.b != 0 || o.c != 0 || decide (8 ≤ o.m.toNat)

/-- VPOPC (R167). -/
def execVpopc (t : TailW) (s : State) : Host.Outcome State Fault Refusal :=
  issue sigVpopc (opndW t) s fun o s =>
    let n := o.mtype.width
    .done (s.after 2 [.vec o.d.toNat (vecOf (packLanes n ((lanesOf (s.vecNat o.a) n (laneCount n)).map (popCount n))))])

/-! ### Dot products -/

/-- The formats of the pending FMT's AF and BF for VDOT; FP32 stands for 0x00 and for no FMT (R168). -/
def Core.dotFormats (c : Core) : Fmt × Fmt :=
  let v := c.fmt
  (v.af.getD .f32, v.bf.getD .f32)

/-- VDOT: with wide formats c must be 0 (R53, R168); a repetition that selects c staggers the field there too, before that check (log 19). -/
def sigVdot : Sig where
  op := 0x801
  lat := 8
  roles := fun _ => { d := .grw, a := .vr, b := .vr, c := .gr }
  reserved := fun o => o.m != 0
  unused := fun c o => c.dotFormats.1.isWide && o.c != 0

/-- The blocks of a dot product of two rows of codes, 16 elements each, with block scales from bytes of G(c) (R133, R142, R168). -/
def dotBlocks (A B : Fmt) (b32 : Bool) (k : Nat) (xs ys scales : Nat) : List DotBlock :=
  let av := (lanesOf xs A.width k).map (val A)
  let bv := (lanesOf ys B.width k).map (val B)
  let scale (base j : Nat) : FVal := if A.isWide then .num false 1 else val .sc (laneOf scales 8 (base + (if b32 then j / 2 else j)))
  (List.range (k / 16)).map (fun j => ⟨(av.drop (16 * j)).take 16, (bv.drop (16 * j)).take 16, scale 0 j, scale 4 j⟩)

/-- VDOT (R168). -/
def execVdot (t : TailW) (s : State) : Host.Outcome State Fault Refusal :=
  issue sigVdot (opndW t) s fun o s =>
    let f := s.cc.dotFormats
    let k := if f.1.isWide then 512 / f.1.width else 64
    let r := blockDot (bitsOf (s.cc.readG o.d) 31 0)
      (dotBlocks f.1 f.2 s.cc.fmt.b32 k (s.vecNat o.a) (s.vecNat o.b) (s.cc.readG o.c).toNat)
    .done (s.after 8 [.gen (s.cc.phys o.d) (BitVec.ofNat 64 r.code), .flags r.flags])

/-! ### Gathers, scatters and distances -/

/-- The addresses of the active lanes among the first `count` offset lanes of a core's operands, by lane (R169); lanes from `count` on address nothing and are not looked at (log 19). -/
def Core.offsets (c : Core) (o : Opnd) (count : Nat) : List (Nat × Nat) :=
  (List.range count).filterMap (fun i =>
    let x := laneOf (c.readV o.a.toNat).toNat 32 i
    if x = 0xFFFFFFFF then none else some (i, (wordOf ((c.readG o.b).toNat + x)).toNat))

/-- The addresses of the active lanes of the core in turn, by lane (R169). -/
def State.offsets (s : State) (o : Opnd) (count : Nat) : List (Nat × Nat) := s.cc.offsets o count

/-- The number of elements of a gather (R170). -/
def gatherCount (width : Nat) : Nat := if width = 64 then 8 else 16

/-- A list without repeats. -/
def distinct (xs : List Nat) : List Nat := xs.foldl (fun r x => if r.contains x then r else r ++ [x]) []

/-- The lines that the active lanes of a gather lie in (R170). -/
def gatherLines (act : List (Nat × Nat)) : List Nat := distinct (act.map (fun e => e.2 / 64))

/-- VGATH, VSCAT: vD, vA, gB, the type in m[2:0] (R170, R171). -/
def sigGather (op : Opcode) (d : Role) (lat : Nat) : Sig where
  op := op
  lat := lat
  roles := fun _ => { d := d, a := .vr, b := .gr }
  reserved := fun o => o.c != 0 || decide (8 ≤ o.m.toNat)
  slow := fun _ c o => (gatherLines (c.offsets o (gatherCount o.mtype.width))).length - 1

/-- A variable-latency result of vector registers whose time is known (R51). -/
def State.putVarV (s : State) (cycles : Nat) (ds : List Dest) (flags : Bool) : State :=
  s.putVar (.at (s.now + cycles * s.cc.clock.pipePeriod)) [] (ds.filterMap Dest.vecReg) ds flags

/-- VGATH (R170). -/
def execVgath (t : TailW) (s : State) : Host.Outcome State Fault Refusal :=
  issue (sigGather 0x804 .vw 4) (opndW t) s fun o s =>
    let w := o.mtype.width
    let n := w / 8
    let act := s.offsets o (gatherCount w)
    match s.localCheck false n (act.map (fun e => (e.2, n))) with
    | some r => r
    | none =>
      let lanes := (List.range (gatherCount w)).map (fun i =>
        match act.find? (fun e => e.1 = i) with
        | some e => s.localRead e.2 n
        | none => 0)
      .done (s.takeSlice.putVarV (4 + ((gatherLines act).length - 1)) [.vec o.d.toNat (vecOf (packLanes w lanes))] false)

/-- VSCAT (R171). -/
def execVscat (t : TailW) (s : State) : Host.Outcome State Fault Refusal :=
  issue (sigGather 0x805 .vr 0) (opndW t) s fun o s =>
    let w := o.mtype.width
    let n := w / 8
    let act := s.offsets o (gatherCount w)
    match s.localCheck true n (act.map (fun e => (e.2, n))) with
    | some r => r
    | none =>
      if act.isEmpty then .done s
      else .done (s.localStores (act.map (fun e => (e.2, n, laneOf (s.vecNat o.d) w e.1))))

/-- One term of a distance (R172). -/
def distTerm (metric : Nat) (q x : FVal) : Exact :=
  match metric with
  | 0 =>
    let d := fAdd .rne q x.negate
    let r := fMul d.v d.v
    ⟨r.v, d.flags ||| r.flags⟩
  | 1 => let r := fMul q x; ⟨r.v.negate, r.flags⟩
  | _ => let d := fAdd .rne q x.negate; ⟨d.v.absolute, d.flags⟩

/-- The distance of two vectors of values, 16 terms to a rounding (R172). -/
def distance (metric : Nat) : (blocks : Nat) → List FVal → List FVal → Coded → Coded
  | 0, _, _, acc => acc
  | k + 1, qs, xs, acc =>
    let b := ((qs.take 16).zip (xs.take 16)).foldl (fun b e => b.add (distTerm metric e.1 e.2)) BlockSum.zero
    let r := accumulate acc.code b.value b.flag
    distance metric k (qs.drop 16) (xs.drop 16) ⟨r.code, acc.flags ||| r.flags⟩

/-- The lines that a distance reads for its active lanes, each of `n` elements (R172). -/
def distLines (act : List (Nat × Nat)) (n width : Nat) : Nat := act.length * ((n * width + 511) / 512)

/-- VDIST: imm32[13:0] is n, imm32[31:14] and m[7:2] are zero (R172). -/
def sigVdist : Sig where
  op := 0x802
  lat := 6
  roles := fun _ => { d := .vw, a := .vr, b := .gr, c := .gr }
  reserved := fun o => decide (4 ≤ o.m.toNat) || decide (2 ^ 14 ≤ o.imm.toNat)
  refuses := fun _ o => o.imm.toNat % 2 ^ 14 = 0 || decide (8192 < o.imm.toNat % 2 ^ 14) || o.m.toNat % 4 = 3
  slow := fun _ c o => distLines (c.offsets o 16) o.imm.toNat c.dotFormats.2.width

/-- VDIST (R172). -/
def execVdist (t : TailD) (s : State) : Host.Outcome State Fault Refusal :=
  issue sigVdist (opndD t) s fun o s =>
    let f := s.cc.dotFormats
    let n := o.imm.toNat
    let q := (s.cc.readG o.c).toNat
    let qb := f.1.width / 8
    let xb := f.2.width / 8
    let act := s.offsets o 16
    let qRun := (q, n * qb)
    let xRuns := act.map (fun e => (e.2, n * xb))
    match s.localFaults false qb [qRun], s.localFaults false xb xRuns with
    | some r, _ => .fault r
    | none, some r => .fault r
    | none, none =>
      match s.localCheck false 1 (qRun :: xRuns) with
      | some r => r
      | none =>
        let values (F : Fmt) (ea b : Nat) : List FVal := (lanesOf (s.localRead ea (n * b)) F.width n).map (val F)
        let qs := values f.1 q qb
        let ds := (List.range 16).map (fun i =>
          match act.find? (fun e => e.1 = i) with
          | some e => distance o.m.toNat ((n + 15) / 16) qs (values f.2 e.2 xb) ⟨0, 0⟩
          | none => ⟨0x7F800000, 0⟩)
        let r := packCoded 32 ds
        .done (s.takeSlice.putVarV (6 + distLines act n f.2.width) [.vec o.d.toNat r.1, .flags r.2] true)

/-! ### Top-k lists -/

/-- An entry of a top-k list: its score's code and its id (R173). -/
abbrev Ranked := Nat × Nat

/-- Whether an entry ranks before another: by score with NaN last, then by lower id (R173); entries of equal score and id rank as they are listed (log 19). -/
def ranksBefore (greatest : Bool) (x y : Ranked) : Bool :=
  let a := val .f32 x.1
  let b := val .f32 y.1
  if a.isNan && b.isNan then decide (x.2 < y.2)
  else if a.isNan then false
  else if b.isNan then true
  else if FVal.eqv a b then decide (x.2 < y.2)
  else if greatest then FVal.lt b a else FVal.lt a b

/-- An entry put into a ranked list, after those that rank no later. -/
def rankInsert (greatest : Bool) (x : Ranked) : List Ranked → List Ranked
  | [] => [x]
  | y :: r => if ranksBefore greatest x y then x :: y :: r else y :: rankInsert greatest x r

/-- VTOPK: even register pairs that do not overlap (R173). -/
def sigVtopk : Sig where
  op := 0x803
  lat := 6
  roles := fun _ => { d := .vrw, a := .vr, b := .gr, c := .vrw }
  reserved := fun o => decide (64 ≤ o.m.toNat)
  refuses := fun _ o => o.d.toNat % 2 != 0 || o.c.toNat % 2 != 0 || o.d == o.c
  moreReads := fun _ o => [useV (o.d.toNat + 1), useV (o.c.toNat + 1)]
  moreWrites := fun _ o => [useV (o.d.toNat + 1), useV (o.c.toNat + 1)]
  slow := fun _ _ o => if o.m.toNat % 32 < 16 then 0 else 3

/-- A score as it is read: a subnormal one is zero of its sign under STAT.FZ (R140; log 19). -/
def Core.score (c : Core) (x : Nat) : Nat :=
  if c.fz && decide (bitsOf (BitVec.ofNat 64 x) 30 23 = 0) then x / 2 ^ 31 * 2 ^ 31 else x

/-- VTOPK (R140, R173). -/
def execVtopk (t : TailW) (s : State) : Host.Outcome State Fault Refusal :=
  issue sigVtopk (opndW t) s fun o s =>
    let k := o.m.toNat % 32 + 1
    let greatest := o.m.getLsbD 5
    let pair (r : Field) : Nat := s.vecNat r + 2 ^ 512 * s.vecNat (r + 1)
    let old := (((lanesOf (pair o.d) 32 32).map s.cc.score).zip (lanesOf (pair o.c) 32 32)).take k
    let new := (lanesOf (s.vecNat o.a) 32 16).mapIdx (fun i x => (s.cc.score x, ((s.cc.readG o.b).toNat + i) % 2 ^ 32))
    let ranked := (new.foldl (fun r x => rankInsert greatest x r) (old.foldl (fun r x => rankInsert greatest x r) [])).take k
    let all := ranked ++ List.replicate (32 - k) (0x7FC00000, 0xFFFFFFFF)
    let half (xs : List Nat) (h : Nat) : VWord := vecOf (packLanes 32 ((xs.drop (16 * h)).take 16))
    let scores := all.map Prod.fst
    let ids := all.map Prod.snd
    .done (s.putVarV (if k ≤ 16 then 6 else 9) [.vec o.d.toNat (half scores 0), .vec (o.d.toNat + 1) (half scores 1),
      .vec o.c.toNat (half ids 0), .vec (o.c.toNat + 1) (half ids 1)] false)

end Sys2Proof.Machine
end

