-- ==== Sys2Proof/Machine/Matrix.lean ====
section
/-! DEFINITION. The matrix engine of each pod: class 0xA, its commands and their completion (R316 to R338, R399, R400). -/

namespace Sys2Proof.Machine

/-! ### The engine and its storage -/

/-- A pod's matrix engine. -/
def State.matrix (s : State) (pod : Nat) : Matrix := SMap.get (fun _ => Matrix.empty) s.matrices pod

/-- The machine with a matrix engine replaced. -/
def State.setMatrix (s : State) (pod : Nat) (m : Matrix) : State :=
  { s with matrices := SMap.set (fun _ => Matrix.empty) s.matrices pod m }

/-- An operand slot of an engine. -/
def Matrix.slot (m : Matrix) (k : Nat) : OpSlot := SMap.get (fun _ => OpSlot.free) m.slots k

/-- An engine with a slot replaced. -/
def Matrix.setSlot (m : Matrix) (k : Nat) (x : OpSlot) : Matrix := { m with slots := SMap.set (fun _ => OpSlot.free) m.slots k x }

/-- A bank of a slice of an engine. -/
def Matrix.bank (m : Matrix) (slice b : Nat) : Bank := SMap.get (fun _ => Bank.clear) m.banks (4 * slice + b)

/-- An engine with a bank's flags and mark replaced. -/
def Matrix.setBank (m : Matrix) (slice b : Nat) (x : Bank) : Matrix :=
  { m with banks := SMap.set (fun _ => Bank.clear) m.banks (4 * slice + b) x }

/-- The address key of a data byte of an operand slot; scale byte i is at 8192 + i (R318). -/
def slotKey (pod slot : Nat) : Nat := 2 ^ 58 + pod * 2 ^ 22 + slot * 16384

/-- The address key of an accumulator bank; element [r][c] is the FP32 code at 4 × (16r + c) (R317). -/
def bankKey (pod slice b : Nat) : Nat := 2 ^ 57 + ((pod * 8 + slice) * 4 + b) * 4096

/-- The code of an element of a bank (R317). -/
def State.bankElem (s : State) (pod slice b r c : Nat) : Nat := Memory.readLE s.mem (bankKey pod slice b + 4 * (16 * r + c)) 4

/-- Bytes written to operand memory or a bank: whole bad words are good again. -/
def State.opStore (s : State) (key n v : Nat) : State := State.healWords { s with mem := Memory.writeLE s.mem key n v } key n

/-- The slice index of a core (R316). -/
def sliceOf (core : Nat) : Nat := core % 8

/-- The partition of a pod: the entry, not out in a save area, that holds its super-group (R358, R428). -/
def State.podPart (s : State) (pod : Nat) : Option Nat :=
  (s.parts.find? (fun e => e.2.valid && e.2.sgs.getLsbD (pod / 8) && !(s.partition e.1).saved && (!s.slice.on || s.slice.vf == some e.2.vf))).map (·.1)

/-- The matrix clock of a pod: its partition's, whichever cores of the pod run (R5, R358). -/
def State.matClock (s : State) (pod : Nat) : Grid :=
  match s.podPart pod with
  | some p => ⟨(s.partition p).matBase, periodOf (s.partition p).mat⟩
  | none => ⟨0, periodOf 12⟩

/-- Units of time in a matrix cycle of a pod (R5, R358). -/
def State.matPeriod (s : State) (pod : Nat) : Nat := (s.matClock pod).period

/-- The first matrix edge of a pod after a time. -/
def State.matEdgeAfter (s : State) (pod t : Nat) : Nat := (s.matClock pod).after t

/-! ### Slot specifiers (R318) -/

/-- SLOT of a specifier. -/
def specSlot (x : Word) : Nat := bitsOf x 7 0

/-- H of a specifier. -/
def specHalf (x : Word) : Nat := bitsOf x 8 8

/-- A specifier is valid, with H = 0 where the operation names no half (R318). -/
def specValid (x : Word) (half : Bool) : Bool := bitsOf x 63 9 == 0 && (half || specHalf x == 0)

/-- A run of slots is claimed by a slice: none, or the first slot that fails with its qualifier; `boarded` asks whether a context names the slot (R321, R326, R348). -/
def Matrix.claimFault (m : Matrix) (slice : Nat) (boarded : Nat → Bool) (slots : List Nat) : Option Raise :=
  slots.findSome? (fun t =>
    match (m.slot t).claim with
    | none => some ⟨0x15, 0x02, BitVec.ofNat 64 t⟩
    | some o =>
      if o ≠ slice then some ⟨0x15, 0x03, BitVec.ofNat 64 t⟩
      else if boarded t then some ⟨0x15, 0x05, BitVec.ofNat 64 t⟩
      else none)

/-- Whether a context in state 1, 2 or 4 names a slot (R348, R351). -/
def BoardCtx.names (x : BoardCtx) (slot : Nat) : Bool :=
  (x.state == 1 || x.state == 2 || x.state == 4) && decide (x.slot ≤ slot) && decide (slot < x.slot + x.n)

/-- Whether some context of a pod's tap, other than one, names a slot (R348, R351). -/
def State.boarded (s : State) (pod : Nat) (except : Option Nat) (slot : Nat) : Bool :=
  (List.range 16).any (fun i => some (16 * pod + i) != except && (s.ctx (16 * pod + i)).names slot)

/-! ### Commands and their order (R324) -/

/-- The slots a command works on, and whether it writes them. -/
def MatKind.slots : MatKind → List (Nat × Bool)
  | .move load slot _ _ _ _ _ _ => [(slot, load)]
  | .rel slot n => (List.range n).map (fun i => (slot + i, true))
  | .gang _ _ a _ b _ => [(a, false), (b, false)]
  | _ => []

/-- The banks a command works on, by 4 × slice + bank. -/
def MatCmd.banks (c : MatCmd) : List Nat :=
  match c.kind with
  | .zero b => [4 * sliceOf c.core + b]
  | .drain b _ _ _ _ _ _ _ => [4 * sliceOf c.core + b]
  | .gang _ _ _ _ _ bs => bs.mapIdx (fun s b => 4 * s + b.1)
  | _ => []

/-- A command that moves bytes to or from memory. -/
def MatKind.moves : MatKind → Bool
  | .move _ _ _ _ _ _ _ _ => true
  | .drain _ _ _ _ _ _ _ _ => true
  | _ => false

/-- A gang. -/
def MatKind.isGang : MatKind → Bool
  | .gang _ _ _ _ _ _ => true
  | _ => false

/-- Whether a command waits for an earlier one: a shared slot that one of them writes, a shared bank, two moves of one core, or two gangs of the pod (R324, R337). -/
def MatCmd.waitsFor (c e : MatCmd) : Bool :=
  c.kind.slots.any (fun x => e.kind.slots.any (fun y => x.1 == y.1 && (x.2 || y.2))) ||
    c.banks.any (fun b => e.banks.contains b) ||
    (c.core == e.core && c.kind.moves && e.kind.moves) ||
    (c.kind.isGang && e.kind.isGang)

/-- The data bytes and the scale bytes of a part, and the image's bytes (R325). -/
def partBytes (whole b32 : Bool) : Nat × Nat :=
  let data := if whole then 8192 else 4096
  let scale := if whole then 512 else 256
  (data, if b32 then scale / 2 else scale)

/-- The length of an image (R325). -/
def imageLength (whole b32 : Bool) : Nat := (partBytes whole b32).1 + (partBytes whole b32).2

/-- Each byte of a number written twice, as B32 gives one scale byte to both blocks it covers (R318). -/
def doubled (v n : Nat) : Nat := leValue ((bytesOf n v).flatMap (fun b => [b, b]))

/-- Bytes of an image written into its part, from an offset on: its data run and its scale run, each one write (R318, R326, R398). -/
def State.putImage (s : State) (pod slot half : Nat) (whole b32 : Bool) (i v n : Nat) : State :=
  let k := slotKey pod slot
  let data := (partBytes whole b32).1
  let d := min n (data - i)
  let s := if d = 0 then s else s.opStore (k + 4096 * half + i) d (v % 256 ^ d)
  let m := n - d
  let j := i + d - data
  let base := k + 8192 + 256 * half
  if m = 0 then s
  else if b32 then s.opStore (base + 2 * j) (2 * m) (doubled (v / 256 ^ d) m)
  else s.opStore (base + j) m (v / 256 ^ d)

/-- Bytes of a part read as its image, from an offset on (R325). -/
def State.getImage (s : State) (pod slot half : Nat) (whole : Bool) (i : Nat) : (n : Nat) → Nat
  | 0 => 0
  | n + 1 =>
    let k := slotKey pod slot
    let data := (partBytes whole false).1
    let a := if i < data then k + 4096 * half + i else k + 8192 + 256 * half + (i - data)
    (Memory.read s.mem a).toNat + 256 * s.getImage pod slot half whole (i + 1) n

/-- The number under which a pod's engine sends messages. -/
def matrixSender (pod : Nat) : Nat := 36864 + pod

/-- A command replaced. -/
def State.setCmd (s : State) (pod id : Nat) (c : MatCmd) : State :=
  let m := s.matrix pod
  s.setMatrix pod { m with cmds := SMap.put m.cmds id c }

/-- The next 256-byte piece of a global move is sent (R326). -/
def State.sendOperand (s : State) (pod id : Nat) (c : MatCmd) : State :=
  match c.kind with
  | .move load slot half whole b32 _ ea _ =>
    let a := ea + BitVec.ofNat 64 c.pos
    let n := min (256 - a.toNat % 256) (imageLength whole b32 - c.pos)
    let op := if load then ReqOp.load n false else ReqOp.store n (s.getImage pod slot half whole c.pos n)
    s.sendEngine (engineReq c.core (.operand pod id c.pos) op a (!load))
  | _ => s

/-- A command begins (R326, R328, R332, R334, R337). -/
def State.beginCmd (s : State) (pod id : Nat) (c : MatCmd) : State :=
  let mp := s.matPeriod pod
  let core := c.core
  let run (s : State) (due : Nat) (i : Instr) : State := (s.setCmd pod id { c with started := true, due := some due }).postCore due core i
  match c.kind with
  | .move load slot _ whole b32 glob _ _ =>
    let m := s.matrix pod
    let s := if load then s.setMatrix pod (m.setSlot slot { m.slot slot with err := false }) else s
    if glob then (s.setCmd pod id { c with started := true }).sendOperand pod id { c with started := true }
    else run s (s.now + (imageLength whole b32 + 63) / 64 * mp) (if load then .mloadComplete pod id else .mstoreComplete pod id)
  | .zero _ => run s (s.now + mp) (.matrixCommandAccept pod core)
  | .rel _ _ => run s s.now (.mrelFree pod id)
  | .gang fa fb _ _ _ _ =>
    let short := (Fmt.ofCode fa == some .e2m1 && Fmt.ofCode fb == some .e2m1) || Fmt.ofCode fb == some .ds8
    let start := max s.now (c.edge + 3 * mp)
    run s (start + (if short then 32 else 64) * mp) (.gangComplete pod)
  | .drain _ _ _ _ _ nr _ _ => run s (s.now + (4 + nr) * mp) (.mdrainComplete pod id)

/-- Every accepted command that waits for none before it begins (R324). -/
def State.beginCmds (s : State) (pod : Nat) : State :=
  (s.matrix pod).cmds.foldl (fun t e =>
    let m := t.matrix pod
    let blocked := m.cmds.any (fun x => decide (x.1 < e.1) && e.2.waitsFor x.2)
    if e.2.accepted && !e.2.started && !blocked then t.beginCmd pod e.1 e.2 else t) s

/-- A finished command leaves the engine, its range clears, and others may begin (R309, R324). -/
def State.endCmd (s : State) (pod id : Nat) (c : MatCmd) : State :=
  let m := s.matrix pod
  let s := s.setMatrix pod { m with cmds := SMap.erase m.cmds id }
  let k := s.core c.core
  let s := s.setCore c.core { k with ranges := k.ranges.filter (fun r => r.owner != 64 + id) }
  let s := (s.rangesCleared c.core).beginCmds pod
  match k.launch with
  | some l => s.postOnce s.now c.core (.launchCompletion l)
  | none => s

/-- MZEROs that are due finish: the bank is +0, and its flags and mark are cleared (R328, R400). -/
def State.endZeros (s : State) (pod : Nat) : State :=
  (s.matrix pod).cmds.foldl (fun t e =>
    match e.2.kind, e.2.due with
    | .zero b, some due =>
      if due ≤ t.now then
        let sl := sliceOf e.2.core
        let t := t.opStore (bankKey pod sl b) 4096 0
        (t.setMatrix pod ((t.matrix pod).setBank sl b Bank.clear)).endCmd pod e.1 e.2
      else t
    | _, _ => t) s

/-! ### Gangs (R330 to R332, R336) -/

/-- Every member of the next gang of a pod takes a fault, and the gang is given up (R330). -/
def State.failGang (s : State) (pod : Nat) (r : Raise) : State :=
  let m := s.matrix pod
  let s := s.setMatrix pod { m with members := [] }
  m.members.foldl (fun t e => t.raiseAt (8 * pod + e.1) t.now r) s

/-- Step 1 of R330: the pod has a core outside the launch range of a core, or a retired one. -/
def State.gangBroken (s : State) (core : Nat) : Option Byte :=
  let pod := core / 8
  let mine := (s.core core).launch
  let cores := (List.range 8).map (fun i => s.core (8 * pod + i))
  if cores.any (fun c => c.launch != mine || mine == none) then some 0x40
  else if cores.any (fun c => c.run == .halted || c.run == .doubleFaulted) then some 0x80
  else none

/-- Steps 2 and 3 of R330: the members compared, then the specifiers and the slots. -/
def Matrix.gangFault (m : Matrix) (g : GangMember) (others : List GangMember) : Option Raise :=
  let bit (k : Nat) (ok : GangMember → Bool) : Nat := if others.all ok then 0 else 2 ^ k
  let q := bit 0 (fun x => x.specA = g.specA) + bit 1 (fun x => x.specB = g.specB) + bit 2 (fun x => x.fa = g.fa && x.fb = g.fb)
  let slots := [specSlot g.specA, specSlot g.specB]
  if q ≠ 0 then some ⟨0x14, BitVec.ofNat 8 q, 0⟩
  else if !specValid g.specA true then some ⟨0x15, 0x01, g.specA⟩
  else if !specValid g.specB false then some ⟨0x15, 0x01, g.specB⟩
  else
    match slots.find? (fun t => (m.slot t).claim.isNone) with
    | some t => some ⟨0x15, 0x02, BitVec.ofNat 64 t⟩
    | none => (slots.find? (fun t => (m.slot t).err)).map (fun t => ⟨0x15, 0x04, BitVec.ofNat 64 t⟩)

/-- A command enters its core's queue; the engine accepts it at its next edge (R324). -/
def State.enqueue (s : State) (pod core : Nat) (kind : MatKind) : State :=
  let m := s.matrix pod
  let c : MatCmd := ⟨core, kind, false, false, s.matEdgeAfter pod s.now, none, 0, none⟩
  (s.setMatrix pod { m with cmds := SMap.put m.cmds m.nextCmd c, nextCmd := m.nextCmd + 1 }).postCore
    (s.matEdgeAfter pod s.now) core (.matrixCommandAccept pod core)

/-- A core held at an MGANG goes on: the MGANG issues at the first cycle at or after the acceptance, and the next instruction no sooner than one cycle later (R330, R331). -/
def State.leaveGang (s : State) (core : Nat) : State :=
  s.complete core ((s.core core).clock.pipe.ceil s.now) (s.lastHead core)

/-- A gang's acceptance: its members' counts advance and they go on (R330). -/
def State.acceptGang (s : State) (pod : Nat) : State :=
  let m := s.matrix pod
  let counts := (List.range 8).foldl (fun k i => SMap.set (fun _ => 0) k i (SMap.get (fun _ => 0) k i + 1)) m.counts
  (List.range 8).foldl (fun t i => t.leaveGang (8 * pod + i)) (s.setMatrix pod { m with counts := counts })

/-- A command is accepted (R324, R330). -/
def State.acceptCmd (s : State) (pod id : Nat) (c : MatCmd) : State :=
  let s := s.setCmd pod id { c with accepted := true }
  if c.kind.isGang then s.acceptGang pod else s

/-- The gang of a pod forms once its eighth member has come: it fails, or it is a command from now on, accepted at once unless an earlier command waits for its acceptance (R324, R330). -/
def State.formGang (s : State) (pod : Nat) : State :=
  let m := s.matrix pod
  match m.members with
  | [] => s
  | g :: rest =>
    if m.members.length < 8 then s
    else
      match m.gangFault g.2 (rest.map Prod.snd) with
      | some r => s.failGang pod r
      | none =>
        let kind := MatKind.gang g.2.fa g.2.fb (specSlot g.2.specA) (specHalf g.2.specA) (specSlot g.2.specB)
          (m.members.map (fun e => (e.2.bank, e.2.z)))
        let behind := m.cmds.any (fun e => !e.2.accepted)
        let s := (s.setMatrix pod { m with members := [] }).enqueue pod (8 * pod) kind
        if behind then s
        else
          match SMap.find (s.matrix pod).cmds m.nextCmd with
          | some c => s.acceptCmd pod m.nextCmd c
          | none => s

/-- MATRIX_COMMAND_ACCEPT (R324, R328, R330): the oldest queued command is accepted if it is this core's and its edge has come, and commands begin. -/
def execMatrixCommandAccept (pod core : Nat) (s : State) : Host.Outcome State Fault Refusal :=
  let s :=
    match (s.matrix pod).members with
    | [] => s
    | g :: _ =>
      match s.gangBroken (8 * pod + g.1) with
      | some q => s.failGang pod ⟨0x14, q, 0⟩
      | none => s
  let s := s.endZeros pod
  let s :=
    match (s.matrix pod).cmds.find? (fun e => !e.2.accepted) with
    | some (id, c) =>
      if c.core = core && decide (c.edge ≤ s.now) then s.acceptCmd pod id c else s
    | none => s
  .next (s.beginCmds pod)

/-- The first bad word of a run of operand memory or of a bank (R397). -/
def State.opBad (s : State) (key n : Nat) : Bool := (s.badIn key n).isSome

/-- K and the bytes of A's and B's data that a gang reads (R319, R329). -/
def gangShape (A B : Fmt) : Nat × Nat × Nat :=
  let k := if A.isWide then 32 else 64
  (k, 64 * k * A.width / 8, 128 * k * B.width / 8)

/-- The slot of a gang that holds a bad word among the bytes it reads, A before B (R399). -/
def State.gangBadSlot (s : State) (pod : Nat) (A B : Fmt) (slotA half slotB : Nat) : Option Nat :=
  let g := gangShape A B
  let a := slotKey pod slotA
  let b := slotKey pod slotB
  let narrow := !A.isWide
  if s.opBad (a + 4096 * half) g.2.1 || (narrow && s.opBad (a + 8192 + 256 * half) 256) then some slotA
  else if s.opBad b g.2.2 || (narrow && s.opBad (b + 8192) 512) then some slotB
  else none

/-- One element of a gang: row r of A, column n of B, into acc (R332). -/
def State.gangElem (s : State) (pod : Nat) (A B : Fmt) (slotA half slotB r n acc : Nat) : Coded :=
  let k := (gangShape A B).1
  let row := k * A.width / 8
  let col := k * B.width / 8
  let a := slotKey pod slotA
  let b := slotKey pod slotB
  let xs := Memory.readLE s.mem (a + 4096 * half + r * row) row
  let ys := Memory.readLE s.mem (b + n * col) col
  let sa := Memory.readLE s.mem (a + 8192 + 256 * half + 4 * r) 4
  let sb := Memory.readLE s.mem (b + 8192 + 4 * n) 4
  gangDot acc (dotBlocks A B false k xs ys (sa + 2 ^ 32 * sb))

/-- A gang's result in one slice, read from the machine as the gang found it; a marked bank keeps its values unless the gang starts it from zero, which clears the mark (R332, R400). -/
def State.gangSlice (s0 s : State) (pod : Nat) (A B : Fmt) (slotA half slotB slice bank : Nat) (z : Bool) : State :=
  let key := bankKey pod slice bank
  let m := s.matrix pod
  let old := m.bank slice bank
  if !z && old.mark.isSome then s
  else if !z && s0.opBad key 4096 then s.setMatrix pod (m.setBank slice bank { old with mark := some (0x04, 0) })
  else
    let rs := (List.range 1024).map (fun i =>
      s0.gangElem pod A B slotA half slotB (i / 16) (16 * slice + i % 16) (if z then 0 else s0.bankElem pod slice bank (i / 16) (i % 16)))
    let flags := rs.foldl (fun w c => w ||| c.flags) (0 : Word)
    let s := s.opStore key 4096 (packLanes 32 (rs.map (·.code)))
    s.setMatrix pod (m.setBank slice bank ⟨old.flags ||| flags.extractLsb' 16 5, none⟩)

/-- GANG_COMPLETE (R332, R399, R400): the oldest gang that is due writes its banks and flags. -/
def execGangComplete (pod : Nat) (s : State) : Host.Outcome State Fault Refusal :=
  match (s.matrix pod).cmds.find? (fun e => e.2.kind.isGang && e.2.started && (match e.2.due with | some d => decide (d ≤ s.now) | none => false)) with
  | none => .next s
  | some (id, c) =>
    match c.kind with
    | .gang fa fb slotA half slotB banks =>
      let A := (Fmt.ofCode fa).getD .e4m3
      let B := (Fmt.ofCode fb).getD .e4m3
      let m := s.matrix pod
      match s.gangBadSlot pod A B slotA half slotB with
      | some bad =>
        let m := m.setSlot bad { m.slot bad with err := true }
        let m := (banks.zipIdx).foldl (fun m b => m.setBank b.2 b.1.1 { m.bank b.2 b.1.1 with mark := some (0x03, bad) }) m
        .next ((s.setMatrix pod m).endCmd pod id c)
      | none =>
        let t := (banks.zipIdx).foldl (fun t b => s.gangSlice t pod A B slotA half slotB b.2 b.1.1 b.1.2) s
        .next (t.endCmd pod id c)
    | _ => .next s

/-! ### Moves (R325 to R327, R399) -/

/-- A move ends: the counter is incremented, and a failure is told (R326, R327). -/
def State.endMove (s : State) (pod id : Nat) (c : MatCmd) : State :=
  match c.kind with
  | .move load slot half _ _ _ _ counter =>
    let s := match counter with | some k => s.bumpCounter c.core k | none => s
    let s :=
      match c.failure with
      | none => s
      | some (code, qual, a) =>
        let m := s.matrix pod
        let s := if load then s.setMatrix pod (m.setSlot slot { m.slot slot with err := true }) else s
        let tag := slot + 256 * half + (if load then 0 else 512)
        let msg := Message.mk 0x05 code (BitVec.ofNat 16 tag) (BitVec.ofNat 32 (s.core c.core).rank)
          (BitVec.ofNat 64 (qual.toNat * 2 ^ 56 + a.toNat % 2 ^ 56))
        s.sendMail (routerOfCore c.core) 0 (matrixSender pod) c.core (s.pidOf c.core) msg
    s.endCmd pod id c
  | _ => s

/-- A local move that is due takes effect: the image into the slot, or the part out to the slice (R326, R399). -/
def State.localMove (s : State) (pod id : Nat) (c : MatCmd) : State :=
  match c.kind with
  | .move load slot half whole b32 _ ea _ =>
    let n := imageLength whole b32
    let key := sliceKey c.core ea.toNat
    if load then
      match s.badIn key n with
      | some w => s.endMove pod id { c with failure := some (0x0F, 0x01, BitVec.ofNat 64 (w - sliceKey c.core 0)) }
      | none => (s.putImage pod slot half whole b32 0 (Memory.readLE s.mem key n) n).endMove pod id c
    else (s.store key n (s.getImage pod slot half whole 0 n)).endMove pod id c
  | _ => s

/-- The response of a move's piece taken in: its bytes, then the next piece or the end; the first failure stops it (R326, R327). -/
def State.operandResponse (s : State) (pod id : Nat) (req : Nat) (r : Req) (a : Answer) : State :=
  let s := s.dropReq req
  match SMap.find (s.matrix pod).cmds id with
  | none => s
  | some c =>
    match c.kind with
    | .move load slot half whole b32 _ _ _ =>
      match a with
      | .fail code qual => s.endMove pod id { c with failure := some (code, qual, r.ea) }
      | .ok v _ =>
        let n := r.op.size
        let s := if load then s.putImage pod slot half whole b32 c.pos v n else s
        let c := { c with pos := c.pos + n }
        let s := s.setCmd pod id c
        if imageLength whole b32 ≤ c.pos then s.endMove pod id c else s.sendOperand pod id c
    | _ => s

/-- A move's event: a local move that is due, or the responses of a global one. -/
def State.moveEvent (s : State) (pod id : Nat) : State :=
  match SMap.find (s.matrix pod).cmds id with
  | none => s
  | some c =>
    match c.due with
    | some due => if due ≤ s.now then s.localMove pod id c else s
    | none =>
      s.reqs.foldl (fun t q =>
        match q.2.client, q.2.stage with
        | .operand p k _, .returned a => if p = pod ∧ k = id then t.operandResponse pod id q.1 q.2 a else t
        | _, _ => t) s

/-- Whether a command is an MLOAD. -/
def Matrix.isLoad (m : Matrix) (id : Nat) : Option Bool :=
  match SMap.find m.cmds id with
  | some c => (match c.kind with | .move load _ _ _ _ _ _ _ => some load | _ => none)
  | none => none

/-- MLOAD_COMPLETE (R326, R327). -/
def execMloadComplete (pod cmd : Nat) (s : State) : Host.Outcome State Fault Refusal :=
  .next (if (s.matrix pod).isLoad cmd = some true then s.moveEvent pod cmd else s)

/-- MSTORE_COMPLETE (R326, R327). -/
def execMstoreComplete (pod cmd : Nat) (s : State) : Host.Outcome State Fault Refusal :=
  .next (if (s.matrix pod).isLoad cmd = some false then s.moveEvent pod cmd else s)

/-- MREL_FREE (R321): the slots are free, and their ERR flags cleared. -/
def execMrelFree (pod cmd : Nat) (s : State) : Host.Outcome State Fault Refusal :=
  match SMap.find (s.matrix pod).cmds cmd with
  | some c =>
    match c.kind with
    | .rel slot n =>
      if c.started then
        let m := (List.range n).foldl (fun (m : Matrix) i => m.setSlot (slot + i) OpSlot.free) (s.matrix pod)
        .next ((s.setMatrix pod m).endCmd pod cmd c)
      else .next s
    | _ => .next s
  | none => .next s

/-! ### Draining (R333 to R335) -/

/-- The bytes of an element that a CVT writes (R333). -/
def drainWidth (cvt : Nat) : Nat := if cvt = 0 then 4 else if cvt = 1 then 2 else 1

/-- A CVT of an MX form (R333). -/
def drainMx (cvt : Nat) : Bool := decide (2 ≤ cvt)

/-- The valid columns of a drain. -/
def drainCols (cmask : Nat) : List Nat := (List.range 16).filter (fun c => cmask.testBit c)

/-- The runs of bytes a drain writes, row by row: its elements, then its scale byte (R334). -/
def drainRuns (cvt ea : Nat) (stride : Word) (nr cmask scale : Nat) : List (Nat × Nat) :=
  let w := drainWidth cvt
  let cols := drainCols cmask
  if cols.isEmpty then []
  else
    (List.range nr).flatMap (fun (r : Nat) =>
      let row := (wordOf ((ea : Int) + (r : Int) * stride.toInt)).toNat
      cols.map (fun (c : Nat) => ((wordOf ((row : Int) + w * (c : Int))).toNat, w)) ++
        (if drainMx cvt then [((wordOf ((scale : Int) + (r : Int))).toNat, 1)] else []))

/-- What a drain writes for one row: the element codes of its valid columns and its scale byte, with the conversion's flags (R334). -/
def drainRow (cvt : Nat) (xs : List Nat) : List Nat × Nat × Word :=
  if cvt = 0 then (xs, 0, 0)
  else if cvt = 1 then
    let cs := xs.map (fun x => convert .bf16 .f32 x .rne 0 false false)
    (cs.map (·.code), 0, flagsOf cs)
  else
    let q := quantise (if cvt = 2 then .e4m3 else .e5m2) false .rne (fun _ => 0) (xs.map (val .f32))
    (q.codes.map (·.code), q.scale, flagsOf q.codes)

/-- The writes of one row of a drain, by address key, size and value, with its flags (R334). -/
def State.drainRowAt (s : State) (core pod bank cvt ea : Nat) (stride : Word) (cmask scale r : Nat) : List (Nat × Nat × Nat) × Word :=
  let w := drainWidth cvt
  let cols := drainCols cmask
  let row := (wordOf ((ea : Int) + r * stride.toInt)).toNat
  let out := drainRow cvt (cols.map (fun c => s.bankElem pod (sliceOf core) bank r c))
  let elems := (cols.zip out.1).map (fun e => (sliceKey core (wordOf ((row : Int) + w * e.1)).toNat, w, e.2))
  (elems ++ (if drainMx cvt then [(sliceKey core (wordOf ((scale : Int) + r)).toNat, 1, out.2.1)] else []), out.2.2)

/-- MDRAIN_COMPLETE (R334, R335, R398, R400): the rows are written as one access, the flags go into STAT.FX, .clr clears the bank unless it is marked, and the range clears. A bad word among the elements read marks the bank, and nothing is written. -/
def execMdrainComplete (pod cmd : Nat) (s : State) : Host.Outcome State Fault Refusal :=
  match SMap.find (s.matrix pod).cmds cmd with
  | none => .next s
  | some c =>
    match c.kind, c.due with
    | .drain bank cvt clr ea stride nr cmask scale, some due =>
      if s.now < due then .next s
      else
        let sl := sliceOf c.core
        let key := bankKey pod sl bank
        let m := s.matrix pod
        let rows := if (drainCols cmask).isEmpty then [] else List.range nr
        let s :=
          if rows.any (fun r => (drainCols cmask).any (fun (x : Nat) => s.opBad (key + 4 * (16 * r + x)) 4)) then
            s.setMatrix pod (m.setBank sl bank { m.bank sl bank with mark := some (0x04, 0) })
          else
            let w := rows.map (fun r => s.drainRowAt c.core pod bank cvt ea stride cmask scale r)
            let s := s.storeAll (w.flatMap (·.1))
            let k := s.core c.core
            let fx := w.foldl (fun f x => f ||| x.2) (BitVec.ofNat 64 ((m.bank sl bank).flags.toNat * 2 ^ 16))
            let s := s.setCore c.core { k with stat := k.stat ||| fx }
            if clr && (m.bank sl bank).mark.isNone then
              (s.opStore key 4096 0).setMatrix pod ((s.matrix pod).setBank sl bank { (s.matrix pod).bank sl bank with flags := 0 })
            else s
        .next ((s.endCmd pod cmd c).postReleases c.core)
    | _, _ => .next s

/-! ### The instructions -/

/-- MCLAIM: the count in m (R320). -/
def sigMclaim : Sig where
  op := 0xA00
  lat := 3
  roles := fun _ => { d := .gw }
  reserved := fun o => o.a != 0 || o.b != 0 || o.c != 0

/-- The lowest first slot of a run of n free slots (R320). -/
def Matrix.freeRun (m : Matrix) (n : Nat) : Option Nat :=
  (List.range (257 - n)).find? (fun i => (List.range n).all (fun j => (m.slot (i + j)).claim.isNone))

/-- MCLAIM (R320). -/
def execMclaim (t : TailW) (s : State) : Host.Outcome State Fault Refusal :=
  issue sigMclaim (opndW t) s fun o s =>
    let pod := s.cur / 8
    let n := o.m.toNat + 1
    let m := s.matrix pod
    let c := s.cc
    let due := s.now + 3 * c.clock.pipePeriod
    let result (s : State) (x : Word) : Result := .done (s.putVar (.at due) [o.d] [] [.gen (c.phys o.d) x] false)
    match m.freeRun n with
    | none => result s 0xFFFF_FFFF_FFFF_FFFF
    | some i =>
      let m := (List.range n).foldl (fun (m : Matrix) j => m.setSlot (i + j) { m.slot (i + j) with claim := some (sliceOf s.cur) }) m
      result (s.setMatrix pod m) (BitVec.ofNat 64 i)

/-- A core's queue has no free entry (R324). -/
def State.queueFull (s : State) : Bool :=
  decide (8 ≤ ((s.matrix (s.cur / 8)).cmds.filter (fun e => e.2.core = s.cur && !e.2.accepted && !e.2.kind.isGang)).length)

/-- A command of the core in turn enters its queue, or the core is held at issue while the queue is full (R324). -/
def State.command (s : State) (kind : MatKind) : Result :=
  if s.queueFull then .wait else .done (s.enqueue (s.cur / 8) s.cur kind)

/-- MREL: the count in m (R321). -/
def sigMrel : Sig where
  op := 0xA01
  roles := fun _ => { a := .gr }
  reserved := fun o => o.d != 0 || o.b != 0 || o.c != 0

/-- MREL (R321, R351). -/
def execMrel (t : TailW) (s : State) : Host.Outcome State Fault Refusal :=
  issue sigMrel (opndW t) s fun o s =>
    let pod := s.cur / 8
    let n := o.m.toNat + 1
    let x := s.cc.readG o.a
    let slot := specSlot x
    if !specValid x false || decide (256 < slot + n) then .fault ⟨0x15, 0x01, x⟩
    else
      match (s.matrix pod).claimFault (sliceOf s.cur) (s.boarded pod none) ((List.range n).map (slot + ·)) with
      | some r => .fault r
      | none => s.command (.rel slot n)

/-- MLOAD and MSTORE: m[2] is accepted for MLOAD only (R325, R326). -/
def sigMove (op : Opcode) : Sig where
  op := op
  roles := fun _ => { d := .gr, a := .gr }
  reserved := fun o => o.b != 0 || o.c.getLsbD 5 || decide (8 ≤ o.m.toNat)
  refuses := fun _ o => op != 0xA02 && o.m.getLsbD 2

/-- MLOAD or MSTORE issues (R325, R326, R351). -/
def moveOperand (load : Bool) (o : Opnd) (s : State) : Result :=
  let pod := s.cur / 8
  let c := s.cc
  let ea := c.eaD o
  let whole := !o.m.getLsbD 0
  let glob := o.m.getLsbD 1
  let b32 := o.m.getLsbD 2
  let n := imageLength whole b32
  let x := c.readG o.d
  let slot := specSlot x
  match (if glob then misaligned ea 64 else s.localFault (!load) 64 ea.toNat n) with
  | some r => .fault r
  | none =>
    if !specValid x (!whole) then .fault ⟨0x15, 0x01, x⟩
    else
      match (s.matrix pod).claimFault (sliceOf s.cur) (fun t => load && s.boarded pod none t) [slot] with
      | some r => .fault r
      | none =>
        if s.queueFull || (!glob && !c.rangeRoom 1) then .wait
        else
          let counter := if o.c.getLsbD 4 then some (o.c.toNat % 16) else none
          let id := (s.matrix pod).nextCmd
          let s := if glob then s else s.setCc { c with ranges := c.ranges ++ [⟨ea.toNat, ea.toNat + n - 1, !load, false, 64 + id⟩] }
          s.command (.move load slot (if whole then 0 else specHalf x) whole b32 glob ea counter)

/-- MLOAD (R325, R326). -/
def execMload (t : TailD) (s : State) : Host.Outcome State Fault Refusal :=
  issue (sigMove 0xA02) (opndD t) s (moveOperand true)

/-- MSTORE (R325, R326). -/
def execMstore (t : TailD) (s : State) : Host.Outcome State Fault Refusal :=
  issue (sigMove 0xA03) (opndD t) s (moveOperand false)

/-- MZERO: every bit but m[1:0] zero (R328). -/
def sigMzero : Sig where
  op := 0xA04
  reserved := fun o => o.d != 0 || o.a != 0 || o.b != 0 || o.c != 0 || decide (4 ≤ o.m.toNat)

/-- MZERO (R328). -/
def execMzero (t : TailW) (s : State) : Host.Outcome State Fault Refusal :=
  issue sigMzero (opndW t) s fun o s => s.command (.zero (o.m.toNat % 4))

/-- MGANG: d, c and m[7:3] zero (R329). -/
def sigMgang : Sig where
  op := 0xA05
  roles := fun _ => { a := .gr, b := .gr }
  reserved := fun o => o.d != 0 || o.c != 0 || decide (8 ≤ o.m.toNat)

/-- Whether a command clears a bank's mark, by 4 × slice + bank: an MZERO, or a gang that starts the bank from zero (R400). -/
def MatCmd.clears (c : MatCmd) (bank : Nat) : Bool :=
  match c.kind with
  | .zero b => bank == 4 * sliceOf c.core + b
  | .gang _ _ _ _ _ bs => bs.zipIdx.any (fun x => x.1.2 && bank == 4 * x.2 + x.1.1)
  | _ => false

/-- The fault that a bank's failed mark raises at an issue: none once a command that clears the mark stands before it (R397, R400). -/
def Matrix.bankFault (m : Matrix) (slice b : Nat) : Option Raise :=
  if m.cmds.any (fun e => e.2.clears (4 * slice + b)) then none
  else (m.bank slice b).mark.map (fun x => ⟨0x0F, x.1, BitVec.ofNat 64 (b + 256 * x.2)⟩)

/-- MGANG (R329 to R331, R400): the core joins its pod's next gang and is held until the gang is accepted. -/
def execMgang (t : TailW) (s : State) : Host.Outcome State Fault Refusal :=
  issue sigMgang (opndW t) s fun o s =>
    let pod := s.cur / 8
    let sl := sliceOf s.cur
    let c := s.cc
    let m := s.matrix pod
    let b := o.m.toNat % 4
    let z := o.m.getLsbD 2
    match s.gangBroken s.cur with
    | some q => .fault ⟨0x14, q, 0⟩
    | none =>
      match (if z then none else m.bankFault sl b) with
      | some r => .fault r
      | none =>
        if s.queueFull then .wait
        else
          let f := c.fmtTail
          let g : GangMember := ⟨c.readG o.a, c.readG o.b, f.a, f.b, b, z⟩
          let s := s.setMatrix pod { m with members := SMap.put m.members sl g }
          if m.members.length < 7 then .sleep s .gang
          else .own ((s.setCc { s.cc with run := .sleeping .gang, charged := true }).formGang pod)

/-- A core held at MGANG whose gang has not formed is withdrawn from it (R331). -/
def State.withdrawGang (s : State) (core : Nat) : State :=
  let m := s.matrix (core / 8)
  s.setMatrix (core / 8) { m with members := SMap.erase m.members (sliceOf core) }

/-- Whether a core is a member of a gang that has not formed (R331). -/
def State.gangWaits (s : State) (core : Nat) : Bool := (SMap.find (s.matrix (core / 8)).members (sliceOf core)).isSome

/-- CVT of an MDRAIN (R333). -/
def drainCvt (o : Opnd) : Nat := o.m.toNat / 4 % 8

/-- MDRAIN: m[7:6] zero; d names the scale address in the MX forms and is 0 otherwise (R333). -/
def sigMdrain : Sig where
  op := 0xA06
  roles := fun o => { d := if drainMx (drainCvt o) then .gr else .imm, a := .gr, b := .gr, c := .gr }
  reserved := fun o => decide (64 ≤ o.m.toNat)
  refuses := fun _ o => decide (4 ≤ drainCvt o) || drainMx (drainCvt o) != (o.d != 0)

/-- The range of a drain: from its lowest byte to its highest; one that writes nothing covers no byte (R335). -/
def drainRange (runs : List (Nat × Nat)) (id : Nat) : RangeEntry :=
  let lo := runs.foldl (fun m r => min m r.1) (2 ^ 64)
  let hi := runs.foldl (fun m r => max m (r.1 + r.2 - 1)) 0
  ⟨lo, hi, true, true, 64 + id⟩

/-- MDRAIN (R333, R335, R400). -/
def execMdrain (t : TailD) (s : State) : Host.Outcome State Fault Refusal :=
  issue sigMdrain (opndD t) s fun o s =>
    let pod := s.cur / 8
    let c := s.cc
    let cvt := drainCvt o
    let w := drainWidth cvt
    let b := o.m.toNat % 4
    let ea := c.eaD o
    let stride := c.readG o.b
    let edge := c.readG o.c
    let cmask := if o.c = 0 then 0xFFFF else bitsOf edge 15 0
    let nr := if o.c = 0 then 64 else min 64 (bitsOf edge 22 16)
    let scale := (c.readG o.d).toNat
    let runs := drainRuns cvt ea.toNat stride nr cmask scale
    if ea.toNat % w ≠ 0 ∨ stride.toNat % w ≠ 0 then .fault ⟨0x08, 0, ea⟩
    else
      match s.lowestFault true runs with
      | some r => .fault r
      | none =>
        match (s.matrix pod).bankFault (sliceOf s.cur) b with
        | some r => .fault r
        | none =>
          if s.queueFull || !c.rangeRoom 1 then .wait
          else
            let s := s.setCc { c with ranges := c.ranges ++ [drainRange runs (s.matrix pod).nextCmd] }
            s.command (.drain b cvt (o.m.getLsbD 5) ea.toNat stride nr cmask scale)

/-- MGEO: b, c and m zero (R323). -/
def sigMgeo : Sig where
  op := 0xA07
  lat := 2
  roles := fun _ => { d := .gw, a := .gr }
  reserved := fun o => o.b != 0 || o.c != 0 || o.m != 0

/-- The edge descriptor of a slice for an output tile (R323). -/
def edgeOf (geom x : Word) (slice : Nat) : Word :=
  let rows := bitsOf geom 31 16 + 1
  let cols := bitsOf geom 15 0 + 1
  let row0 := 64 * bitsOf x 31 16
  let col0 := 128 * bitsOf x 15 0 + 16 * slice
  let nr := (sat ((rows : Int) - row0) 0 64).toNat
  let nc := (sat ((cols : Int) - col0) 0 16).toNat
  BitVec.ofNat 64 (2 ^ nc - 1 + nr * 2 ^ 16 + col0 * 2 ^ 24 + slice * 2 ^ 48)

/-- MGEO (R323). -/
def execMgeo (t : TailW) (s : State) : Host.Outcome State Fault Refusal :=
  issue sigMgeo (opndW t) s fun o s => .done (s.putG o.d (edgeOf s.cc.geom (s.cc.readG o.a) (sliceOf s.cur)) 2)

end Sys2Proof.Machine
end

