-- ==== Sys2Proof/Machine/Ring.lean ====
section
/-! DEFINITION. The weight ring and boarding: laps, feeders, stations, taps, BOARD and BSTAT (R339 to R357, R451, R453). -/

namespace Sys2Proof.Machine

/-! ### Lap images (R342, R344, R357) -/

/-- A partition whose segments the next lap start leaves out of the image: stopped, in reset, or reset since the lap in progress started (R357, R438). -/
def Partition.leftOut (p : Partition) : Bool := p.resetting || p.leaves || (match p.stop with | .stopped _ _ _ => true | _ => false)

/-- The package lap image as the next lap start would find it: partitions by rising PID, each with its segments in order (R342). -/
def State.lapImage (s : State) : List Segment :=
  ((s.ring.segs.foldl (fun r e =>
    if (s.part e.1).valid && !(s.partition e.1).leftOut then SMap.insert r (1024 * (s.part e.1).pid.toNat + e.1) e.2 else r) []).flatMap Prod.snd)

/-- The frames of an image. -/
def imageFrames (image : List Segment) : Nat := image.foldl (fun n g => n + g.count) 0

/-- Frame j of an image: its segment, the segment's index and the frame's index in it (R344). -/
def frameOf : List Segment → (idx j : Nat) → Option (Segment × Nat × Nat)
  | [], _, _ => none
  | g :: gs, idx, j => if j < g.count then some (g, idx, j) else frameOf gs (idx + 1) (j - g.count)

/-- The next frame of a feeder, which reads one frame ahead (R344; log 31). -/
def State.feedWant (s : State) (die : Nat) : Option FeedWant :=
  let r := s.ring
  let here := r.next + (die + 8 - r.next % 8) % 8
  let want (lap frame : Nat) (image : List Segment) : Option FeedWant :=
    (frameOf image 0 frame).map (fun x => ⟨lap, frame, x.1, x.2.1, x.2.2, decide (frame + 1 = imageFrames image)⟩)
  let ahead := want r.laps die s.lapImage
  if r.inLap then (want (r.laps - 1) here r.image).or ahead else ahead

/-- Whether a feeder has delivered the frame it is to read next. -/
def State.fedReady (s : State) (die : Nat) (w : FeedWant) : Bool := (SMap.find s.ring.fed die).any (fun f => f.want == w)

/-- The router and port of a die's ring station (R237, R339). -/
def routerOfStation (die : Nat) : Nat × Nat := (16 * die + 1, 5)

/-- The HBM address of the frame a feeder wants (R342). -/
def FeedWant.address (w : FeedWant) : Word := w.seg.addr + BitVec.ofNat 64 (8704 * w.findex)

/-- The router and port of the HBM channel that a frame is read from. -/
def FeedWant.place (w : FeedWant) : Nat × Nat := routerOfChannel (channelOf (bitsOf w.address 47 0))

/-- A feeder's read leaves its die's router as a packet of VC1, with the partition id of package control, as every packet of a feeder: no rule gives it another (R238, R243, R344; DEDUCED, log 31). -/
def State.feed (s : State) (die : Nat) : State :=
  match s.feedWant die with
  | none => s
  | some w =>
    if s.fedReady die w || (SMap.find s.ring.reads die).isSome then s
    else
      let s := { s with ring := { s.ring with reads := SMap.put s.ring.reads die ⟨w, none, none⟩ } }
      s.inject (s.netEdgeAfter s.now) (routerOfStation die).1 (routerOfStation die).2 (packetOf (.feed die false) 1 0 0xFF w.place)

/-- The ring looked at again: it runs once every station is ready, its feeders read on, and the next frame or the next lap comes as soon as it may (R344, R345, R460). -/
def State.kickRing (s : State) : State :=
  if bitsOf (s.reg 0x10) 7 0 ≠ 0xFF then s else
  let s := (List.range 8).foldl State.feed s
  let due := max (s.netEdgeAfter s.now) s.ring.nextAt
  let r := s.ring
  if r.inLap && decide (r.next < imageFrames r.image) then s.postOnce due 0 .frameInject
  else if r.inLap && r.ctl.getLsbD 32 then s.postOnce (max due r.lapDue) 0 .lapStart
  else if r.inLap || !s.lapImage.isEmpty then s.postOnce due 0 .lapStart
  else s

/-- A run of 64-byte pieces read by a unit, or the first failure (R234). -/
def State.unitReadRun (s : State) (die vf : Nat) (part : Option Nat) (ea : Word) : (pieces : Nat) → Except Cause (List Byte) × State
  | 0 => (.ok [], s)
  | n + 1 =>
    let r := s.unitRead die vf part ea 64
    match r.1 with
    | .error c => (.error c, r.2)
    | .ok v =>
      let q := r.2.unitReadRun die vf part (ea + 64) n
      match q.1 with
      | .error c => (.error c, q.2)
      | .ok bs => (.ok (bytesOf 64 v ++ bs), q.2)

/-- The header of a frame, with the CRC field it is sent with (R341, R344). -/
def FeedWant.header (w : FeedWant) (crc : Nat) : List Byte :=
  let flags := (if w.findex + 1 = w.seg.count then 1 else 0) + (if w.last then 2 else 0)
  let h := bytesOf 4 0x474E4952 ++ bytesOf 2 w.seg.layer ++ [w.seg.pid, w.seg.fmtc] ++ bytesOf 4 w.findex ++ bytesOf 4 w.seg.count ++
    bytesOf 4 w.lap ++ bytesOf 2 w.segIdx ++ bytesOf 2 flags ++ bytesOf 4 crc
  h ++ bytesOf 4 (crc32c h) ++ bytesOf 32 0

/-- A frame read whole (R340, R341). -/
def FeedWant.frameRead (w : FeedWant) (bytes : List Byte) : RingFrame := ⟨w, w.header (crc32c bytes), bytes⟩

/-- A frame whose read failed: its CRC cannot match (R344). -/
def FeedWant.frameFailed (w : FeedWant) : RingFrame :=
  let bytes := bytesOf 8704 0
  ⟨w, w.header (crc32c bytes ^^^ 0xFFFF_FFFF), bytes⟩

/-- A feeder's read reaches HBM: the frame, or the failure of the read, goes back to station 0 on VC2 after a time that is open (R238); feeder reads are not counted in a budget (R344, R371; log 31). -/
def State.feedRead (s : State) (die : Nat) : State :=
  match SMap.find s.ring.reads die with
  | some ⟨w, none, _⟩ =>
    let r := s.unitReadRun die (s.part w.seg.part).vf (some w.seg.part) w.address 136
    let x : FeedRead :=
      match r.1 with
      | .ok bs => ⟨w, some (w.frameRead bs), none⟩
      | .error c => ⟨w, some w.frameFailed, some c⟩
    let f := State.takeFree { r.2 with budgetUsed := s.budgetUsed, ring := { r.2.ring with reads := SMap.put r.2.ring.reads die x } }
    f.2.inject (s.netEdgeAfter s.now + Config.latency f.1 * s.netPeriod) w.place.1 w.place.2 (packetOf (.feed die true) 2 256 0xFF (routerOfStation 0))
  | _ => s

/-- FEEDER_FRAME_DELIVERY (R344): a frame read from HBM is at station 0; a read that failed is told to the driver. -/
def execFeederFrameDelivery (die : Nat) (s : State) : Host.Outcome State Fault Refusal :=
  match SMap.find s.ring.reads die with
  | some ⟨w, some f, failure⟩ =>
    let wanted := s.feedWant die == some w
    let s := { s with ring := { s.ring with reads := SMap.erase s.ring.reads die, fed := if wanted then SMap.put s.ring.fed die f else s.ring.fed } }
    let s := match failure with
      | some c => s.faultEntry w.seg.part 3 (bytesOf 2 w.segIdx ++ bytesOf 4 w.findex ++ [c.1, c.2])
      | none => s
    .next s.kickRing
  | _ => .next s

/-- The driver removes a partition's segments; the next lap start leaves them out (R342; log 37). -/
def State.removeSegments (s : State) (part : Nat) : State := State.kickRing { s with ring := { s.ring with segs := SMap.erase s.ring.segs part } }

/-- Lane mappings that the driver has asked for come into force (R345, R356). -/
def State.takeLanes (s : State) : State :=
  { s with spares := s.ring.lanes.foldl (fun m e => SMap.put m e.1 e.2) s.spares, ring := { s.ring with lanes := [] } }

/-- A log record of a lap start for a recorded launch; a replay's next logged lap start has its live counterpart (R451, R454). -/
def State.logLap (s : State) (n : Nat) (l : Launch) (lap : Nat) : State :=
  if l.replay then (match s.logFind l 0x15 (fun _ => true) with | some i => s.logUse n i | none => s) else
  let live := (s.rangeCores l).filter (fun c => (s.core c).launch == some n && (s.core c).run != .halted && (s.core c).run != .doubleFaulted)
  let ssc := live.foldl (fun m c => min m (s.core c).ssc.toNat) (2 ^ 64 - 1)
  s.logFor n (traceRecord 0x15 0xFFFF_FFFF (if live.isEmpty then 0 else BitVec.ofNat 64 ssc) s.tick (bytesOf 4 lap))

/-- A partition whose segments the lap start that comes has left out for a reset may have them back at the next (R357, R438). -/
def Partition.rejoin (p : Partition) : Partition := { p with leaves := false }

/-- What takes effect at a lap start beside its image: lane mappings (R356); segments that a reset kept out of this lap return at the next (R357, R438); and an arming that took effect on this very edge counts from the lap that starts (R344, R349). -/
def State.atLapStart (s : State) (lap : Nat) : State :=
  let ctxs := SMap.mapVals (fun _ (x : BoardCtx) => if x.state = 1 && x.effectAt = s.now && x.effectLap.isSome then { x with effectLap := some lap } else x) s.ring.ctxs
  let s := s.partitions.foldl (fun (t : State) e => if e.2.leaves then t.setPartition e.1 e.2.rejoin else t) s
  State.takeLanes { s with ring := { s.ring with ctxs := ctxs } }

/-- LAP_START (R342, R344, R345): the image, RINGCTL and lane changes take effect; an empty image leaves no lap in progress. -/
def execLapStart (s : State) : Host.Outcome State Fault Refusal :=
  let r := s.ring
  let np := s.netPeriod
  let paced := r.inLap && r.ctl.getLsbD 32
  let period := r.lapDue
  let early := !s.net.on s.now || decide (s.now < r.nextAt) || (paced && decide (s.now < period)) || (r.inLap && decide (r.next < imageFrames r.image))
  if early then .next s
  else
    let image := s.lapImage
    if image.isEmpty then
      .next (if r.inLap then (State.atLapStart { s with ring := { r with inLap := false, ctl := s.reg 0x108, image := [], next := 0 } } (r.laps % 2 ^ 32)).kickRing else s)
    else
      match s.feedWant 0 with
      | none => .next s
      | some w =>
        if !s.fedReady 0 w || w.findex ≠ 0 || w.segIdx ≠ 0 then .next s.kickRing
        else
          let s := if paced && decide (period < r.nextAt) then s.setReg 0x110 (BitVec.ofNat 64 (min (2 ^ 32 - 1) ((s.reg 0x110).toNat + 1))) else s
          let s := State.atLapStart { s with ring := { r with
            image := image, ctl := s.reg 0x108, inLap := true, laps := r.laps + 1, next := 0
            lapDue := s.now + bitsOf (s.reg 0x108) 31 0 * np } } (r.laps % 2 ^ 32)
          let s := s.launches.foldl (fun (t : State) e => match e.2.stage with | .started => t.logLap e.1 e.2 (r.laps % 2 ^ 32) | _ => t) s
          .next (s.postOnce s.now 0 .frameInject)

/-- FRAME_INJECT (R339, R344): the next frame's beats follow one another from this edge, and its header reaches station d after 8d cycles. -/
def execFrameInject (s : State) : Host.Outcome State Fault Refusal :=
  let r := s.ring
  let np := s.netPeriod
  if !s.net.on s.now || decide (s.now < r.nextAt) || !r.inLap then .next s
  else
    match s.feedWant (r.next % 8), SMap.find r.fed (r.next % 8) with
    | some w, some f =>
      if w.lap ≠ r.laps - 1 || w.frame ≠ r.next || !s.fedReady (r.next % 8) w then .next s
      else
        let oldest := r.arrived.toList.foldl min r.injected
        let held (k : Nat) : Bool := decide (oldest ≤ k) || r.ctxs.any (fun x => x.2.acts.any (fun a => a.1 == k))
        let s := { s with ring := { r with
          fed := SMap.erase r.fed (r.next % 8)
          frames := SMap.put (r.frames.filter (fun x => held x.1)) r.injected f
          injected := r.injected + 1
          next := r.next + 1
          nextAt := s.now + 3 * np } }
        let s := (List.range 8).foldl (fun t d => t.postCore (t.now + 8 * d * np) 0 (.segmentHeaderArrival d 0)) s
        .next s.kickRing
    | _, _ => .next s

/-! ### Catching a segment (R349 to R352) -/

/-- The core that owns a context (R346). -/
def ctxOwner (k : Nat) : Nat := k / 2

/-- Whether a catching context wants the frame at an index of its segment: one of F0 to F0 + n − 1, or one on its list in a retry (R350, R352). -/
def BoardCtx.wants (x : BoardCtx) (i : Nat) : Bool :=
  decide (x.f0 ≤ i) && decide (i < x.f0 + x.n) && decide (i < x.count) && (!x.retry || x.bad.any (fun b => b.1 == i))

/-- Whether no frame of the segment is wanted: all lie at or beyond its end (R350, R352). -/
def BoardCtx.wantsNone (x : BoardCtx) : Bool :=
  if x.retry then !x.bad.any (fun b => decide (b.1 < x.count)) else decide (x.count ≤ x.f0)

/-- Whether the tap acts on the frame at an index: a wanted one, or the segment's last when none is wanted (R350). -/
def BoardCtx.actsOn (x : BoardCtx) (i : Nat) : Bool := x.wants i || (decide (i + 1 = x.count) && x.wantsNone)

/-- Whether no frame after an index is wanted: the catch is over (R350, R352). -/
def BoardCtx.over (x : BoardCtx) (i : Nat) : Bool :=
  if x.retry then !x.bad.any (fun b => decide (i < b.1) && decide (b.1 < x.count)) else decide (x.f0 + x.n ≤ i + 1) || decide (x.count ≤ i + 1)

/-- Bytes as they arrive over lanes that flip some of their bits (R341, R350). -/
def flipped (bs : List Byte) (flips : Nat) : List Byte := if flips = 0 then bs else bytesOf bs.length (leValue bs ^^^ flips)

/-- A station accepts a header when MAGIC and HCRC match (R341). -/
def headerAccepted (h : List Byte) : Bool := fieldAt h 0 4 == 0x474E4952 && fieldAt h 28 4 == crc32c (h.take 28)

/-- Whether a lap number is later than another, modulo 2^32 (R344, R349). -/
def laterLap (a b : Nat) : Bool := let d := (a + 2 ^ 32 - b % 2 ^ 32) % 2 ^ 32; d != 0 && decide (d < 2 ^ 31)

/-- A catch of a context has ended, or one of its retries (R352): whether it ended corrupt is put beside the catch in the log, in the byte after MISSED, which the spec leaves without a meaning, and a replay whose catch ends otherwise diverges (R451, R454; DESIGN CHOICE, log 35). -/
def State.noteCorrupt (s : State) (k : Nat) : State :=
  let x := s.ctx k
  match s.launchOf (ctxOwner k) with
  | none => s
  | some (n, l) =>
    let pod := (s.core (ctxOwner k)).rank / 8
    let mine (i : Nat) : Bool := s.logField l.part i 0 1 == 0x16 && s.logField l.part i 24 4 == pod && s.logField l.part i 28 1 == k % 16
    if x.state ≠ 3 then s
    else if l.replay then
      match ((s.logSlots l.part).filter (fun i => mine i && l.replayed.contains i)).getLast? with
      | some i => if s.logField l.part i 37 1 = (if x.corrupt then 1 else 0) then s else s.diverge n
      | none => s
    else if l.flag 1 && x.corrupt && !(s.logWord l.part 8 1).testBit 0 then
      match ((s.logSlots l.part).filter mine).getLast? with
      | some i => s.logStore l.part (64 + 64 * i + 37) 1 1
      | none => s
    else s

/-- A context catches a segment whose first header has arrived; in a replay the logged LAP and MISSED are used, and a recorded launch logs the catch (R349, R352, R451, R453). -/
def State.catchSegment (s : State) (k : Nat) (x : BoardCtx) (no : Nat) (h : List Byte) : State :=
  let lap := fieldAt h 16 4
  let count := fieldAt h 12 3
  let again := x.state == 4
  let missed := if again then x.missed else laterLap lap (x.effectLap.getD lap)
  let y := { x with
    state := 2, lap := lap, missed := missed, fmtc := BitVec.ofNat 8 (fieldAt h 7 1), base := no, count := count, retry := again
    short := x.short || decide (count < x.f0 + x.n), acts := [] }
  let core := ctxOwner k
  match s.launchOf core with
  | none => s.setCtx k y
  | some (n, l) =>
    let pod := (s.core core).rank / 8
    if l.replay then
      match s.logFind l 0x16 (fun i => s.logField l.part i 24 4 = pod && s.logField l.part i 28 1 = k % 16) with
      | some i => (s.setCtx k { y with lap := s.logField l.part i 32 4, missed := decide (s.logField l.part i 36 1 = 1) }).logUse n i
      | none => (s.setCtx k y).diverge n
    else
      let c := s.core core
      (s.setCtx k y).logFor n (traceRecord 0x16 c.rank c.ssc s.tick
        (bytesOf 4 pod ++ bytesOf 1 (k % 16) ++ bytesOf 3 0 ++ bytesOf 4 lap ++ bytesOf 1 (if missed then 1 else 0)))

/-- A context that catches a segment sees a frame's header: the tap acts on it 14 cycles later if it wants it (R350). -/
def State.seeFrame (s : State) (k no : Nat) (headerOk : Bool) : State :=
  let x := s.ctx k
  if x.state = 2 ∧ x.base ≤ no ∧ no < x.base + x.count ∧ x.actsOn (no - x.base) = true then
    (s.setCtx k { x with acts := x.acts ++ [(no, headerOk)] }).postCore (s.now + 14 * s.netPeriod) (ctxOwner k) (.tapFrameAct (k / 16) (k % 16) 0)
  else s

/-- A stopped partition, whose contexts catch nothing (R357). -/
def Partition.stopped (p : Partition) : Bool := match p.stop with | .stopped _ _ _ => true | _ => false

/-- Whether a context catches a segment by an accepted header of a lap (R349, R357). -/
def State.catches (s : State) (x : BoardCtx) (k lap : Nat) (h : List Byte) : Bool :=
  (x.state == 1 || x.state == 4) && decide (x.effectAt ≤ s.now) && x.layer == fieldAt h 4 2 && fieldAt h 8 3 == 0 &&
    decide (x.fromLap ≤ lap) && bitsOf (s.core (ctxOwner k)).part 55 48 == fieldAt h 6 1 &&
    !(s.partOf (s.core (ctxOwner k))).any (fun p => (s.partition p).stopped)

/-- SEGMENT_HEADER_ARRIVAL (R339, R349, R350): the next frame's header reaches a station. The first of a segment is caught by armed contexts; one that the station does not accept, as the lanes have left it, is a bad header. -/
def execSegmentHeaderArrival (station flips : Nat) (s : State) : Host.Outcome State Fault Refusal :=
  let no := (s.ring.arrived[station]?).getD 0
  match SMap.find s.ring.frames no with
  | none => .next s
  | some f =>
    if 8 ≤ station then .next s
    else
      let s := { s with ring := { s.ring with arrived := s.ring.arrived.setIfInBounds station (no + 1) } }
      let h := flipped f.head flips
      let headerOk := headerAccepted h
      .next (s.ring.ctxs.foldl (fun t e =>
        if e.1 / 2048 = station then
          let x := t.ctx e.1
          let t := if headerOk && t.catches x e.1 f.want.lap h then t.catchSegment e.1 x no h else t
          t.seeFrame e.1 no headerOk
        else t) s)

/-- A bad frame on a context's list, in rising order (R352). -/
def addBad (i : Nat) (header : Bool) : List (Nat × Bool) → List (Nat × Bool)
  | [] => [(i, header)]
  | b :: bs => if i < b.1 then (i, header) :: b :: bs else if i = b.1 then (i, header) :: bs else b :: addBad i header bs

/-- A context whose catch is over: done, or armed again for its bad frames (R350, R352). -/
def BoardCtx.finish (x : BoardCtx) : BoardCtx :=
  if x.auto && !x.bad.isEmpty && !x.retry then { x with state := 4 }
  else { x with state := 3, corrupt := !x.bad.isEmpty, reported := false }

/-- TAP_FRAME_ACT (R350 to R352): the tap writes the frame as the lanes have left it, or marks it bad; the write comes before the counter. -/
def execTapFrameAct (pod ctx flips : Nat) (s : State) : Host.Outcome State Fault Refusal :=
  let k := 16 * pod + ctx % 16
  let x := s.ctx k
  match x.acts with
  | [] => .next s
  | (no, headerOk) :: rest =>
    let i := no - x.base
    let x := { x with acts := rest }
    let close (x : BoardCtx) : BoardCtx := if x.over i then x.finish else x
    if !x.wants i then .next ((s.setCtx k (close x)).noteCorrupt k)
    else
      let slot := x.slot + (i - x.f0)
      match SMap.find s.ring.frames no with
      | none => .next (s.setCtx k x)
      | some f =>
        let bytes := flipped f.bytes flips
        if headerOk && crc32c bytes == fieldAt f.head 24 4 then
          let s := s.putImage pod slot 0 true false 0 (leValue bytes) 8704
          let m := s.matrix pod
          let s := s.setMatrix pod (m.setSlot slot { m.slot slot with err := false })
          let x := { x with written := x.written + 1, bad := x.bad.filter (fun b => b.1 != i) }
          .next (((s.setCtx k (close x)).noteCorrupt k).bumpCounter (ctxOwner k) x.counter)
        else
          let m := s.matrix pod
          let s := s.setMatrix pod (m.setSlot slot { m.slot slot with err := true })
          .next ((s.setCtx k (close { x with bad := addBad i (!headerOk) x.bad })).noteCorrupt k)

/-- BOARD_ARM_EFFECT (R348, R349): an arming takes effect, beside the lap in progress or the next one. -/
def execBoardArmEffect (pod ctx : Nat) (s : State) : Host.Outcome State Fault Refusal :=
  let k := 16 * pod + ctx % 16
  let x := s.ctx k
  if x.state = 1 ∧ x.effectAt ≤ s.now ∧ x.effectLap = none then
    let lap := if s.ring.inLap then s.ring.laps - 1 else s.ring.laps
    .next (s.setCtx k { x with effectLap := some (lap % 2 ^ 32) })
  else .next s

/-! ### The instructions (R347, R348, R354) -/

/-- BOARD: d, c[5:4], m[7:2] and imm32[31:9] zero, n from 1 to 256 (R347). -/
def sigBoard : Sig where
  op := 0xB03
  roles := fun _ => { a := .gr, b := .gr }
  reserved := fun o => o.d != 0 || decide (16 ≤ o.c.toNat) || decide (4 ≤ o.m.toNat) || decide (512 ≤ o.imm.toNat)
  refuses := fun _ o => o.imm.toNat == 0 || decide (256 < o.imm.toNat)

/-- BOARD (R347, R348): the arming takes effect 16 network cycles after the first network edge at or after its issue. -/
def execBoard (t : TailD) (s : State) : Host.Outcome State Fault Refusal :=
  issue sigBoard (opndD t) s fun o s =>
    let pod := s.cur / 8
    let c := s.cc
    let n := o.imm.toNat
    let k := ctxKey s.cur (o.m.toNat % 2)
    let x := c.readG o.b
    let slot := specSlot x
    if !specValid x false || decide (256 < slot + n) then .fault ⟨0x15, 0x01, x⟩
    else
      match (s.matrix pod).claimFault (sliceOf s.cur) (s.boarded pod (some k)) ((List.range n).map (slot + ·)) with
      | some r => .fault r
      | none =>
        if (s.ctx k).state = 2 then .wait
        else
          let want := c.readG o.a
          let due := s.net.ceil s.now + 16 * s.netPeriod
          let ctx := { BoardCtx.idle with
            layer := bitsOf want 15 0, f0 := bitsOf want 39 16, n := n, slot := slot, counter := o.c.toNat
            auto := o.m.getLsbD 1, state := 1, effectAt := due }
          .done ((s.setCtx k ctx).postEvent due (.boardArmEffect pod (k % 16)))

/-- BSTAT: a, b, c and m[7:1] zero (R354). -/
def sigBstat : Sig where
  op := 0xB04
  lat := 4
  roles := fun _ => { d := .gw }
  reserved := fun o => o.a != 0 || o.b != 0 || o.c != 0 || decide (2 ≤ o.m.toNat)

/-- What BSTAT reads of a context (R354). -/
def BoardCtx.status (x : BoardCtx) : Word :=
  let bit (b : Bool) (k : Nat) : Nat := if b then 2 ^ k else 0
  BitVec.ofNat 64 (x.lap * 2 ^ 32 + x.written * 2 ^ 16 + x.fmtc.toNat * 2 ^ 8 + bit x.reported 6 + bit x.short 5 + bit x.corrupt 4 + bit x.missed 3 + x.state)

/-- BSTAT (R353, R354). -/
def execBstat (t : TailW) (s : State) : Host.Outcome State Fault Refusal :=
  issue sigBstat (opndW t) s fun o s =>
    let x := o.m.toNat % 2
    match s.corruptMark s.cur x with
    | some r => .fault r
    | none =>
      let c := s.cc
      .done (s.putVar (.at (s.now + 4 * c.clock.pipePeriod)) [o.d] [] [.gen (c.phys o.d) (s.ctx (ctxKey s.cur x)).status] false)

end Sys2Proof.Machine
end

