-- ==== Sys2Proof/Machine/System.lean ====
section
/-! DEFINITION. Control registers, tracing, latency accounts and the governor's instruction, and unassigned opcodes (R18, R30 to R34, R55, R123, R124, R256, R273, R359, R375 to R377, R385, R448). -/

namespace Sys2Proof.Machine

/-! ### Control registers (R34) -/

/-- Whether a control-register number is assigned, and whether only handler mode reaches it (R34). -/
def crMode (n : Nat) : Option Bool :=
  if n = 0x00 then some false
  else if n ≤ 0x0C then some true
  else if n ≤ 0x0E then some false
  else if 0x10 ≤ n ∧ n ≤ 0x15 then some false
  else if 0x18 ≤ n ∧ n ≤ 0x1F then some true
  else if 0x20 ≤ n ∧ n ≤ 0x21 then some false
  else if 0x30 ≤ n ∧ n ≤ 0x34 then some false
  else if n = 0x35 then some true
  else if 0x38 ≤ n ∧ n ≤ 0x3A then some false
  else if 0x40 ≤ n ∧ n ≤ 0x43 then some false
  else none

/-- The control-register number of an MFC or MTC. -/
def Opnd.cr (o : Opnd) : Nat := o.imm.toNat % 256

/-- CORE (R183): the package number above the flat number. -/
def State.coreReg (s : State) (n : Nat) : Word := BitVec.ofNat 64 (s.pkg % 2 ^ 13 * 2 ^ 13 + n)

/-- GRANT (R359): the partition's grant and pair, the package's network and memory multipliers, and PEND; a replayed notice stands in place of them (R453). -/
def State.grantReg (s : State) (c : Core) : Word :=
  let p := match s.partOf c with | some i => s.partition i | none => Partition.idle
  match c.grantReplay with
  | some w => w
  | none =>
    BitVec.ofNat 64 (p.grantSeq % 2 ^ 16 * 2 ^ 48 + (if c.grantPend then 2 ^ 40 else 0) + p.grantCause % 16 * 2 ^ 36 +
      p.mat * 2 ^ 24 + p.vec * 2 ^ 16 + s.chameleon.netNow * 2 ^ 8 + s.chameleon.memNow)

/-- COVF (R385). -/
def State.covf (s : State) (c : Core) : Word :=
  match c.launch.bind (SMap.find s.launches) with
  | some l => if l.flag 2 then BitVec.ofNat 64 (l.rung * 2 ^ 32 + l.frac.toNat) else 0x10000
  | none => 0x10000

/-- ACT (R376): BLK, and the window with the reading MFC's own charge, which has been made. -/
def Core.actReg (c : Core) (t : Nat) : Word :=
  let seq := c.clock.seqAt t
  let own := c.charges.foldl (fun a e => if e.1 = seq then a + e.2 else a) 0
  BitVec.ofNat 64 (c.blk.toNat * 2 ^ 16 + (c.window seq + own) % 512)

/-- INBOXB (R270). -/
def Core.inboxb (c : Core) : Word :=
  BitVec.ofNat 64 ((match c.inbox with | m :: _ => m.kind.toNat * 256 | [] => 0) + c.inbox.length)

/-- EPFX as it reads (R26): the payload of each prefix that awaits its target, in handler mode also those of the code that the handler interrupted, and zero in a field whose prefix does not (log 16). -/
def Core.epfxReg (c : Core) : Word :=
  let awaits (bit : Nat) : Bool := (c.pp && c.stat.getLsbD bit) || (c.hm && !c.pp && c.estat.getLsbD 0 && c.estat.getLsbD bit)
  c.epfx &&& ((if awaits 2 then 0xFFFF_FFFF_0000_0000 else 0) ||| (if awaits 1 then 0xFFFF else 0))

/-- The oldest return address of the store, and 0 of an empty one (R18). -/
def Core.oldestReturn (c : Core) : Word := (c.ras.getLast?.getD 0).setWidth 64

/-- What a control register reads as (R34); an MFC of WSE or RASE does more. -/
def State.readCr (s : State) (n : Nat) : Word :=
  let c := s.cc
  match n with
  | 0x00 => c.stat
  | 0x01 => c.estat
  | 0x02 => c.epc.setWidth 64
  | 0x03 => c.ecause
  | 0x04 => c.eaddr
  | 0x05 => c.epfxReg
  | 0x06 => c.tvec
  | 0x07 => BitVec.ofNat 64 (c.px.toNat * 2 ^ 32 + c.res.toNat * 2 ^ 24 + c.slot.toNat)
  | 0x08 => c.wstk
  | 0x09 => c.getP (.stack c.px.toNat)
  | 0x0A => c.rasb
  | 0x0C => c.oldestReturn
  | 0x0B => BitVec.ofNat 64 (c.rasSaved.toNat * 2 ^ 32 + c.ras.length)
  | 0x0D => c.reps
  | 0x0E => c.tcmp
  | 0x10 => c.lc0.setWidth 64
  | 0x11 => c.ls0.setWidth 64
  | 0x12 => c.le0.setWidth 64
  | 0x13 => c.lc1.setWidth 64
  | 0x14 => c.ls1.setWidth 64
  | 0x15 => c.le1.setWidth 64
  | 0x20 => BitVec.ofNat 64 (c.clock.cycAt s.now)
  | 0x21 => BitVec.ofNat 64 (c.clock.reftAt s.now)
  | 0x30 => s.coreReg s.cur
  | 0x31 => c.part
  | 0x32 => c.wid
  | 0x33 => c.geom
  | 0x34 => c.ssc
  | 0x35 => c.mfr ||| BitVec.ofNat 64 (min 32 c.held.length)
  | 0x38 => c.tsm
  | 0x39 => c.lacci
  | 0x3A => c.inboxb
  | 0x40 => BitVec.ofNat 64 ((if c.gie then 256 else 0) + c.budget.toNat)
  | 0x41 => c.actReg s.now
  | 0x42 => s.grantReg c
  | 0x43 => s.covf c
  | _ => if 0x18 ≤ n ∧ n ≤ 0x1F then c.prot[n - 0x18]?.getD 0 else 0

/-- A BUDGET write takes 64, 96 or 128 and ignores other values (R375). -/
def budgetWrite (old : BitVec 8) (x : Word) : BitVec 8 :=
  let n := bitsOf x 7 0
  if n = 64 ∨ n = 96 ∨ n = 128 then BitVec.ofNat 8 n else old

/-- PROTn bits that a write changes (R24). -/
def protMask : Word := 0xF003_FFFF_0003_FFFF

/-- REPS bits that a write changes (R29). -/
def repsMask : Word := 0xFFFF_FFFF_0003_FFFF

/-- PX moved on by one (R34). -/
def Core.nextPx (c : Core) : BitVec 8 := BitVec.ofNat 8 ((c.px.toNat + 1) % 176)

/-- A core with WSE written: register-stack entry PX, and then PX moves on (R34). -/
def Core.wseWrite (c : Core) (x : Word) : Core := { c.setP (.stack c.px.toNat) x with px := c.nextPx }

/-- A core with RASE written: a new oldest return address, unless the store is full (R18). -/
def Core.raseWrite (c : Core) (x : Word) : Core := if 16 ≤ c.ras.length then c else { c with ras := c.ras ++ [x.setWidth 18] }

/-- A core with a control register written, subject to its access and reserved fields; a read-only register is left as it is (R24 to R34, R124, R246, R322, R375). -/
def Core.writeCr (c : Core) (n : Nat) (x : Word) : Core :=
  match n with
  | 0x00 => { c with stat := maskWrite c.stat x statWritable }
  | 0x01 => { c with estat := maskWrite c.estat x estatWritable }
  | 0x02 => { c with epc := x.setWidth 18 }
  | 0x03 => { c with ecause := x &&& 0xFFFF }
  | 0x04 => { c with eaddr := x }
  | 0x05 => { c with epfx := x &&& 0xFFFF_FFFF_0000_FFFF }
  | 0x06 => { c with tvec := x &&& 0x3_FFC0 }
  | 0x07 =>
    let r := bitsOf x 26 24
    { c with
      px := BitVec.ofNat 8 (bitsOf x 39 32 % 176)
      res := if 1 ≤ r ∧ r ≤ 5 then BitVec.ofNat 3 r else c.res
      slot := BitVec.ofNat 8 (bitsOf x 7 4 * 16 % 176) }
  | 0x08 => { c with wstk := x &&& 0x3_FFF8 }
  | 0x09 => c.wseWrite x
  | 0x0A => { c with rasb := x &&& 0x3_FFF8 }
  | 0x0C => c.raseWrite x
  | 0x0B => { c with rasSaved := x.extractLsb' 32 32 }
  | 0x0D => { c with reps := x &&& repsMask }
  | 0x0E => { c with tcmp := x }
  | 0x10 => { c with lc0 := x.setWidth 32 }
  | 0x11 => { c with ls0 := x.setWidth 18 }
  | 0x12 => { c with le0 := x.setWidth 18 }
  | 0x13 => { c with lc1 := x.setWidth 32 }
  | 0x14 => { c with ls1 := x.setWidth 18 }
  | 0x15 => { c with le1 := x.setWidth 18 }
  | 0x33 => { c with geom := x &&& 0xFFFF_FFFF }
  | 0x39 => { c with lacci := x &&& 0x13F }
  | 0x40 => { c with gie := x.getLsbD 8, budget := budgetWrite c.budget x }
  | _ => if 0x18 ≤ n ∧ n ≤ 0x1F then { c with prot := c.prot.setIfInBounds (n - 0x18) (x &&& protMask) } else c

/-- The checks of a control-register access that depend on its number (R34, R123). -/
def crReserved (o : Opnd) : Bool := decide (256 ≤ o.imm.toNat)

/-- A register of handler mode named in user mode (R34). -/
def crWrongMode (c : Core) (o : Opnd) : Bool := crMode o.cr == some true && !c.hm

/-- MFC: a and imm20[19:8] zero; an MFC of STAT waits for the flags (R52, R123). -/
def sigMfc : Sig where
  op := 0x00C
  lat := 1
  roles := fun _ => { d := .gw }
  reserved := fun o => o.a != 0 || crReserved o
  wrongMode := crWrongMode
  noNumber := fun o => (crMode o.cr).isNone
  moreReads := fun c o => if o.cr = 0x09 then [⟨false, 0, some (.stack c.px.toNat)⟩] else []
  waitsFlags := fun o => o.cr = 0x00

/-- MTC: d and imm20[19:8] zero (R123). -/
def sigMtc : Sig where
  op := 0x00D
  roles := fun _ => { a := .gr }
  reserved := fun o => o.d != 0 || crReserved o
  wrongMode := crWrongMode
  noNumber := fun o => (crMode o.cr).isNone
  moreWrites := fun c o => if o.cr = 0x09 then [⟨false, 0, some (.stack c.px.toNat)⟩] else []

/-- MFC (R123): as the target of a prefix it reads the prefix as still pending (R26; log 16). -/
def execMfc (t : TailI) (s : State) : Host.Outcome State Fault Refusal :=
  issue sigMfc (opndI t) s fun o s => .done (s.putG o.d (s.readCr o.cr) 1)

/-- An MTC to a loop register completes: the loop-end rule of its own completion sees the old values, and the value written governs from the next completing instruction on (R124; log 17). -/
def State.loopWrite (s : State) (n : Nat) (x : Word) : State :=
  let t := s.complete s.cur s.now (s.lastHead s.cur)
  t.setCore s.cur ((t.core s.cur).writeCr n x)

/-- MTC (R113, R124, R257): a user-mode write that would leave a repetition in REPS is refused, and a write of MFR with DROP discards the reported access. -/
def execMtc (t : TailI) (s : State) : Host.Outcome State Fault Refusal :=
  issue sigMtc (opndI t) s fun o s =>
    let c := s.cc
    let x := c.readG o.a
    if o.cr = 0x0D ∧ c.hm = false ∧ bitsOf x 63 48 ≠ 0 then .fault ⟨0x01, 0x03, 0⟩
    else if o.cr = 0x35 then .done (if x.getLsbD 62 then s.discardReported s.cur else s)
    else if 0x10 ≤ o.cr ∧ o.cr ≤ 0x15 then .own (s.loopWrite o.cr x)
    else .done (s.setCc (c.consume.writeCr o.cr x))

/-- MFC of WSE: register-stack entry PX, then PX moves on (R34). -/
def execWseRead (t : TailI) (s : State) : Host.Outcome State Fault Refusal :=
  issue sigMfc (opndI t) s fun o s =>
    let c := s.cc
    .done ((s.setCc { c with px := c.nextPx }).putG o.d (c.getP (.stack c.px.toNat)) 1)

/-- MTC of WSE: register-stack entry PX is written, then PX moves on (R34). -/
def execWseWrite (t : TailI) (s : State) : Host.Outcome State Fault Refusal :=
  issue sigMtc (opndI t) s fun o s =>
    .done (s.setCc (s.cc.wseWrite (s.cc.readG o.a)))

/-- MFC of RASE removes and returns the oldest return address, and returns 0 from an empty store (R18). -/
def execRaseRead (t : TailI) (s : State) : Host.Outcome State Fault Refusal :=
  issue sigMfc (opndI t) s fun o s =>
    let c := s.cc
    .done ((s.setCc { c with ras := c.ras.dropLast }).putG o.d c.oldestReturn 1)

/-- MTC of RASE inserts a new oldest return address, and is ignored when the store is full (R18). -/
def execRaseWrite (t : TailI) (s : State) : Host.Outcome State Fault Refusal :=
  issue sigMtc (opndI t) s fun o s =>
    .done (s.setCc (s.cc.raseWrite (s.cc.readG o.a)))

/-! ### Unassigned opcodes (R55) -/

/-- An opcode, or the operation field that completes it, that no rule assigns (R55). -/
def sigUnassigned (op : Opcode) : Sig where
  op := op
  unassigned := fun _ => opClass op != 0xB || opFn op != 0x05
  reserved := fun o => opClass op == 0xB && opFn op == 0x05 && (o.a != 0 || o.b != 0 || o.c != 0)
  refuses := fun _ _ => true

/-- An unassigned opcode raises the illegal-instruction fault with QUAL 0x00 (R55); a COVQ whose m no rule assigns raises QUAL 0x03, after its reserved bits (R190). -/
def execUnassignedOpcode (op : Opcode) (t : TailW) (s : State) : Host.Outcome State Fault Refusal :=
  issue (sigUnassigned op) (opndW t) s fun _ s => .done s

/-! ### Debug and power: class 0xC -/

/-- TRACE: d, c and m zero (R448). -/
def sigTrace : Sig where
  op := 0xC00
  roles := fun _ => { a := .gr, b := .gr }
  reserved := fun o => o.d != 0 || o.c != 0 || o.m != 0

/-- TRACE (R446, R448): with EN bit 0 set, a record enters the core's trace queue of 8; a full queue holds it at issue. -/
def execTrace (t : TailD) (s : State) : Host.Outcome State Fault Refusal :=
  issue sigTrace (opndD t) s fun o s =>
    let c := s.cc
    match s.partOf c with
    | some p =>
      if !s.traces p 0 then .done s
      else if 8 ≤ c.trace.length then .wait
      else
        let r := traceRecord 0x01 c.rank c.ssc s.tick
          (bytesOf 8 (c.readG o.a).toNat ++ bytesOf 8 (c.readG o.b).toNat ++ bytesOf 4 o.imm.toNat ++ bytesOf 4 c.pc.toNat)
        .done ((s.setCc { c with trace := c.trace ++ [r] }).trace p (some s.cur) r)
    | none => .done s

/-- LACC, LACCZ: b, c and m[7:6] zero (R273). -/
def sigLacc (op : Opcode) : Sig where
  op := op
  lat := 2
  roles := fun _ => { d := .gw, a := .gr }
  reserved := fun o => o.b != 0 || o.c != 0 || decide (64 ≤ o.m.toNat)

/-- The account an LACC names (R273). -/
def Core.accountIndex (c : Core) (o : Opnd) : Nat := ((c.readG o.a).toNat % 64 + o.m.toNat) % 64

/-- LACC (R273). -/
def execLacc (t : TailW) (s : State) : Host.Outcome State Fault Refusal :=
  issue (sigLacc 0xC01) (opndW t) s fun o s =>
    .done (s.putG o.d (s.cc.accounts[s.cc.accountIndex o]?.getD 0) 2)

/-- The responses counted in an account at a time (R273). -/
def Core.freshIn (c : Core) (now x : Nat) : List (Nat × Nat × Word × Nat) := c.fresh.filter (fun e => e.1 = now && e.2.1 = x)

/-- The account that LACCZ reads at a time: the responses that arrive in its cycle are not in it (R273). -/
def Core.oldPeriod (c : Core) (now x : Nat) : Word :=
  match c.freshIn now x with
  | e :: _ => e.2.2.1
  | [] => c.accounts[x]?.getD 0

/-- The account that LACCZ leaves at a time: those responses alone (R273). -/
def Core.newPeriod (c : Core) (now x : Nat) : Word := (c.freshIn now x).foldl (fun a e => countResponse a e.2.2.2) 0

/-- LACCZ: the account is read and set to 0, and a response of the same cycle counts toward the new period (R273). -/
def execLaccz (t : TailW) (s : State) : Host.Outcome State Fault Refusal :=
  issue (sigLacc 0xC02) (opndW t) s fun o s =>
    let c := s.cc
    let x := c.accountIndex o
    .done ((s.setCc { c with accounts := c.accounts.setIfInBounds x (c.newPeriod s.now x) }).putG o.d (c.oldPeriod s.now x) 2)

/-- GOV: d, a and imm20[19:8] zero; n is 64, 96 or 128 (R377). -/
def sigGov : Sig where
  op := 0xC03
  reserved := fun o => o.d != 0 || o.a != 0 || decide (256 ≤ o.imm.toNat)
  refuses := fun _ o => !(o.imm.toNat % 256 = 64 || o.imm.toNat % 256 = 96 || o.imm.toNat % 256 = 128)

/-- GOV (R377): the new budget governs admission from the next cycle. -/
def execGov (t : TailI) (s : State) : Host.Outcome State Fault Refusal :=
  issue sigGov (opndI t) s fun o s => .done (s.setCc { s.cc with budget := o.imm.setWidth 8 })

end Sys2Proof.Machine
end

