-- ==== Sys2Proof/Machine/Chameleon.lean ====
section
/-! DEFINITION. Interrupts of cores that do not issue, and Chameleon, the package's clock arbiter: requests, searches, grants, cuts and cap tokens (R33, R209, R265, R358 to R370, R451, R453, R470). -/

namespace Sys2Proof.Machine

/-! ### Interrupts of cores that do not issue (R209, R265, R331) -/

/-- The withdrawal of a WAITA sent to its destination, once (R265). -/
def State.sendWithdrawal (s : State) (n id : Nat) : State :=
  match s.req id with
  | some q =>
    if q.withdrawn then s
    else ((s.setReq id { q with withdrawn := true }).setCore n { s.core n with run := .sleeping (.waita id true) }).inject (s.netEdgeAfter s.now) (routerOfCore n) 0
      (packetOf (.withdrawal id) 0 0 (s.pidOf n) (s.destOf q))
  | none => s

/-- A core that stands at an instruction whose effect it gives up enters an interrupt, with EPC at the instruction: the timer first (R119). -/
def State.giveUp (s : State) (n t : Nat) : State :=
  match (s.core n).interruptBefore t with
  | some r => s.takeInterrupt n t r
  | none => s

/-- A pending interrupt of a core that stands at an instruction it has issued: a core whose condition does not hold at the end of the cycle enters, a core at WAIT or WAITA sends a withdrawal, and one at a COPY or at a gang barrier gives it up and enters (R209, R265, R312, R331). -/
def State.wakeForInterrupt (s : State) (n : Nat) : State :=
  let c := s.core n
  match c.interrupt with
  | none => s
  | some (p, _) =>
    let cycleEnd := c.clock.vec.after (max p s.now)
    match c.run with
    | .waiting false => (s.setCore n { c with run := .waiting true }).postCore (s.netEdgeAfter cycleEnd) n .waitWithdrawal
    | .sleeping .condition => s.giveUp n cycleEnd
    | .sleeping (.waita id _) => s.sendWithdrawal n id
    | .sleeping .copy => if s.copyWaits n then (s.withdrawCopy n).giveUp n cycleEnd else s
    | .sleeping .gang => if s.gangWaits n then (s.withdrawGang n).giveUp n cycleEnd else s
    | _ => s

/-- TIMER_EXPIRY (R33): REFT has reached TCMP in the core in turn; a core that issues takes the interrupt at its next boundary. -/
def execTimerExpiry (s : State) : Host.Outcome State Fault Refusal := .next (s.wakeForInterrupt s.cur)

/-- Whether a core stands between two prefixes (R119). -/
def State.midPrefix (s : State) (n : Nat) : Bool := (s.slotAt n (s.core n).pc).any (fun x => (s.core n).betweenPrefixes (Head.op x.head))

/-- An interrupt of one cause taken at a boundary of the core in turn, if that is the one it would take there: none between two prefixes, and the timer first (R119). -/
def State.takePending (s : State) (code : Byte) : State :=
  let c := s.cc
  let t := max c.ready (c.clock.pipe.ceil s.now)
  if c.run != .running || s.midPrefix s.cur || s.forcedStop s.cur then s
  else
    match c.interruptBefore t with
    | some r => if r.code == code then s.takeInterrupt s.cur t r else s
    | none => s

/-- TIMER_INTERRUPT (R33, R119). -/
def execTimerInterrupt (s : State) : Host.Outcome State Fault Refusal := .next (s.takePending 0x1A)

/-- GRANT_EVENT_INTERRUPT (R367). -/
def execGrantEventInterrupt (s : State) : Host.Outcome State Fault Refusal := .next (s.takePending 0x1B)

/-! ### Ratio sets (R5, R360, R361) -/

/-- A ratio set (R5). -/
structure Ratios where
  mat : Nat
  vec : Nat
  net : Nat
  mem : Nat
  deriving DecidableEq, Repr

/-- The lowest multipliers, the highest and the nominal ones (R5). -/
def Ratios.lowest : Ratios := ⟨3, 4, 4, 8⟩
/-- The highest multipliers (R5). -/
def Ratios.highest : Ratios := ⟨15, 24, 24, 16⟩
/-- The nominal set (R5). -/
def Ratios.nominal : Ratios := ⟨12, 20, 24, 16⟩

/-- The element-wise maximum. -/
def Ratios.sup (a b : Ratios) : Ratios := ⟨max a.mat b.mat, max a.vec b.vec, max a.net b.net, max a.mem b.mem⟩

/-- Every multiplier lies in its range of R5. -/
def Ratios.valid (r : Ratios) : Bool := decide (r.sup .lowest = r) && decide (r.sup .highest = .highest)

/-- A set in the layout of GRANT[31:0] (R359). -/
def Ratios.ofGrant (x : Nat) : Ratios := ⟨natBits x 31 24, natBits x 23 16, natBits x 15 8, natBits x 7 0⟩

/-- The layout of GRANT[31:0] (R359). -/
def Ratios.toGrant (r : Ratios) : Nat := r.mat * 2 ^ 24 + r.vec * 2 ^ 16 + r.net * 2 ^ 8 + r.mem

/-- Estimate(m) in units of 1 / 57,600 W, in which every term is whole (R361). -/
def Ratios.draw (m : Ratios) : Nat :=
  57600 * 350 + 850 * 400 * m.mat ^ 2 + 850 * 144 * m.vec ^ 2 + 250 * 100 * m.net ^ 2 + 560 * 225 * m.mem ^ 2

/-- The set that k sixteenths of a request come to (R362). -/
def Ratios.scaled (req : Ratios) (k : Nat) : Ratios :=
  Ratios.sup .lowest ⟨req.mat * k / 16, req.vec * k / 16, req.net * k / 16, req.mem * k / 16⟩

/-- The set tried at k (R362): a cut keeps the network multiplier in force. -/
def tried (req : Ratios) (cut : Option Nat) (k : Nat) : Ratios :=
  match cut with
  | some net => { req.scaled k with net := net }
  | none => req.scaled k

/-- Search (R362): the first set, from k = 16 down to 4, whose load is under the cap. -/
def searchSet (req inForce : Ratios) (cap : Nat) (cut : Option Nat) : Option Ratios :=
  ((List.range 13).map (fun i => tried req cut (16 - i))).find? (fun c =>
    decide ((match cut with | some _ => c | none => c.sup inForce).draw ≤ 57600 * cap))

/-- Whether a partition runs a launch. -/
def State.runsLaunch (s : State) (part : Nat) : Bool := s.launches.any (fun e => e.2.part = part && s.runs e.2)

/-- An entry of a function's virtual performance table, if it holds a set (R360). -/
def State.vptSet (s : State) (vf entry : Nat) : Option Ratios :=
  let off := 0x12000 + 32 * vf + 4 * entry
  let r := Ratios.ofGrant (natBits (s.reg (off / 8 * 8)).toNat (8 * (off % 8) + 31) (8 * (off % 8)))
  if r.valid then some r else none

/-- The set a launch requests (R360). -/
def State.requestOf (s : State) (l : Launch) : Ratios :=
  if l.flag 4 then (s.vptSet l.vf (l.field 60 1)).getD .nominal
  else
    let r : Ratios := ⟨l.field 60 1, l.field 61 1, l.field 62 1, l.field 63 1⟩
    if r = ⟨0, 0, 0, 0⟩ then .nominal else r

/-- The package request (R360). -/
def State.packageRequest (s : State) : Ratios :=
  let rs := (s.launches.filter (fun e => s.runs e.2)).map (fun e => s.requestOf e.2)
  match rs with
  | [] => .nominal
  | r :: rest => rest.foldl Ratios.sup r

/-- InForce (R362). -/
def State.inForce (s : State) : Ratios :=
  s.parts.foldl (fun m e => if e.2.valid then m.sup ⟨(s.partition e.1).mat, (s.partition e.1).vec, 0, 0⟩ else m)
    ⟨0, 0, s.chameleon.netNow, s.chameleon.memNow⟩

/-- The newest grant's set. -/
def Chameleon.set (c : Chameleon) : Ratios := ⟨c.mat, c.vec, c.net, c.mem⟩

/-! ### Times across a change of clock (R365, R366) -/

/-- The clock whose cycles an event of the agenda counts. -/
inductive Domain where
  | net
  | mem
  /-- The matrix clock of a pod, the vector clock of a core, or the clock that drives it. -/
  | mat (pod : Nat)
  | vec (core : Nat)
  | pipe (core : Nat)
  /-- Ref ticks, or a time of the outside. -/
  | other
  deriving DecidableEq, Repr

/-- The domain of an event: near requests and slices run in vector cycles (R233). -/
def State.domainOf (s : State) (t : Turn) : Domain :=
  let fabric (id : Nat) : Domain :=
    if (s.req id).any (·.near) || (s.core t.core).sliceQueue.contains id then .vec t.core else .net
  match t.act with
  | .event i =>
    match i with
    | .exchangeWordArrival _ | .packetArrival _ | .outputArbitration _ _ | .ageUrgent _ _ _ | .chorusStart _ _ _
    | .chorusRecordRead _ _ _ | .maskFire _ _ _ _ | .chorusReportArrival _ _ _ _ | .chorusRelease _ | .orphanWait _ _ _
    | .waitWithdrawal | .lapStart | .frameInject | .segmentHeaderArrival _ _ | .tapFrameAct _ _ _ | .feederFrameDelivery _
    | .boardArmEffect _ _ | .hostPcieCompletion _ | .launchCompletion _ | .wakeMessage _ _ | .capabilityHandover _
    | .waitaWithdrawal | .inboxMessageArrival _ => .net
    | .destinationRequest id | .responseArrival id => fabric id
    | .copyAccept _ | .copyJobStart _ | .copyRequestIssue _ => .mem
    | .matrixCommandAccept pod _ | .gangComplete pod | .mloadComplete pod _ | .mstoreComplete pod _ | .mdrainComplete pod _ => .mat pod
    | .varResultArrival n _ => .pipe n
    | _ => .other
  | .traceWrite | .traceStore _ _ | .feedRead _ => .net
  | _ => .other

/-- The agenda with the events of some domains at new times. -/
def State.retime (s : State) (f : Turn → Nat) : State :=
  { s with agenda := s.agenda.foldl (fun a t => insertTurn { t with due := f t } a) [] }

/-- An event of a vector clock carried over: a slice serves a request at the end of a cycle, one unit of time before the edge (R233; log 1). -/
def Turn.carryVec (t : Turn) (old new : Grid) (now : Nat) : Nat :=
  match t.act with
  | .event (.destinationRequest _) => old.carry new now (t.due + 1) - 1
  | _ => old.carry new now t.due

/-- The machine with the handles of COPYs that are not written yet at new times (R299). -/
def State.moveHandles (s : State) (f : CopyOrder → Nat) : State :=
  let order (o : CopyOrder) : CopyOrder := { o with due := f o }
  let entry (x : CopyEntry) : CopyEntry := { x with job := x.job.map (fun j => if j.recorded then j else { j with order := order j.order }) }
  { s with copyUnits := SMap.mapVals (fun _ u => { u with entries := SMap.mapVals (fun _ x => entry x) u.entries, waiting := u.waiting.map order }) s.copyUnits }

/-- A core on a new vector clock from now on (R365). -/
def State.clockCore (s : State) (n : Nat) (vec : Grid) : State :=
  let c := s.core n
  let old := c.clock
  let pipe := if c.xm then old.pipe else vec
  let carry := old.vec.carry vec s.now
  let s0 := s.retime (fun t =>
    if s.domainOf t = .vec n then t.carryVec old.vec vec s.now
    else if s.domainOf t = .pipe n then old.pipe.carry pipe s.now t.due
    else t.due)
  (s0.setCore n { (c.setClocks s.now vec pipe) with sliceFree := carry c.sliceFree, fetchFree := carry c.fetchFree }).moveHandles (fun o =>
    if o.core = n then carry o.due else o.due)

/-- The matrix engine of a pod on a new matrix clock from now on (R365). -/
def State.clockPod (s : State) (pod : Nat) (old new : Grid) : State :=
  let m := s.matrix pod
  let s := s.setMatrix pod { m with cmds := SMap.mapVals (fun _ c => { c with edge := old.shift new s.now c.edge, due := c.due.map (old.carry new s.now) }) m.cmds }
  s.retime (fun t => if s.domainOf t = .mat pod then old.carry new s.now t.due else t.due)

/-- A partition takes the newest grant's matrix and vector multipliers (R365). -/
def State.takeGrant (s : State) (part : Nat) : State :=
  let ch := s.chameleon
  let p := s.partition part
  if p.grantSeq = ch.seq then s
  else
    let cores := (SMap.keys s.cores).filter (fun n => s.partOf (s.core n) == some part)
    let pods := (SMap.keys s.matrices).filter (fun pod => s.podPart pod == some part)
    let q := { p with
      mat := ch.mat, vec := ch.vec, grantSeq := ch.seq, grantCause := ch.cause
      matBase := if ch.mat = p.mat then p.matBase else s.now
      vecBase := if ch.vec = p.vec then p.vecBase else s.now }
    let s := s.setPartition part q
    let s := if ch.vec = p.vec then s else cores.foldl (fun t n => t.clockCore n ⟨s.now, periodOf ch.vec⟩) s
    if ch.mat = p.mat then s else pods.foldl (fun t pod => t.clockPod pod ⟨p.matBase, periodOf p.mat⟩ ⟨s.now, periodOf ch.mat⟩) s

/-- The network clock of the package changes now: what counts its cycles keeps its count (R245, R366). -/
def State.clockNet (s : State) (new : Grid) : State :=
  let old := s.net
  let carry := old.carry new s.now
  let cut := old.cutShort new s.now
  let s0 := s.retime (fun t => if s.domainOf t = .net then carry t.due else t.due)
  let packet (p : Packet) : Packet :=
    match p.since with
    | some t => if t ≤ s.now then { p with age := min 127 (p.ageAt s.now old.period + cut), since := some s.now } else { p with since := some (carry t) }
    | none => p
  let hold (h : Hold) : Hold := { h with till := carry h.till }
  let request (q : Req) : Req :=
    if q.sentAt ≤ s.now then { q with cycles := q.cycles + (old.index s.now + cut - old.index q.sentAt), sentAt := s.now } else { q with sentAt := carry q.sentAt }
  let r := s0.ring
  let s1 := { s0 with
    packets := SMap.mapVals (fun _ p => packet p) s0.packets
    bufs := SMap.mapVals (fun _ b => { b with holds := b.holds.map hold }) s0.bufs
    outs := SMap.mapVals (fun _ o => { o with free := carry o.free }) s0.outs
    ins := SMap.mapVals (fun _ t => carry t) s0.ins
    xwords := SMap.mapVals (fun _ w => { w with arrival := carry w.arrival }) s0.xwords
    reqs := SMap.mapVals (fun _ q => request q) s0.reqs
    ring := { r with
      lapDue := carry r.lapDue, nextAt := carry r.nextAt
      ctxs := SMap.mapVals (fun _ x => { x with effectAt := carry x.effectAt }) r.ctxs } }
  (SMap.keys s1.cores).foldl (fun t n =>
    let c := t.core n
    if c.xm then t.setCore n (c.setClocks s.now c.clock.vec new) else t) s1

/-- The network and memory multipliers of the package change now (R366): a clock whose multiplier stays runs on. -/
def State.setNetMem (s : State) (net mem : Nat) : State :=
  let ch := s.chameleon
  let s := if net = ch.netNow then s
    else let t := s.clockNet ⟨s.now, periodOf net⟩; { t with chameleon := { t.chameleon with netNow := net, netBase := s.now } }
  if mem = ch.memNow then s
  else
    let carry := s.memClock.carry ⟨s.now, periodOf mem⟩ s.now
    let t := s.retime (fun t => if s.domainOf t = .mem then carry t.due else t.due)
    { t with chameleon := { t.chameleon with memNow := mem, memBase := s.now } }

/-! ### Grants (R362 to R367) -/

/-- The newest grant's network and memory part is in force. -/
def Chameleon.settled (c : Chameleon) : Bool := c.net == c.netNow && c.mem == c.memNow

/-- GRANT.PEND cleared in the cores for which the newest grant is wholly in force (R359, R365), and whether that holds for the package. -/
def State.settleGrant (s : State) : State :=
  let ch := s.chameleon
  let taken (i : Nat) : Bool := (s.partition i).grantSeq == ch.seq
  let whole := ch.settled && s.launches.all (fun e => !s.runs e.2 || taken e.2.part)
  let s := { s with chameleon := { ch with whole := whole, oldCap := if whole then none else ch.oldCap } }
  if !ch.settled then s
  else
    (SMap.keys s.cores).foldl (fun t n =>
      let c := t.core n
      match t.partOf c with
      | some i => if c.grantPend && taken i then t.setCore n { c with grantPend := false } else t
      | none => t) s

/-- DATA of the notice of the newest grant (R364). -/
def Chameleon.notice (c : Chameleon) : Word := BitVec.ofNat 64 (c.seq % 2 ^ 16 * 2 ^ 48 + c.cause % 16 * 2 ^ 36 + c.set.toGrant)

/-- The message of a notice (R364). -/
def noticeMessage (data : Word) : Message := ⟨0x02, 0, 0, 0xFFFF_FFFF, data⟩

/-- The number under which Chameleon sends messages. -/
def chameleonSender : Nat := 49152

/-- The newest grant notified to a core (R364, R367). Where its message enters the mesh is open: at the host port of die 0. It is traffic of the package's own control, with partition id 0xFF (R243). -/
def State.notify (s : State) (n : Nat) : State :=
  let data := s.chameleon.notice
  let s := (s.setCore n { s.core n with grantPend := true }).bumpCounter n 15
  let s := s.sendMail (routerOfHost 0).1 (routerOfHost 0).2 chameleonSender n 0xFF (noticeMessage data)
  let c := s.core n
  if c.gie then
    let seq := s.chameleon.seq
    let irq := match c.grantIrq with | some (t, _) => (t, seq) | none => (s.now, seq)
    s.setCore n { c with grantIrq := some irq }
  else s

/-- The newest grant notified to every core of a launch's range (R364). -/
def State.notifyLaunch (s : State) (n : Nat) (l : Launch) : State :=
  let x := { l with noticed := if l.flag 1 then l.noticed ++ [s.chameleon.notice] else l.noticed, noticeSeq := some s.chameleon.seq }
  (s.rangeCores l).foldl State.notify { s with launches := SMap.put s.launches n x }

/-- The newest grant notified to every core of every running launch's range, but for a launch whose own start caused it, and for replays; a core that its launch has still to wake finds PEND set when it wakes (R359, R364, R453). -/
def State.notifyAll (s : State) (except : Option Nat) : State :=
  s.launches.foldl (fun t e => if !s.runs e.2 || some e.1 == except || e.2.replay then t else t.notifyLaunch e.1 e.2) s

/-- The stamp of a release in a log record: LEVEL and UNIT, then the stream index (R451). -/
def stampBytes (level unit idx : Nat) : List Byte := bytesOf 1 level ++ bytesOf 1 unit ++ bytesOf 2 0 ++ bytesOf 4 idx

/-- The grants noticed to a partition's recording launches are logged with the release that applied them, or all ones (R451). -/
def State.logNotices (s : State) (part : Nat) (stamp : List Byte) : State :=
  s.launches.foldl (fun t e =>
    if e.2.part = part ∧ e.2.noticed ≠ [] then
      let t := e.2.noticed.foldl (fun (u : State) d =>
        u.logFor e.1 (traceRecord 0x13 0xFFFF_FFFF 0 u.tick (bytesOf 8 (noticeMessage d).head.toNat ++ bytesOf 8 d.toNat ++ stamp))) t
      { t with launches := SMap.put t.launches e.1 { e.2 with noticed := [] } }
    else t) s

/-- A grant made (R362, R364, R365): it is notified, partitions that run no launch take it at once, and it may be wholly in force. -/
def State.newGrant (s : State) (c : Ratios) (cause : Nat) (except : Option Nat) : State :=
  let ch := s.chameleon
  let s := { s with chameleon := { ch with
    seq := (ch.seq + 1) % 2 ^ 16, cause := cause, mat := c.mat, vec := c.vec, net := c.net, mem := c.mem, whole := false } }
  let s := s.parts.foldl (fun t e => if e.2.valid && !s.runsLaunch e.1 then t.takeGrant e.1 else t) s
  (s.notifyAll except).settleGrant

/-- An ordinary search, and the searches that follow while each new grant is wholly in force at once (R362, R363). -/
def State.searchGrant (except : Option Nat) : (fuel cause : Nat) → State → State
  | 0, _, s => s
  | fuel + 1, cause, s =>
    match searchSet s.packageRequest s.inForce s.chameleon.cap none with
    | none => s
    | some c =>
      if c = s.chameleon.set then s
      else
        let s := s.newGrant c cause except
        if s.chameleon.whole then State.searchGrant except fuel 6 s else s

/-- A search for a cause (R363); after it, an older cap bounds cuts only while a grant is pending (R370). -/
def State.search (s : State) (cause : Nat) (except : Option Nat) : State :=
  let s := State.searchGrant except 16 cause s
  if s.chameleon.whole then { s with chameleon := { s.chameleon with oldCap := none } } else s

/-- What follows a change of the multipliers in force: when the newest grant has come wholly into force, a new search (R363). -/
def State.afterTake (s : State) : State :=
  let was := s.chameleon.whole
  let s := s.settleGrant
  if s.chameleon.whole && !was then s.search 6 none else s

/-- NET_MEM_SWITCH (R366, R226): at an edge of a RATIO release or a launch start, the package's part of the newest grant comes into force once every running partition has taken its own part, and no core but those released now is in exchange mode. -/
def execNetMemSwitch (s : State) : Host.Outcome State Fault Refusal :=
  let ch := s.chameleon
  let taken := s.launches.all (fun e => !s.runs e.2 || (s.partition e.2.part).grantSeq == ch.seq)
  let busy := s.cores.any (fun e => e.2.xm && e.2.phase != some s.now)
  if ch.settled || !taken || busy then .next s else .next (s.setNetMem ch.net ch.mem).afterTake

/-- A partition takes the newest grant at a release, a launch start or a resume (R365, R436). -/
def State.takePart (s : State) (part : Nat) (stamp : List Byte) : State := ((s.takeGrant part).logNotices part stamp).afterTake

/-- The same at a release or a launch start, where the package's part may change too (R365, R366). -/
def State.takeAtEdge (s : State) (part : Nat) (stamp : List Byte) : State :=
  let s := s.takePart part stamp
  if s.chameleon.settled then s else s.postCore s.now 0 .netMemSwitch

/-- A stamp of all ones: the grant applied at no release (R451). -/
def noStamp : List Byte := List.replicate 8 0xFF

/-! ### Emergency cuts (R368, R411) -/

/-- Whether an event keeps its time through a pause: a count of ref ticks that is no watchdog. -/
def Turn.keepsTime (t : Turn) : Bool :=
  match t.act with
  | .event .leaseExpiry | .event .budgetInterval | .event .quantumEnd => true
  | _ => false

/-- A clock whose edges are all later. -/
def Grid.later (g : Grid) (d : Nat) : Grid := { g with base := g.base + d }

/-- A core's times moved over a pause: its cycles stand still, and REFT counts on (R368). -/
def Core.pause (c : Core) (d : Nat) : Core :=
  let moved (v : VarResult) : VarResult := match v.source with | .at due => { v with source := .at (due + d) } | _ => v
  { c with
    clock := { c.clock with
      base := c.clock.base + d, vec := c.clock.vec.later d, pipe := c.clock.pipe.later d
      reft := if c.clock.running then c.clock.reft + d / tickUnits else c.clock.reft }
    ready := c.ready + d
    memReady := c.memReady + d
    freeAt := c.freeAt + d
    sliceFree := c.sliceFree + d
    fetchFree := c.fetchFree + d
    flight := c.flight.map (fun f => { f with due := f.due + d })
    var := c.var.map moved
    phase := c.phase.map (· + d)
    slots := c.slots.map (fun x => { x with arrival := x.arrival + d }) }

/-- The times of a pending stop moved over a pause (R411). -/
def StopState.pause (x : StopState) (d : Nat) : StopState :=
  match x with
  | .requested since forced => .requested (since + d) (forced.map (· + d))
  | y => y

/-- Every domain of the package pauses for some units of time (R368, R411). -/
def State.pause (s : State) (d : Nat) : State :=
  let s := s.retime (fun t => if t.keepsTime then t.due else t.due + d)
  let s := s.moveHandles (fun o => o.due + d)
  let r := s.ring
  { s with
    cores := SMap.mapVals (fun _ c => c.pause d) s.cores
    packets := SMap.mapVals (fun _ p => { p with since := p.since.map (· + d) }) s.packets
    bufs := SMap.mapVals (fun _ b => { b with holds := b.holds.map (fun h => { h with till := h.till + d }) }) s.bufs
    outs := SMap.mapVals (fun _ o => { o with free := o.free + d }) s.outs
    ins := SMap.mapVals (fun _ t => t + d) s.ins
    chameleon := { s.chameleon with netBase := s.chameleon.netBase + d, memBase := s.chameleon.memBase + d }
    xwords := SMap.mapVals (fun _ w => { w with arrival := w.arrival + d }) s.xwords
    reqs := SMap.mapVals (fun _ q => { q with sentAt := q.sentAt + d }) s.reqs
    matrices := SMap.mapVals (fun _ m => { m with cmds := SMap.mapVals (fun _ c => { c with edge := c.edge + d, due := c.due.map (· + d) }) m.cmds }) s.matrices
    chorus := SMap.mapVals (fun _ c => { c with stuck := c.stuck.map (· + d) }) s.chorus
    partitions := SMap.mapVals (fun _ p => { p with stop := p.stop.pause d, matBase := p.matBase + d, vecBase := p.vecBase + d }) s.partitions
    ring := { r with
      lapDue := r.lapDue + d, nextAt := r.nextAt + d
      ctxs := SMap.mapVals (fun _ x => { x with effectAt := x.effectAt + d }) r.ctxs } }

/-- An emergency cut (R368): the result's matrix, vector and memory multipliers are taken at once, within a pause of at most 200 ref ticks whose length the spec leaves open, and the network multiplier is kept. -/
def State.cut (s : State) (cause cap : Nat) : State :=
  match searchSet s.packageRequest s.inForce cap (some s.chameleon.netNow) with
  | none => s
  | some c =>
    let s := if c = s.chameleon.set then s else s.newGrant c cause none
    let s := s.parts.foldl (fun t e => if e.2.valid then (t.takeGrant e.1).logNotices e.1 noStamp else t) s
    let s := (s.setNetMem s.chameleon.netNow c.mem).settleGrant
    match s.chameleon.pauseEnd with
    | some _ => s
    | none =>
      let f := s.takeFree
      let d := Config.latency f.1 % 201 * tickUnits
      let s := f.2.pause d
      State.postCore { s with chameleon := { s.chameleon with pauseEnd := some (s.now + d) } } (s.now + d) 0 .pauseEnd

/-- PAUSE_END (R368, R363): all domains resume, and the grant of the cut is wholly in force. -/
def execPauseEnd (s : State) : Host.Outcome State Fault Refusal :=
  match s.chameleon.pauseEnd with
  | some t =>
    if s.now < t then .next s
    else
      let s := { s with chameleon := { s.chameleon with pauseEnd := none } }
      .next (if s.chameleon.whole then s.search 6 none else s)
  | none => .next s

/-- The cap that cuts are held to: the lower of the old one and the new one while a token's grant is pending (R370). -/
def Chameleon.cutCap (c : Chameleon) : Nat := match c.oldCap with | some o => min o c.cap | none => c.cap

/-- MODULE_ALARM (R368). -/
def execModuleAlarm (s : State) : Host.Outcome State Fault Refusal := .next (s.cut 4 (s.chameleon.cutCap - 300))

/-! ### Cap tokens (R369, R370, R470) -/

/-- A token with a wrong CHK, a nonzero reserved byte or LEASE 0 (R369). -/
def malformedToken (bs : List Byte) : Bool :=
  fieldAt bs 12 4 != crc32c (bs.take 12) || fieldAt bs 8 4 != 0 || fieldAt bs 6 2 == 0

/-- The answer to a token (R470). -/
def State.answerToken (s : State) (a : Byte) : State :=
  { s with chameleon := { s.chameleon with answers := a :: s.chameleon.answers } }

/-- CAP_TOKEN (R369, R370, R470). -/
def execCapToken (token : BitVec 128) (s : State) : Host.Outcome State Fault Refusal :=
  let bs := bytesOf 16 token.toNat
  let ch := s.chameleon
  let seq := fieldAt bs 0 4
  let ahead := (seq + 2 ^ 32 - ch.tokenSeq) % 2 ^ 32
  if malformedToken bs then .next (s.answerToken 2)
  else if ahead = 0 ∨ 2 ^ 31 ≤ ahead then .next (s.answerToken 1)
  else
    let cap := max 1200 (min 3000 (fieldAt bs 4 2))
    let due := s.now + fieldAt bs 6 2 * 100000 * tickUnits
    let s := { s with chameleon := { ch with tokenSeq := seq, cap := cap, oldCap := some ch.cutCap, leaseEnd := some due } }
    let s := (s.postCore due 0 .leaseExpiry).answerToken 0
    .next (if 57600 * cap < s.inForce.draw then s.cut 2 cap else s.search 2 none)

/-- LEASE_EXPIRY (R370, R368): the lease in force has run out, and the cap drops to the floor. -/
def execLeaseExpiry (s : State) : Host.Outcome State Fault Refusal :=
  match s.chameleon.leaseEnd with
  | some t =>
    if s.now < t then .next s
    else
      let s := { s with chameleon := { s.chameleon with cap := 1200, oldCap := none, leaseEnd := none } }
      .next (if 57600 * 1200 < s.inForce.draw then s.cut 3 1200 else s)
  | none => .next s

/-- A 32-bit half of a word of BAR0 written. -/
def State.setReg32 (s : State) (off : Nat) (x : BitVec 32) : State :=
  let w := s.reg (off / 8 * 8)
  let k := 8 * (off % 8 / 4 * 4)
  s.setReg (off / 8 * 8) (BitVec.ofNat 64 (w.toNat - natBits w.toNat (k + 31) k * 2 ^ k + x.toNat * 2 ^ k))

/-- VPT_WRITE (R363, R457): an entry that a running launch names is searched anew. -/
def execVptWrite (vf entry : Nat) (value : BitVec 32) (s : State) : Host.Outcome State Fault Refusal :=
  if 192 ≤ vf ∨ 8 ≤ entry then .fault .noSuchUnit
  else
    let s := s.setReg32 (0x12000 + 32 * vf + 4 * entry) value
    let used := s.launches.any (fun e => s.runs e.2 && e.2.vf == vf && e.2.flag 4 && e.2.field 60 1 == entry)
    .next (if used then s.search 5 none else s)

end Sys2Proof.Machine
end

