-- ==== Sys2Proof/Machine/Coverage.lean ====
section
/-! DEFINITION. The work space, the Leapfrog walker, COVQ, and Axolotl with its controller (R185 to R191, R381 to R394). -/

namespace Sys2Proof.Machine

/-! ### The work space (R185, R186) -/

/-- WIDTHf (R177). -/
def Launch.width (l : Launch) (f : Nat) : Nat := l.field (24 + f) 1

/-- n_f, the extent of field f (R185). -/
def Launch.extent (l : Launch) (f : Nat) : Nat := l.field (32 + 4 * f) 4 + 1

/-- o_f, the lowest bit of field f (R185). -/
def Launch.shift (l : Launch) (f : Nat) : Nat := (List.range f).foldl (fun n g => n + l.width g) 0

/-- P, the number of points (R186). -/
def Launch.points (l : Launch) : Nat := (List.range 6).foldl (fun n f => n * l.extent f) 1

/-- CHUNK (R177). -/
def Launch.chunk (l : Launch) : Nat := l.field 56 4

/-- The field values of a point (R186). -/
def Launch.pointOf (l : Launch) (p : Nat) : List Nat :=
  (List.range 6).map (fun f => p / (List.range f).foldl (fun n g => n * l.extent g) 1 % l.extent f)

/-- The work identifier of field values (R185, R186). -/
def Launch.idOfPoint (l : Launch) (xs : List Nat) : Nat := (xs.mapIdx (fun f x => x * 2 ^ l.shift f)).foldl (· + ·) 0

/-- IdOf(p) (R186). -/
def Launch.idOf (l : Launch) (p : Nat) : Nat := l.idOfPoint (l.pointOf p)

/-- NONE (R186). -/
def noPoint : Word := 0xFFFF_FFFF_FFFF_FFFF

/-! ### Patterns (R382 to R385) -/

/-- A field of the coverage descriptor (R382). -/
def Launch.cov (l : Launch) (off n : Nat) : Nat := fieldAt l.cdesc off n

/-- A byte of the pattern of a rung (R383). -/
def Launch.rungByte (l : Launch) (u i : Nat) : Nat := l.cov (128 + 8 * u + i) 1

/-- FI and FJ (R383). -/
def Launch.fi (l : Launch) : Nat := l.rungByte 0 0 % 8
/-- FJ (R383). -/
def Launch.fj (l : Launch) : Nat := l.rungByte 0 0 / 8 % 8

/-- KEEP of a rung (R383). -/
def Launch.keep (l : Launch) (u : Nat) : Nat := l.cov (128 + 8 * u + 6) 2

/-- Frac of a rung (R384). -/
def Launch.fracOf (l : Launch) (u : Nat) : Nat :=
  2 ^ 16 * ((List.range 16).filter (fun t => (l.keep u).testBit t)).length / l.rungByte u 1

/-- Kept(id) under the rung in force (R384); without coverage every point is kept. -/
def Launch.kept (l : Launch) (id : Nat) : Bool :=
  if !l.flag 2 then true
  else
    let part (f : Nat) : Nat := id / 2 ^ l.shift f % 2 ^ l.width f
    let u := l.rung
    (l.keep u).testBit ((l.rungByte u 2 * part l.fi + l.rungByte u 3 * part l.fj + l.rungByte u 4) % l.rungByte u 1)

/-- S, SCAP and SBUF (R382). -/
def Launch.every (l : Launch) : Nat := l.cov 4 2
/-- SCAP (R382). -/
def Launch.slots (l : Launch) : Nat := l.cov 12 4
/-- The address of a side-buffer slot (R386). -/
def Launch.slotAddress (l : Launch) (slot : Nat) : Word := BitVec.ofNat 64 (l.cov 32 8 + 16 * slot)

/-! ### The walker (R187, R188, R386) -/

/-- A launch's walker set by flat number, in rising rank (R187). -/
def State.walkerSet (s : State) (l : Launch) : List Nat :=
  (s.rangeCores l).filter (fun n =>
    match (s.part l.part).rankOf n with
    | some r => (match l.roles.find? (fun e => e.1 = r) with | some e => decide (e.2 ≤ 15) && (l.field 14 2).testBit e.2 | none => false)
    | none => false)

/-- The own point after a point (R187). -/
def Walker.after (w : Walker) (chunk p : Nat) : Nat := if (p + 1) % chunk = 0 then p + 1 + (w.count - 1) * chunk else p + 1

/-- What a walker comes to: itself moved on, the point it hands out, and the sample slot whose ID is to be written. -/
structure WalkStep where
  walker : Walker
  point : Option Nat
  slot : Option Nat
  deriving DecidableEq, Repr

/-- The walker's next own point, skipping what the pattern leaves out (R386). -/
def Walker.take (l : Launch) : (fuel : Nat) → Walker → WalkStep
  | 0, w => ⟨w, none, none⟩
  | fuel + 1, w =>
    match w.rank with
    | none => ⟨w, none, none⟩
    | some r =>
      let p := w.next
      if l.points ≤ p then ⟨w, none, none⟩
      else
        let w := { w with next := w.after l.chunk p }
        if l.kept (l.idOf p) then ⟨{ w with taken := w.taken + 1, last := some p, lastKind := .plain }, some p, none⟩
        else
          let w := { w with skipIdx := w.skipIdx + 1 }
          let slot := r + w.count * w.samples
          if l.every ≠ 0 ∧ w.skipIdx % l.every = 0 ∧ slot < l.slots then
            ⟨{ w with taken := w.taken + 1, samples := w.samples + 1, last := some p, lastKind := .sample w.samples }, some p, some slot⟩
          else Walker.take l fuel { w with skipped := w.skipped + 1 }

/-- A launch with a walker's failed ID write noted (R386). -/
def State.badSlot (s : State) (n slot : Nat) : State :=
  match SMap.find s.launches n with
  | some l => { s with launches := SMap.put s.launches n { l with badSlots := l.badSlots ++ [slot] } }
  | none => s

/-- A core's walker as its pending results will leave it: the newest result of COVQ.next counts (R190, R191). -/
def Core.walkerAhead (c : Core) : Walker :=
  (c.var.flatMap (·.writes)).foldl (fun w d => match d with | .walker x _ => x | _ => w) c.walker

/-- COVQ.next: the point it hands out, the walker that moves on when its result arrives, and the machine with the ID of a sample written into its slot (R190, R386). -/
def State.takePoint (s : State) : Word × Walker × State :=
  let c := s.cc
  match s.launchOf s.cur with
  | none => (noPoint, c.walkerAhead, s)
  | some (n, l) =>
    let t := Walker.take l (l.points + 1) c.walkerAhead
    match t.point with
    | none => (noPoint, { t.walker with last := none, lastKind := .none }, s)
    | some p =>
      let id := l.idOf p
      match t.slot with
      | none => (BitVec.ofNat 64 id, t.walker, s)
      | some slot =>
        let w := s.unitWrite (s.cur / 1024) (s.vfOf s.cur) (some l.part) (l.slotAddress slot) 8 id none (some s.cur)
        (BitVec.ofNat 64 id, t.walker, match w.1 with | some _ => w.2.badSlot n slot | none => w.2)

/-! ### COVQ (R190, R191, R387) -/

/-- COVQ: a is a source for .keep only, and never staggered; the other fields are zero (R190, R191, R387). -/
def sigCovq (reads : Bool) : Sig where
  op := 0xB05
  lat := 2
  roles := fun _ => if reads then { d := .gw, a := .gfix } else { d := .gw }
  reserved := fun o => (!reads && o.a != 0) || o.b != 0 || o.c != 0

/-- A result of COVQ, 2 vector cycles after issue (R191). -/
def State.putCovq (s : State) (o : Opnd) (x : Word) (more : List Dest) : State :=
  let c := s.cc
  s.putVar (.at (s.now + 2 * c.clock.pipePeriod)) [o.d] [] ([.gen (c.phys o.d) x] ++ more) false

/-- COVQ.next (R190, R191): the walker and WID change when the result arrives. -/
def execCovqNext (t : TailW) (s : State) : Host.Outcome State Fault Refusal :=
  issue (sigCovq false) (opndW t) s fun o s =>
    let r := s.takePoint
    .done (r.2.2.putCovq o r.1 [.walker r.2.1 r.1])

/-- COVQ.rank (R190). -/
def execCovqRank (t : TailW) (s : State) : Host.Outcome State Fault Refusal :=
  issue (sigCovq false) (opndW t) s fun o s =>
    let w := s.cc.walker
    .done (s.putCovq o (BitVec.ofNat 64 (w.count * 2 ^ 32 + w.rank.getD 0xFFFF_FFFF)) [])

/-- COVQ.info (R387). -/
def execCovqInfo (t : TailW) (s : State) : Host.Outcome State Fault Refusal :=
  issue (sigCovq false) (opndW t) s fun o s =>
    let w := s.cc.walkerAhead
    let x : Word :=
      match s.launchOf s.cur, w.lastKind, w.rank with
      | some (_, l), .sample k, some r => BitVec.ofNat 64 (2 ^ 63 + (l.slotAddress (r + w.count * k) + 8).toNat % 2 ^ 48)
      | _, _, _ => 0
    .done (s.putCovq o x [])

/-- COVQ.keep (R387). -/
def execCovqKeep (t : TailW) (s : State) : Host.Outcome State Fault Refusal :=
  issue (sigCovq true) (opndW t) s fun o s =>
    let ok := match s.launchOf s.cur with | some (_, l) => l.kept (s.cc.readG o.a).toNat | none => true
    .done (s.putCovq o (if ok then 1 else 0) [])

/-! ### When a launch has come to rest (R193, R388) -/

/-- Whether a core runs, or has run, in a launch. -/
def State.inLaunch (s : State) (n core : Nat) : Bool := (s.core core).launch == some n

/-- Every core of a launch's range has retired (R193). -/
def State.allRetired (s : State) (n : Nat) (l : Launch) : Bool := (s.rangeCores l).all (fun c => s.inLaunch n c && (s.core c).retired)

/-- A message that a copy unit or a matrix engine has sent, and that has not reached its core yet (R307). -/
def Mail.completionUnderWay (m : Mail) : Bool := !m.waits && (List.range 128).any (fun pod => m.sender == copySender pod || m.sender == matrixSender pod)

/-- The requests, copy jobs, matrix commands, catches and trace records of a launch are done, and the messages of its jobs have reached their cores (R193, R315, R388). -/
def State.quiet (s : State) (n : Nat) (l : Launch) : Bool :=
  let jobDone (j : CopyJob) : Bool := match j.stage with | .posting _ => true | _ => false
  let outside (r : Req) : Bool := match r.client with | .remote _ _ _ _ => true | _ => false
  s.reqs.all (fun e => !s.inLaunch n e.2.core || e.2.stage == .held || outside e.2) &&
    s.copyUnits.all (fun e => e.2.jobs.all (fun j => !s.inLaunch n j.2.order.core || jobDone j.2)) &&
    s.matrices.all (fun e => e.2.cmds.all (fun c => !s.inLaunch n c.2.core)) &&
    s.mail.all (fun e => !s.inLaunch n e.2.core || !e.2.completionUnderWay) &&
    s.ring.ctxs.all (fun e => !s.inLaunch n (ctxOwner e.1) || e.2.state != 2) &&
    s.traceOut.all (fun t => t.part != l.part)

/-- STATUS of a launch that was not refused: the first that applies (R195). -/
def State.statusOf (s : State) (n : Nat) (l : Launch) : Byte :=
  match l.forced with
  | some f => f.1
  | none =>
    if l.axolotlFailed || !l.badSlots.isEmpty then 0x09
    else if (s.rangeCores l).any (fun c => s.inLaunch n c && (s.core c).run == .doubleFaulted) then 0x07
    else if l.diverged then 0x0C else 0

/-! ### Axolotl (R388 to R394) -/

/-- The element format of DTYPE (R382). -/
def Launch.dtype (l : Launch) : Fmt := (Fmt.ofCode (BitVec.ofNat 6 (l.cov 2 1))).getD .f32

/-- The element type is an MX type (R382). -/
def Launch.isMx (l : Launch) : Bool := l.dtype == .e4m3 || l.dtype == .e5m2

/-- Bytes of an element. -/
def Launch.elementBytes (l : Launch) : Nat := l.dtype.width / 8

/-- The signed stride of a field (R382). -/
def Launch.strideOf (l : Launch) (f : Nat) : Int := signExt (l.cov (64 + 8 * f) 8) 64

/-- The offset of a point's element from OUT (R382). -/
def Launch.elementOffset (l : Launch) (xs : List Nat) : Int := (xs.mapIdx (fun f (x : Nat) => (x : Int) * l.strideOf f)).foldl (· + ·) 0

/-- The address of a point's element (R382). -/
def Launch.elementAddress (l : Launch) (xs : List Nat) : Word := wordOf (l.cov 16 8 + l.elementOffset xs)

/-- The address of the scale of a point's block (R382). -/
def Launch.scaleAddress (l : Launch) (xs : List Nat) : Word := wordOf (l.cov 24 8 + l.elementOffset xs / 16)

/-- Reads made for a launch, whose bytes are counted and whose failures are recorded (R371, R419). -/
def State.readRuns (s : State) (l : Launch) (runs : List (Word × Nat)) : State :=
  runs.foldl (fun t r => (t.unitRead (t.part l.part).die l.vf (some l.part) r.1 r.2).2) s

/-- A read by the Axolotl units of a launch. -/
def State.axRead (s : State) (l : Launch) (ea : Word) (n : Nat) : Option Nat :=
  match (s.unitRead (s.part l.part).die (s.part l.part).vf (some l.part) ea n).1 with
  | .ok v => some v
  | .error _ => none

/-- The value an element stands for: for an MX type its code times its block's scale, as FP32 (R391, R392). -/
def State.elementValue (s : State) (l : Launch) (xs : List Nat) : Option FVal :=
  match s.axRead l (l.elementAddress xs) l.elementBytes with
  | none => none
  | some code =>
    if !l.isMx then some (val l.dtype code)
    else
      match s.axRead l (l.scaleAddress xs) 1 with
      | none => none
      | some sc => some (val .f32 (roundNE (fMul (val l.dtype code) (val .sc sc)).v .f32).code)

/-- The kept neighbours of a point along a field: the nearest below and the nearest above (R389). -/
def Launch.neighbours (l : Launch) (xs : List Nat) (f : Nat) : Option Nat × Option Nat :=
  let x := xs[f]?.getD 0
  let ok (i : Nat) : Bool := l.kept (l.idOfPoint (xs.set f i))
  ((List.range x).reverse.find? ok, ((List.range (l.extent f - 1 - x)).map (· + x + 1)).find? ok)

/-- What a kernel makes of a point's neighbours: none where there is none, or a failed read. -/
inductive Lin where
  | none
  | failed
  | val (x : FVal)
  deriving DecidableEq, Repr

/-- A value read, or a failure. -/
def linOf : Option FVal → Lin
  | some v => .val v
  | none => .failed

/-- Lin along a field (R389). -/
def State.lin (s : State) (l : Launch) (xs : List Nat) (f : Nat) : Lin :=
  let x := xs[f]?.getD 0
  let at1 (i : Nat) : Option FVal := s.elementValue l (xs.set f i)
  match l.neighbours xs f with
  | (none, none) => .none
  | (some a, none) => linOf (at1 a)
  | (none, some b) => linOf (at1 b)
  | (some a, some b) =>
    match at1 a, at1 b with
    | some u, some v =>
      let n (k : Nat) : FVal := .num false ((k : Nat) : Rat)
      .val (fDiv (fAdd .rne (fMul u (n (b - x))).v (fMul v (n (x - a))).v).v (n (b - a))).v
    | _, _ => .failed

/-- The nearest kept neighbour along a field, the lower on a tie (R389, K1). -/
def State.nearest (s : State) (l : Launch) (xs : List Nat) (f : Nat) : Lin :=
  let x := xs[f]?.getD 0
  let at1 (i : Nat) : Lin := linOf (s.elementValue l (xs.set f i))
  match l.neighbours xs f with
  | (none, none) => .none
  | (some a, none) => at1 a
  | (none, some b) => at1 b
  | (some a, some b) => if x - a ≤ b - x then at1 a else at1 b

/-- K1 (R389). -/
def State.kernelNear (s : State) (l : Launch) (xs : List Nat) : Lin :=
  match s.nearest l xs l.fi with
  | .none => (match s.nearest l xs l.fj with | .none => .val (.num false 0) | y => y)
  | x => x

/-- The kernel's value at a point: none where a read fails (R389). -/
def State.kernel (s : State) (l : Launch) (xs : List Nat) : Option FVal :=
  let out (x : Lin) : Option FVal := match x with | .val v => some v | .none => some (.num false 0) | .failed => none
  match l.cov 1 1 with
  | 0 => some (.num false 0)
  | 1 => out (s.kernelNear l xs)
  | 2 => out (match s.lin l xs l.fi with | .none => s.kernelNear l xs | x => x)
  | 3 =>
    match s.lin l xs l.fi, s.lin l xs l.fj with
    | .failed, _ => none
    | _, .failed => none
    | .val a, .val b => some (fDiv (fAdd .rne a b).v (.num false 2)).v
    | .none, y => out y
    | x, .none => out x
  | _ => s.elementValue l xs

/-- An exact value as an element of a type other than MX (R390). -/
def Launch.encodeElement (l : Launch) (x : FVal) : Nat :=
  match l.dtype with
  | .f32 => (roundNE x .f32).code
  | .bf16 => (enc .bf16 (val .f32 (roundNE x .f32).code) .rne 0 false false).code
  | .i8 => truncI (satI x.toRat.floor 8) 8
  | _ => truncI x.toRat.floor 32

/-- The kernel's value as R392 compares it: FP32 for the floating and MX types, exact for the integers. -/
def Launch.compared (l : Launch) (x : FVal) : FVal :=
  match l.dtype with
  | .i8 | .i32 => x
  | _ => if l.cov 1 1 = 4 then x else val .f32 (roundNE x .f32).code

/-- The relative error of a sample, capped at 256 (R392). -/
def relativeError (integer : Bool) (y e : FVal) : Rat :=
  match y, e with
  | .num _ _, .num _ m =>
    let d := y.toRat - e.toRat
    let a : Rat := if d < 0 then -d else d
    let least : Rat := if integer then 1 else pow2 (-20)
    let r := a / (if m < least then least else m)
    if 256 < r then 256 else r
  | _, _ => 256

/-- The samples of a walker: its own skipped points at every S-th place, with their slots (R386). -/
def Walker.sampleList (l : Launch) (w : Walker) (r : Nat) : (fuel p skip k : Nat) → List (Nat × Nat)
  | 0, _, _, _ => []
  | fuel + 1, p, skip, k =>
    if l.points ≤ p ∨ w.samples ≤ k then []
    else
      let q := w.after l.chunk p
      if l.kept (l.idOf p) then Walker.sampleList l w r fuel q skip k
      else if (skip + 1) % l.every = 0 then (p, r + w.count * k) :: Walker.sampleList l w r fuel q (skip + 1) (k + 1)
      else Walker.sampleList l w r fuel q (skip + 1) k

/-- Every sample of a launch: its point and its slot (R386). -/
def State.samples (s : State) (l : Launch) : List (Nat × Nat) :=
  (s.walkerSet l).flatMap (fun n =>
    let w := (s.core n).walkerAhead
    match w.rank with
    | some r => w.sampleList l r (l.points + 1) (r * l.chunk) 0 0
    | none => [])

/-- A write that Axolotl makes: address, bytes and value. -/
structure AxWrite where
  ea : Word
  bytes : Nat
  value : Nat
  deriving DecidableEq, Repr

/-- The elements of a block that are written, with their addresses, as writes that each lie in one 8-byte word: OUT of an MX type needs no alignment (R383, R391, R398). -/
def elementWrites : List (Word × Nat) → List AxWrite
  | [] => []
  | (a, x) :: rest =>
    match elementWrites rest with
    | w :: ws => if w.ea = a + 1 ∧ w.ea.toNat % 8 ≠ 0 then ⟨a, w.bytes + 1, x + 256 * w.value⟩ :: ws else ⟨a, 1, x⟩ :: w :: ws
    | [] => [⟨a, 1, x⟩]

/-- What Axolotl makes of a point or a block: its writes, the relative errors of its samples, and whether something failed. -/
structure AxResult where
  writes : List AxWrite
  errors : List Rat
  failed : Bool
  deriving DecidableEq, Repr

/-- The slot of a point, if it is a sample; `some none` when its ID write failed (R386). -/
def sampleSlot (l : Launch) (samples : List (Nat × Nat)) (p : Nat) : Option (Option Nat) :=
  (samples.find? (fun e => e.1 = p)).map (fun e => if l.badSlots.contains e.2 then none else some e.2)

/-- VALUE of a sample's slot (R386). -/
def State.sampleValue (s : State) (l : Launch) (slot : Nat) : Option FVal :=
  (s.axRead l (l.slotAddress slot + 8) 8).map (fun v => if l.isMx then val .f32 (v % 2 ^ 32) else val l.dtype (v % 2 ^ (8 * l.elementBytes)))

/-- The relative error of a sample at a point (R392); none where the kernel's read fails. -/
def State.sampleError (s : State) (l : Launch) (xs : List Nat) (e : FVal) : Option Rat :=
  (s.kernel l xs).map (fun y => relativeError ((l.dtype.isInt).isSome) (l.compared y) e)

/-- A skipped point of a type other than MX (R388 to R390). -/
def State.axPoint (s : State) (l : Launch) (samples : List (Nat × Nat)) (p : Nat) : AxResult :=
  let xs := l.pointOf p
  let write (x : FVal) : AxWrite := ⟨l.elementAddress xs, l.elementBytes, l.encodeElement x⟩
  match sampleSlot l samples p with
  | some none => ⟨[], [], true⟩
  | some (some slot) =>
    match s.sampleValue l slot with
    | none => ⟨[], [], true⟩
    | some e =>
      match s.sampleError l xs e with
      | some r => ⟨[write e], [r], false⟩
      | none => ⟨[], [], true⟩
  | none =>
    if l.cov 1 1 = 4 then ⟨[], [], false⟩
    else
      match s.kernel l xs with
      | some x => ⟨[write x], [], false⟩
      | none => ⟨[], [], true⟩

/-- The FP32 value that a point takes in its rebuilt block, its error if it is a sample, and whether its element stays unwritten because its ID write failed (R386, R391); none where a read fails. -/
def State.rebuilt (s : State) (l : Launch) (samples : List (Nat × Nat)) (p : Nat) : Option (FVal × List Rat × Bool) :=
  let xs := l.pointOf p
  if l.kept (l.idOf p) then (s.elementValue l xs).map (fun v => (v, [], false))
  else
    match sampleSlot l samples p with
    | some none => (s.elementValue l xs).map (fun v => (v, [], true))
    | some (some slot) =>
      match s.sampleValue l slot with
      | some e => (s.sampleError l xs e).map (fun r => (e, [r], false))
      | none => none
    | none => (s.kernel l xs).map (fun v => (l.compared v, [], false))

/-- The points of the block that begins at a point (R382). -/
def Launch.blockPoints (l : Launch) (p : Nat) : List Nat :=
  let step := (List.range l.fi).foldl (fun n g => n * l.extent g) 1
  (List.range 16).map (fun i => p + i * step)

/-- A block of an MX type: rebuilt when it holds a skipped point, or under K4 a sample (R391). Samples that can be compared count even where the block cannot be rebuilt (R392). -/
def State.axBlock (s : State) (l : Launch) (samples : List (Nat × Nat)) (p : Nat) : AxResult :=
  let ps := l.blockPoints p
  let needed := if l.cov 1 1 = 4 then ps.any (fun q => (sampleSlot l samples q).isSome) else ps.any (fun q => !l.kept (l.idOf q))
  if !needed then ⟨[], [], false⟩
  else
    let vs := ps.filterMap (s.rebuilt l samples)
    let errors := vs.flatMap (fun v => v.2.1)
    if vs.length < 16 then ⟨[], errors, true⟩
    else
      let q := quantise l.dtype false .rne (fun _ => 0) (vs.map (·.1))
      let xs := l.pointOf p
      let elems := (vs.zip (q.codes.zipIdx)).filterMap (fun v => if v.1.2.2 then none else some (l.elementAddress xs + BitVec.ofNat 64 v.2.2, v.2.1.code))
      ⟨elementWrites elems ++ [⟨l.scaleAddress xs, 1, q.scale⟩], errors, vs.any (fun v => v.2.2)⟩

/-- Everything Axolotl makes of a launch: every result rests on what memory held before it began (R388). -/
def State.axResults (s : State) (l : Launch) : List AxResult :=
  let samples := s.samples l
  let all := List.range l.points
  if l.isMx then (all.filter (fun p => (l.pointOf p)[l.fi]?.getD 0 % 16 = 0)).map (s.axBlock l samples)
  else (all.filter (fun p => !l.kept (l.idOf p))).map (s.axPoint l samples)

/-- The writes of one point or block: all of them, or none when one would fail, whose failure is recorded (R394, R419). -/
def State.axWrite (s : State) (l : Launch) (ws : List AxWrite) : Bool × State :=
  let e := s.part l.part
  let fails (w : AxWrite) : Bool := match (s.unitKey e.die e.vf (some l.part) w.ea w.bytes false true).1 with | .ok _ => false | .error _ => true
  match ws.find? fails with
  | some w => (false, (s.unitKey e.die e.vf (some l.part) w.ea w.bytes false true).2)
  | none => (true, ws.foldl (fun t w => (t.unitWrite e.die e.vf (some l.part) w.ea w.bytes w.value).2) s)

/-- The points whose elements a point's interpolant reads (R389). -/
def Launch.kernelPoints (l : Launch) (xs : List Nat) : List (List Nat) :=
  let near (f : Nat) : List Nat :=
    let x := xs[f]?.getD 0
    match l.neighbours xs f with
    | (some a, some b) => if x - a ≤ b - x then [a] else [b]
    | (a, b) => a.toList ++ b.toList
  let both (f : Nat) : List Nat := (l.neighbours xs f).1.toList ++ (l.neighbours xs f).2.toList
  let along (f : Nat) (is : List Nat) : List (List Nat) := is.map (xs.set f)
  let k1 := if (near l.fi).isEmpty then along l.fj (near l.fj) else along l.fi (near l.fi)
  match l.cov 1 1 with
  | 0 => []
  | 1 => k1
  | 2 => if (both l.fi).isEmpty then k1 else along l.fi (both l.fi)
  | 3 => along l.fi (both l.fi) ++ along l.fj (both l.fj)
  | _ => [xs]

/-- The runs of memory that Axolotl reads for a point: its slot's VALUE if it is a sample, its own element where a block is rebuilt around it, and what its interpolant needs (R388 to R392). -/
def Launch.axRuns (l : Launch) (samples : List (Nat × Nat)) (p : Nat) : List (Word × Nat) :=
  let element (xs : List Nat) : List (Word × Nat) := (l.elementAddress xs, l.elementBytes) :: (if l.isMx then [(l.scaleAddress xs, 1)] else [])
  let xs := l.pointOf p
  let kernel := (l.kernelPoints xs).flatMap element
  if l.kept (l.idOf p) then (if l.isMx then element xs else [])
  else
    match sampleSlot l samples p with
    | some none => if l.isMx then element xs else []
    | some (some slot) => (l.slotAddress slot + 8, 8) :: kernel
    | none => if l.cov 1 1 = 4 ∧ l.isMx = false then [] else kernel

/-- Everything that Axolotl reads: of the skipped points, or of the blocks that it rebuilds (R388, R391). -/
def State.axReads (s : State) (l : Launch) : List (Word × Nat) :=
  let samples := s.samples l
  let all := List.range l.points
  let needed (p : Nat) : Bool := (l.blockPoints p).any (fun q => if l.cov 1 1 = 4 then (sampleSlot l samples q).isSome else !l.kept (l.idOf q))
  let ps := if l.isMx then ((all.filter (fun p => (l.pointOf p)[l.fi]?.getD 0 % 16 = 0)).filter needed).flatMap l.blockPoints
    else all.filter (fun p => !l.kept (l.idOf p))
  ps.flatMap (l.axRuns samples)

/-- ERR (R392). -/
def errOf (errors : List Rat) : Nat :=
  if errors.isEmpty then 0xFFFF_FFFF else (65536 * errors.foldl (· + ·) 0 / ((errors.length : Nat) : Rat)).floor.toNat

/-- The next RUNG (R393). -/
def Launch.nextRung (l : Launch) (frozen : Bool) (err : Nat) : Nat :=
  let t := l.cov 8 4
  let u := l.rung
  if frozen then u else if 5 * t < 4 * err then u - 1 else if 2 * err < t then min (u + 1) (l.cov 0 1 - 1) else u

/-- Axolotl's work and the controller's step (R388 to R394): the skipped points are filled and the samples measured, and then the stream's state is written. A replay's divergence counts before that (R393, R454). -/
def State.runAxolotl (s : State) (launch : Nat) : State :=
  let s := s.closeReplay launch
  match SMap.find s.launches launch with
  | none => s
  | some l =>
    let rs := s.axResults l
    let s := s.readRuns l (s.axReads l)
    let w := rs.foldl (fun (a : Bool × State) r => let x := a.2.axWrite l r.writes; (a.1 && x.1, x.2)) (true, s)
    let failed := !w.1 || rs.any (·.failed)
    let errors := rs.flatMap (·.errors)
    let l := { l with axolotlDone := true, axolotlFailed := failed }
    let s := w.2
    let err := errOf errors
    let rung := l.nextRung (l.flag 0 || errors.isEmpty || s.statusOf launch l != 0) err
    let bytes := bytesOf 1 rung ++ bytesOf 1 l.rung ++ bytesOf 2 0 ++ bytesOf 4 err ++ bytesOf 4 errors.length ++ bytesOf 4 0
    let e := s.part l.part
    let u := s.unitWrite e.die e.vf (some l.part) (BitVec.ofNat 64 (l.cov 40 8)) 16 (leValue bytes)
    let l := { l with axolotlFailed := failed || u.1.isSome }
    let s := { u.2 with launches := SMap.put u.2.launches launch l }
    s.postOnce s.now 0 (.launchCompletion launch)

/-- AXOLOTL_RUN (R388, R371): it runs once every core of the range has retired and every engine job is done, when the budget of its partition lets it; until then the launch is looked at again. -/
def execAxolotlRun (launch : Nat) (s : State) : Host.Outcome State Fault Refusal :=
  match SMap.find s.launches launch with
  | none => .next s
  | some l =>
    if l.stage != .draining || !l.flag 2 || l.axolotlDone || !s.allRetired launch l then .next s
    else if !s.quiet launch l then .next (s.postOnce (s.netEdgeAfter s.now) 0 (.launchCompletion launch))
    else s.admitted l.part (.axolotlRun launch) fun s => .next (s.runAxolotl launch)

end Sys2Proof.Machine
end

