-- ==== Sys2Proof/Machine/Launch.lean ====
section
/-! DEFINITION. Work queues, launches, their checks, their wake and loading, and their completion (R37, R82 to R84, R177 to R195, R342, R381 to R385, R463, R464). -/

namespace Sys2Proof.Machine

/-! ### Work queues (R463, R464) -/

/-- A word of a work-queue table entry (R463). -/
def queueOff (q i : Nat) : Nat := 0x200000 + 32 * q + 8 * i

/-- A work-queue table entry (R463). -/
structure QueueEntry where
  base : Nat
  log2n : Nat
  valid : Bool
  vf : Nat
  pid : Byte
  head : Nat
  tail : Nat
  deriving DecidableEq, Repr

/-- The entry of a queue (R463). -/
def State.queueEntry (s : State) (q : Nat) : QueueEntry :=
  let w := s.reg (queueOff q 1)
  let h := s.reg (queueOff q 2)
  ⟨(s.reg (queueOff q 0)).toNat, bitsOf w 7 0, w.getLsbD 8, bitsOf w 31 16, BitVec.ofNat 8 (bitsOf w 39 32), bitsOf h 31 0, bitsOf h 63 32⟩

/-- The valid queues of a virtual function in table order (R463). -/
def State.queuesOf (s : State) (vf : Nat) : List Nat :=
  (s.bar0.filter (fun e => 0x200000 ≤ e.1 && e.1 < 0x400000 && e.1 % 32 = 8)).filterMap (fun e =>
    let q := (e.1 - 0x200000) / 32
    let x := s.queueEntry q
    if x.valid && x.vf == vf then some q else none)

/-- HEAD and TAIL of a queue set (R463). -/
def State.setQueue (s : State) (q head tail : Nat) : State :=
  s.setReg (queueOff q 2) (BitVec.ofNat 64 (tail % 2 ^ 32 * 2 ^ 32 + head % 2 ^ 32))

/-- A fetch of a launch block posted: the spec leaves its time open (log 21). -/
def State.postFetch (s : State) (q : Nat) : State :=
  let f := s.takeFree
  f.2.postCore (s.netEdgeAfter s.now + Config.latency f.1 * s.netPeriod) 0 (.launchBlockFetch q)

/-- WORK_QUEUE_DOORBELL (R463). -/
def execWorkQueueDoorbell (vf queue : Nat) (value : Word) (s : State) : Host.Outcome State Fault Refusal :=
  match (s.queuesOf vf)[queue]? with
  | none => .next s
  | some q =>
    let e := s.queueEntry q
    let t := bitsOf value 31 0
    if (t + 2 ^ 32 - e.head) % 2 ^ 32 ≤ 2 ^ e.log2n then
      let s := s.setQueue q e.head t
      .next (if t = e.head then s else s.postFetch q)
    else .next s

/-! ### The container (R82 to R84) -/

/-- A field of a launch's container; none where the read fails. -/
def State.container (s : State) (l : Launch) (off n : Nat) : Option Nat :=
  match (s.unitRead (s.part l.part).die l.vf (some l.part) (BitVec.ofNat 64 (l.field 16 8 + off)) n).1 with
  | .ok v => some v
  | .error _ => none

/-- The section table of a container: type, offset and size of each section; none when MAGIC or VERSION is wrong, NSEC is out of range, or a read fails (R82). -/
def State.sectionTable (s : State) (l : Launch) : Option (List (Nat × Nat × Nat)) :=
  match s.container l 0 64 with
  | none => none
  | some h =>
    let nsec := natBits h 63 48
    if natBits h 31 0 ≠ 0x004D594E ∨ natBits h 47 32 ≠ 1 ∨ nsec = 0 ∨ 4096 < nsec then none
    else
      (List.range nsec).foldr (fun i r =>
        match s.container l (64 + 32 * i) 32, r with
        | some e, some rest => some ((natBits e 31 0, natBits e 127 64, natBits e 191 128) :: rest)
        | _, _ => none) (some [])

/-- A section by its index, if it has a type. -/
def Launch.sectionOf (l : Launch) (i type : Nat) : Option (Nat × Nat) :=
  match l.sections[i]? with
  | some (t, off, size) => if t = type then some (off, size) else none
  | none => none

/-- The section of a role index: its position among the role sections (R83). -/
def Launch.roleSection (l : Launch) (role : Nat) : Option (Nat × Nat) := ((l.sections.filter (fun x => x.1 = 1))[role]?).map Prod.snd

/-- FANOUT of a role's boot entry, the first of the first boot-tree section, if the entry keeps the rules of R84 (log 55). -/
def State.fanout (s : State) (l : Launch) (role : Nat) : Option Nat :=
  match l.sections.find? (fun x => x.1 = 3) with
  | none => none
  | some (_, off, size) =>
    let es := (List.range (size / 8)).filterMap (fun i => s.container l (off + 8 * i) 8)
    match es.find? (fun e => natBits e 31 0 = role) with
    | some e => if natBits e 63 40 = 0 ∧ 1 ≤ natBits e 39 32 ∧ natBits e 39 32 ≤ 4 then some (natBits e 39 32) else none
    | none => none

/-- The header of a role as the container holds it, if it and the role's boot entry keep the rules of R83 and R84: ENTRY has no bit above 17 (log 55). -/
def State.roleHeader (s : State) (l : Launch) (role : Nat) : Option RoleHeader :=
  match l.roleSection role, s.fanout l role with
  | some (off, size), some k =>
    match s.container l off 64 with
    | none => none
    | some h =>
      let f (i : Nat) : Nat := natBits h (32 * i + 31) (32 * i)
      let isize := f 4
      let ok := decide (f 0 < 2 ^ 18) && f 1 % 64 == 0 && f 2 % 8 == 0 && f 3 % 8 == 0 && isize % 64 == 0 &&
        decide (64 ≤ isize) && decide (isize ≤ 0x40000) && natBits h 511 160 == 0 && size == 64 + isize
      if ok then some ⟨BitVec.ofNat 18 (f 0), f 1, f 2, f 3, isize, off + 64, k⟩ else none
  | _, _ => none

/-- The header of a role of a launch, as the launch's check read it (log 33). -/
def Launch.header (l : Launch) (role : Nat) : Option RoleHeader := SMap.find l.headers role

/-- The placement entries of a launch: FIRST, LAST and ROLE of those that keep the rules of R84. Bytes of a section behind its last whole entry are no entry, here as in the boot tree and the lap schedule: the spec does not say what a SIZE that is no multiple of the entry's does (DESIGN CHOICE, log 55). -/
def State.placement (s : State) (l : Launch) : List (Nat × Nat × Nat) :=
  match l.sectionOf (l.field 12 2) 2 with
  | none => []
  | some (off, size) =>
    (List.range (size / 16)).filterMap (fun i =>
      match s.container l (off + 16 * i) 16 with
      | some e => if natBits e 127 96 = 0 ∧ natBits e 31 0 ≤ natBits e 63 32 then some (natBits e 31 0, natBits e 63 32, natBits e 95 64) else none
      | none => none)

/-- The role of every core of the range, by partition-relative number: the first placement that covers it counts (R83, R84; log 55). -/
def State.rolesOf (s : State) (l : Launch) : List (Nat × Nat) :=
  let ps := s.placement l
  ((List.range l.count).map (· + l.first)).filterMap (fun r =>
    (ps.find? (fun p => decide (p.1 ≤ r) && decide (r ≤ p.2.1))).map (fun p => (r, p.2.2)))

/-- A record of a lap-schedule section (R342). -/
def State.segmentAt (s : State) (l : Launch) (off : Nat) : Option (Segment × Bool) :=
  (s.container l off 32).map (fun e =>
    let g : Segment := ⟨l.part, natBits e 15 0, (s.part l.part).pid, BitVec.ofNat 8 (natBits e 31 24), natBits e 55 32, BitVec.ofNat 64 (natBits e 127 64)⟩
    (g, natBits e 255 128 == 0 && natBits e 63 56 == 0 && natBits e 23 16 == 0 && g.count != 0 && g.addr.toNat % 64 == 0))

/-- The frames lists of the partitions other than a launch's, as the next lap start would find them: the segments of a partition's newest accepted LAP launch that has still to start, or else those installed (R342). -/
def State.otherSegments (s : State) (part : Nat) : Nat :=
  (s.parts.filter (fun e => e.1 != part && e.2.valid && !(s.partition e.1).leftOut)).foldl (fun n e =>
    let pending := (s.launches.filter (fun x => x.2.part == e.1 && x.2.stage == .waiting && x.2.flag 3)).getLast?
    n + (match pending with | some x => x.2.segments.length | none => (SMap.get (fun _ => []) s.ring.segs e.1).length)) 0

/-- The segments of a launch's lap schedule; none where a record is refused (R342). -/
def State.lapSegments (s : State) (l : Launch) : Option (List Segment) :=
  match l.sectionOf (l.field 66 2) 5 with
  | none => none
  | some (off, size) =>
    let gs := (List.range (size / 32)).map (fun i => s.segmentAt l (off + 32 * i))
    let segs := gs.filterMap (fun g => match g with | some (x, true) => some x | _ => none)
    let distinct := segs.all (fun g => (segs.filter (fun x => x.layer = g.layer)).length ≤ 1)
    if segs.length = gs.length ∧ distinct = true ∧ s.otherSegments l.part + segs.length ≤ 4096 then some segs else none

/-! ### The checks of a launch block (R178, R383) -/

/-- A launch block breaks the rules of STATUS 0x01 (R178). -/
def Launch.badBlock (l : Launch) : Bool :=
  let z (off n : Nat) : Bool := l.field off n == 0
  l.field 0 2 != 1 || l.field 124 4 != crc32c (l.block.take 124) || decide (32 ≤ l.field 2 2) || !z 30 2 || !z 68 4 ||
    (!l.flag 2 && !z 72 24) || (!l.flag 3 && l.field 66 2 != 0xFFFF) || (l.flag 4 && !z 61 3) ||
    l.field 16 8 % 64 != 0 || l.field 96 8 % 8 != 0 || l.field 104 8 % 8 != 0 || l.field 112 8 % 32 != 0

/-- The range leaves the partition (STATUS 0x02). -/
def State.badRange (s : State) (l : Launch) : Bool := l.count == 0 || decide ((s.part l.part).cores < l.first + l.count)

/-- A section that the block names is not there, or the lap schedule is refused (STATUS 0x03). -/
def Launch.badSections (l : Launch) (segs : Option (List Segment)) : Bool :=
  (l.sectionOf (l.field 12 2) 2).isNone || (l.sectionOf (l.field 64 2) 4).isNone || (l.flag 3 && segs.isNone)

/-- A core of the range has no placement, or its role or boot entry is refused (STATUS 0x04). -/
def Launch.badRoles (l : Launch) : Bool :=
  let named := (l.roles.map Prod.snd).eraseDups
  l.roles.length != l.count || named.any (fun r => (l.header r).isNone)

/-- The work space breaks R185 (STATUS 0x05). -/
def Launch.badSpace (l : Launch) : Bool :=
  (List.range 6).any (fun f => decide (32 < l.width f) || decide (2 ^ l.width f < l.extent f)) || decide (63 < l.shift 6) || l.chunk == 0

/-- The ratio request is out of range (STATUS 0x06). -/
def Launch.badRatio (l : Launch) : Bool :=
  let r : Ratios := ⟨l.field 60 1, l.field 61 1, l.field 62 1, l.field 63 1⟩
  if l.flag 4 then decide (7 < l.field 60 1) else decide (r ≠ ⟨0, 0, 0, 0⟩) && !r.valid

/-- Bytes of the coverage descriptor that must be 0 (R381, R382). -/
def Launch.covReserved (l : Launch) : Bool :=
  l.field 80 16 == 0 && l.cov 3 1 == 0 && l.cov 6 2 == 0 && l.cov 48 16 == 0 && l.cov 112 16 == 0 && (l.isMx || l.cov 24 8 == 0) &&
    (List.range 8).all (fun u => if l.cov 0 1 ≤ u then l.cov (128 + 8 * u) 8 == 0 else decide (l.rungByte u 0 < 64) && l.rungByte u 5 == 0)

/-- A pattern keeps the rules of R383. -/
def Launch.goodRung (l : Launch) (u : Nat) : Bool :=
  let m := l.rungByte u 1
  let pop (v : Nat) : Nat := ((List.range 16).filter (fun t => (l.keep v).testBit t)).length
  decide (2 ≤ m) && decide (m ≤ 16) && l.rungByte u 0 % 64 == l.rungByte 0 0 % 64 && decide (l.rungByte u 2 < m) && decide (l.rungByte u 3 < m) &&
    decide (l.rungByte u 4 < m) && l.keep u != 0 && decide (l.keep u < 2 ^ m) &&
    (u == 0 || decide (pop u * l.rungByte (u - 1) 1 ≤ pop (u - 1) * m))

/-- An address in HBM space (R235, R381, R382). -/
def hbmAddress (x : Nat) : Bool := decide (x < 2 ^ 48)

/-- The coverage descriptor keeps the rules of R381 to R383. -/
def Launch.goodCoverage (l : Launch) : Bool :=
  let dt := l.cov 2 1
  let size := l.elementBytes
  [l.field 72 8, l.cov 16 8, l.cov 24 8, l.cov 32 8, l.cov 40 8].all hbmAddress && l.field 72 8 % 64 == 0 && l.covReserved && decide (1 ≤ l.cov 0 1) && decide (l.cov 0 1 ≤ 8) && decide (l.cov 1 1 ≤ 4) &&
    [0x01, 0x02, 0x12, 0x10, 0x04, 0x05].contains dt && l.cov 8 4 != 0 && l.cov 32 8 % 16 == 0 && l.cov 40 8 % 16 == 0 &&
    decide (l.fi < 6) && decide (l.fj < 6) && l.fi != l.fj && (List.range (l.cov 0 1)).all l.goodRung &&
    (if l.isMx then
      l.strideOf l.fi == 1 && l.extent l.fi % 16 == 0 && (List.range 6).all (fun f => f == l.fi || (decide (0 ≤ l.strideOf f) && l.strideOf f % 16 == 0))
    else l.cov 16 8 % size == 0 && (List.range 6).all (fun f => l.strideOf f % (size : Int) == 0))

/-- The coverage descriptor of a launch, read in pieces of 64 bytes; none where a read fails (R381, R383). -/
def State.readDescriptor (s : State) (l : Launch) : Option (List Byte) :=
  match (s.unitReadRun (s.part l.part).die l.vf (some l.part) (BitVec.ofNat 64 (l.field 72 8)) 3).1 with
  | .ok bs => some bs
  | .error _ => none

/-- The rung that a launch reads from its stream's state, taken within the ladder (R385). -/
def State.readRung (s : State) (l : Launch) : Option Nat :=
  match (s.unitRead (s.part l.part).die l.vf (some l.part) (BitVec.ofNat 64 (l.cov 40 8)) 1).1 with
  | .ok v => some (min v (l.cov 0 1 - 1))
  | .error _ => none

/-- The rung that a replay's log holds (R451, R453). -/
def State.loggedRung (s : State) (l : Launch) : Nat :=
  match s.logFind l 0x14 (fun _ => true) with
  | some i => s.logField l.part i 24 1
  | none => 0

/-- What the check of a launch block reads of memory: the container's header and section table, its placement, boot-tree and lap-schedule entries, its roles' headers, the coverage descriptor, and the rung in force, which a replay takes from its log (R82 to R84, R178, R342, R381, R385). -/
def State.checkRuns (l : Launch) : List (Word × Nat) :=
  let file (off n : Nat) : Word × Nat := (BitVec.ofNat 64 (l.field 16 8 + off), n)
  let entries (x : Option (Nat × Nat)) (n : Nat) : List (Word × Nat) :=
    match x with
    | some (off, size) => (List.range (size / n)).map (fun i => file (off + n * i) n)
    | none => []
  let table := file 0 64 :: (List.range l.sections.length).map (fun i => file (64 + 32 * i) 32)
  let roles := (((l.roles.map Prod.snd).eraseDups).filterMap l.roleSection).map (fun x => file x.1 64)
  let lap := if l.flag 3 then entries (l.sectionOf (l.field 66 2) 5) 32 else []
  let cover : List (Word × Nat) :=
    if l.flag 2 then
      (List.range 3).map (fun i => (BitVec.ofNat 64 (l.field 72 8 + 64 * i), 64)) ++ (if l.replay || l.cdesc.isEmpty then [] else [(BitVec.ofNat 64 (l.cov 40 8), 1)])
    else []
  table ++ entries (l.sectionOf (l.field 12 2) 2) 16 ++ entries ((l.sections.find? (fun x => x.1 = 3)).map Prod.snd) 8 ++ roles ++ lap ++ cover

/-- A launch block checked: its STATUS, the lowest that applies, and the launch with what it read of its container and descriptor (R178, R383). -/
def State.checkLaunch (s : State) (l : Launch) : Nat × Launch :=
  let table := s.sectionTable l
  let l := { l with sections := table.getD [] }
  let l := { l with roles := s.rolesOf l }
  let l := { l with headers := ((l.roles.map Prod.snd).eraseDups).foldl (fun m r => match s.roleHeader l r with | some h => SMap.put m r h | none => m) [] }
  let segs := if l.flag 3 then s.lapSegments l else none
  let l := { l with segments := segs.getD [] }
  let desc := if l.flag 2 then s.readDescriptor l else none
  let l := { l with cdesc := desc.getD [] }
  let rung := if l.replay then some (s.loggedRung l) else s.readRung l
  let l := if l.flag 2 then { l with rung := rung.getD 0, frac := BitVec.ofNat 32 (l.fracOf (rung.getD 0)) } else l
  let status :=
    if l.badBlock then 1
    else if s.badRange l then 2
    else if table.isNone || l.badSections segs then 3
    else if l.badRoles then 4
    else if l.badSpace then 5
    else if l.badRatio then 6
    else if l.flag 2 && (desc.isNone || !l.goodCoverage || rung.isNone) then 8
    else 0
  (status, l)

/-! ### Completion (R193 to R195) -/

/-- A completion-failure entry (R194, R458). -/
def State.completionFailure (s : State) (l : Launch) (step : Nat) (addr : Word) (c : Cause) : State :=
  if 128 ≤ l.part then s
  else s.faultEntry l.part 5 (bytesOf 4 (l.field 120 4) ++ [BitVec.ofNat 8 step, c.1, c.2, 0] ++ bytesOf 8 addr.toNat)

/-- A core of a launch, in the machine or in the saved context of its partition; none before its wake. -/
def State.launchCore (s : State) (n : Nat) (l : Launch) (c : Nat) : Option Core :=
  if s.inLaunch n c then some (s.core c)
  else
    match SMap.find s.savedCtx l.part, (s.part l.part).rankOf c with
    | some x, some r => (SMap.find x.cores r).filter (fun d => d.launch == some n)
    | _, _ => none

/-- Points handed out and passed over, over all walkers of a launch's cores (R195). -/
def State.pointCounts (s : State) (n : Nat) (l : Launch) : Nat × Nat :=
  ((s.walkerSet l).filterMap (s.launchCore n l)).foldl (fun a c => (a.1 + c.walkerAhead.taken, a.2 + c.walkerAhead.skipped)) (0, 0)

/-- The lowest partition-relative number of a core that retired on a fault (R195). -/
def State.faultedCore (s : State) (n : Nat) (l : Launch) : Nat :=
  match ((s.rangeCores l).filterMap (s.launchCore n l)).find? (fun c => c.run == .doubleFaulted) with
  | some c => c.rank
  | none => 0xFFFF_FFFF

/-- The completion record (R195). COVF of a refused launch is that of one without coverage: the spec gives it no fraction (DESIGN CHOICE, log 55). -/
def State.completionRecord (s : State) (n : Nat) (l : Launch) (status : Byte) (refused : Bool) : List Byte :=
  let k := s.pointCounts n l
  let taken := if refused then 0 else k.1
  let untaken := if refused then 0 else l.points - k.1 - k.2
  let covf := if l.flag 2 && !refused then l.frac.toNat else 0x10000
  let fcore := if refused then 0xFFFF_FFFF else
    match l.forced with
    | some (_, f) => f.toNat
    | none => s.faultedCore n l
  bytesOf 4 (l.field 120 4) ++ bytesOf 2 status.toNat ++ bytesOf 2 0 ++ bytesOf 8 taken ++ bytesOf 8 untaken ++ bytesOf 4 covf ++ bytesOf 4 fcore

/-- Step 2 of R193. -/
def State.writeRecord (s : State) (l : Launch) (bytes : List Byte) : State :=
  let ea : Word := BitVec.ofNat 64 (l.field 112 8)
  if ea = 0 then s
  else if ea.toNat % 32 ≠ 0 then s.completionFailure l 2 ea (0x08, 0)
  else
    let w := s.unitWrite (s.part l.part).die l.vf (some l.part) ea 32 (leValue bytes) (some l)
    match w.1 with
    | some c => w.2.completionFailure l 2 ea c
    | none => w.2

/-- Step 3 of R193 for one DONE word: an atomic add of 1. -/
def State.addDone (s : State) (l : Launch) (step off : Nat) : State :=
  let ea : Word := BitVec.ofNat 64 (l.field off 8)
  if ea = 0 then s
  else if ea.toNat % 8 ≠ 0 then s.completionFailure l step ea (0x08, 0)
  else
    let k := s.unitKey (s.part l.part).die l.vf (some l.part) ea 8 true true (some l)
    match k.1 with
    | .error c => k.2.completionFailure l step ea c
    | .ok key => k.2.deviceStore key 8 ((Memory.readLE k.2.mem key 8 + 1) % 2 ^ 64)

/-- A change of PKGMODE.TS that has not yet taken effect does so while no launch runs (R430). -/
def State.settleMode (s : State) : State :=
  let ts := (s.reg 0x100).getLsbD 0
  if s.launches.any (fun e => s.runs e.2) then s
  else if ts && !s.slice.on then { s with slice := { TimeSlice.off with on := true } }
  else if !ts && s.slice.on && s.slice.stage == .none then State.postOnce { s with slice := { s.slice with entry := none } } s.now 0 .quantumEnd
  else s

/-- Waiting launches looked at again (R179, R197, R460); in time-sliced mode an idle package looks for a virtual function to run (R431). -/
def State.kickLaunches (s : State) : State :=
  let s := s.settleMode
  let s := if s.slice.on && s.slice.entry.isNone && s.slice.stage == .none then s.postOnce s.now 0 .quantumEnd else s
  s.launches.foldl (fun t e => if e.2.stage = .waiting then t.postOnce t.now 0 (.launchStart e.1) else t) s

/-- Contexts of a launch's range in state 1 or 4 are set to idle (R193). -/
def State.idleBoards (s : State) (n : Nat) : State :=
  { s with ring := { s.ring with ctxs := s.ring.ctxs.filterMap (fun e =>
      if s.inLaunch n (ctxOwner e.1) && (e.2.state == 1 || e.2.state == 4) then
        let x := { e.2 with state := 0 }
        if x = BoardCtx.idle then none else some (e.1, x)
      else some e) } }

/-- The super-groups of a launch's range. -/
def State.groupsOf (s : State) (l : Launch) : List Nat := ((s.rangeCores l).map (· / 64)).eraseDups

/-- A running launch with a core of its range on a die. -/
def State.runsOnDie (s : State) (l : Launch) (die : Nat) : Bool := s.runs l && (s.groupsOf l).any (fun g => g / 16 == die)

/-- The bytes of a host write to a coherent window, by its mask, as one write (R275, R291, R451). -/
def State.windowStore (s : State) (die off : Nat) (mask : Byte) (value : Word) : State :=
  s.storeAll (((List.range 8).filter (fun i => mask.getLsbD i)).map (fun i => (windowKey die (off + i), 1, natBits value.toNat (8 * i + 7) (8 * i))))

/-- A host write to a window takes effect, and every launch that records it logs it with the release that applied it and the SSC of that release's lowest member (R451). -/
def State.applyWrite (s : State) (w : HeldWrite) (stamp : List Byte) (ssc : Word) : State :=
  let s := s.launches.foldl (fun t e =>
    if t.runsOnDie e.2 w.die then
      t.logFor e.1 (traceRecord 0x11 0xFFFF_FFFF ssc t.tick (bytesOf 4 (w.die * 2 ^ 20 + w.off) ++ [w.mask] ++ bytesOf 3 0 ++ bytesOf 8 w.value.toNat ++ stamp))
    else t) s
  s.windowStore w.die w.off w.mask w.value

/-- Host writes that no launch holds any more take effect, those of each die in the order of their arrival (R452). -/
def State.applyWrites (s : State) (stamp : List Byte) (ssc : Word) : State :=
  let ready := s.heldWrites.zipIdx.filter (fun w => s.heldWrites.zipIdx.all (fun x => x.1.die != w.1.die || decide (w.2 < x.2) || x.1.holders.isEmpty))
  let s := { s with heldWrites := (s.heldWrites.zipIdx.filter (fun w => !ready.contains w)).map Prod.fst }
  ready.foldl (fun t w => t.applyWrite w.1 stamp ssc) s

/-- A launch lets go of the host writes it holds: those that the dies hold, 256 each, and at its end those that wait behind them too (R452, R453). -/
def State.releaseWrites (s : State) (n : Nat) (all : Bool) (stamp : List Byte) (ssc : Word) : State :=
  let place (i : Nat) (w : HeldWrite) : Nat := ((s.heldWrites.take i).filter (fun x => x.die == w.die)).length
  let held := s.heldWrites.mapIdx (fun i w => if all || decide (place i w < 256) then { w with holders := w.holders.filter (· != n) } else w)
  State.applyWrites { s with heldWrites := held } stamp ssc

/-- A launch completes with a status: its contexts are let go, and steps 2 and 3 of R193 are taken (R193 to R195, R213). -/
def State.finishLaunch (s : State) (n : Nat) (l : Launch) (status : Byte) (refused : Bool) : State :=
  let bytes := s.completionRecord n l status refused
  let s := (s.idleBoards n).releaseWrites n true noStamp 0
  let s := { s with
    chorus := s.chorus.filter (fun e => e.1 / 1024 != n)
    releases := s.releases.filter (fun e => e.2.launch != n)
    launches := SMap.put s.launches n { l with stage := .completed status, images := [] } }
  ((s.writeRecord l bytes).addDone l 3 96).addDone l 4 104

/-- What follows a completion: the package request has changed, and waiting launches may start (R179, R363, R365). -/
def State.afterLaunch (s : State) (part : Nat) : State :=
  let s := s.search 1 none
  let s := if (s.part part).valid && !s.runsLaunch part then (s.takeGrant part).afterTake else s
  s.kickLaunches

/-- LAUNCH_COMPLETION (R193): once its cores have retired and its work is done, Axolotl runs, and then the launch completes. -/
def execLaunchCompletion (launch : Nat) (s : State) : Host.Outcome State Fault Refusal :=
  match SMap.find s.launches launch with
  | none => .next s
  | some l =>
    let going := match l.stage with | .started | .draining => true | _ => false
    if !going || !s.allRetired launch l then .next s
    else
      let l := { l with stage := .draining }
      let s := { s with launches := SMap.put s.launches launch l }
      let due := s.netEdgeAfter s.now
      if !s.quiet launch l then .next (s.postOnce due 0 (.launchCompletion launch))
      else if l.flag 2 && !l.axolotlDone then
        let f := s.takeFree
        if s.agenda.any (fun t => decide (t.act = .event (.axolotlRun launch))) then .next s
        else .next (f.2.postCore (due + Config.latency f.1 * s.netPeriod) 0 (.axolotlRun launch))
      else
        s.admitted l.part (.launchCompletion launch) fun s =>
          let s := (s.logNotices l.part noStamp).closeReplay launch
          match SMap.find s.launches launch with
          | none => .next s
          | some l => .next ((s.finishLaunch launch l (s.statusOf launch l) false).afterLaunch l.part)

/-! ### Fetch and start (R178, R179, R464) -/

/-- A launch as it enters the package. -/
def Launch.fresh (block : List Byte) (part vf queue : Nat) (replay : Bool) : Launch where
  block := block
  part := part
  vf := vf
  queue := queue
  stage := .waiting
  startedAt := 0
  seenBy := []
  roles := []
  forced := none
  axolotlDone := false
  axolotlFailed := false
  rung := 0
  frac := 0x10000
  replay := replay
  diverged := false
  replayed := []
  replayGrant := none
  images := []
  sections := []
  headers := []
  segments := []
  cdesc := []
  badSlots := []
  noticeSeq := none
  noticed := []

/-- A launch checked on its entry: it waits for its start, or completes at once with its refusal (R178). A block that is refused for itself, or that names no partition, has nothing of its container read. -/
def State.enterLaunch (s : State) (l : Launch) : State :=
  let n := SMap.fresh s.launches
  let r := s.checkLaunch l
  let s := if l.badBlock || decide (128 ≤ l.part) then s else s.readRuns l (State.checkRuns r.2)
  if r.1 = 0 then { s with launches := SMap.put s.launches n r.2 }.kickLaunches
  else (s.finishLaunch n r.2 (BitVec.ofNat 8 r.1) true).afterLaunch l.part

/-- LAUNCH_BLOCK_FETCH (R464): one block is fetched past the read cache, HEAD moves on, and the block is checked. -/
def execLaunchBlockFetch (queue : Nat) (s : State) : Host.Outcome State Fault Refusal :=
  let e := s.queueEntry queue
  if !e.valid || e.head == e.tail then .next s
  else
    let block := Memory.readBytes s.mem (hostKey (e.base + 128 * (e.head % 2 ^ e.log2n))) 128
    let part := ((s.parts.find? (fun p => p.2.valid && p.2.pid == e.pid && p.2.vf == e.vf)).map Prod.fst).getD 128
    s.admitted part (.launchBlockFetch queue) fun s =>
      let s := (s.setQueue queue (e.head + 1) e.tail).enterLaunch (Launch.fresh block part e.vf queue false)
      .next (if (e.head + 1) % 2 ^ 32 = e.tail then s else s.postFetch queue)

/-- The virtual function whose partitions run in time-sliced mode, as the switch to it found it in the quantum table (R430, R431). -/
def State.activeVf (s : State) : Option Nat := s.slice.vf

/-- Whether a waiting launch may start (R179, R197, R430, R460): its turn in its queue, ready and free super-groups, a free context, and a partition that runs. -/
def State.mayStart (s : State) (n : Nat) (l : Launch) : Bool :=
  let gs := s.groupsOf l
  let p := s.partition l.part
  s.launches.all (fun e => !(decide (e.1 < n) && e.2.queue == l.queue && e.2.stage == .waiting)) &&
    gs.all (fun g => (s.reg (if g < 64 then 0 else 8)).getLsbD (g % 64)) &&
    s.launches.all (fun e => !s.runs e.2 || (s.groupsOf e.2).all (fun g => !gs.contains g)) &&
    decide ((s.launches.filter (fun e => s.runs e.2)).length < 16) &&
    (match p.stop with | .none => true | _ => false) && !p.resetting && !p.saved &&
    s.partitions.all (fun e => e.2.scrubs.all (fun g => !gs.contains g)) &&
    (!s.slice.on || (s.slice.stage == .none && s.activeVf == some l.vf))

/-- The records that open the log of a recording launch: the header, the block, the rung in force, and the grant that its start applied, with a stamp of all ones (R450, R451, R455; log 35). -/
def State.logLaunch (s : State) (n : Nat) (l : Launch) : State :=
  if l.flag 1 && !l.replay then
    let s := s.logOpen l.part
    let s := s.logFor n (traceRecord 0x10 0xFFFF_FFFF 0 s.tick [] ++ l.block)
    let s := if l.flag 2 then s.logFor n (traceRecord 0x14 0xFFFF_FFFF 0 s.tick (bytesOf 4 l.rung ++ bytesOf 4 l.frac.toNat)) else s
    let data := s.chameleon.notice
    s.logFor n (traceRecord 0x13 0xFFFF_FFFF 0 s.tick (bytesOf 8 (noticeMessage data).head.toNat ++ bytesOf 8 data.toNat ++ noStamp))
  else s

/-- The logged grant that a replay applies at its start, by log slot: the one that the recorded launch's own start applied, the first with a stamp of all ones. A later one came at no release, so that a replay has no place for it and diverges (R364, R451, R453 to R455; log 35). -/
def State.startGrant (s : State) (l : Launch) : Option Nat :=
  if l.replay then
    (s.logSlots l.part).find? (fun i => s.logField l.part i 0 1 = 0x13 && s.logField l.part i 40 8 = 2 ^ 64 - 1)
  else none

/-- LAUNCH_START (R179, R180, R363, R365): its segments are installed, a grant is searched and taken, and its wake message enters at the host port of die 0. -/
def execLaunchStart (launch : Nat) (s : State) : Host.Outcome State Fault Refusal :=
  match SMap.find s.launches launch with
  | none => .next s
  | some l =>
    if l.stage != .waiting || !s.mayStart launch l then .next s
    else
      let g := s.startGrant l
      let l := { l with
        stage := .started, startedAt := s.now, replayed := l.replayed ++ g.toList
        replayGrant := g.map (fun i => BitVec.ofNat 64 (s.logField l.part i 32 8)) }
      let s := { s with launches := SMap.put s.launches launch l }
      let s := if l.flag 3 then State.kickRing { s with ring := { s.ring with segs := SMap.put s.ring.segs l.part l.segments } } else s
      let s := (s.search 1 (some launch)).takeAtEdge l.part noStamp
      let s := s.logLaunch launch l
      let host := routerOfHost 0
      .next ((s.inject (s.netEdgeAfter s.now) host.1 host.2 (packetOf (.wake launch) 3 128 0xFF host)).kickLaunches)

/-! ### Wake and loading (R180 to R182, R37) -/

/-- Bytes of a run of addresses taken back to what unwritten memory reads as. -/
def State.zeroRun (s : State) (key n : Nat) : State :=
  { s with
    mem := s.mem.filter (fun e => !(decide (key ≤ e.1) && decide (e.1 < key + n)))
    badWords := s.badWords.filter (fun w => !(decide (key ≤ w) && decide (w < key + n))) }

/-- The walker of a core at launch (R187). -/
def State.freshWalker (s : State) (l : Launch) (n : Nat) : Walker :=
  let set := s.walkerSet l
  let w := { Walker.empty with count := set.length }
  if set.contains n then
    let r := set.findIdx (· = n)
    { w with rank := some r, next := r * l.chunk }
  else w

/-- PART at launch (R184). -/
def State.partReg (s : State) (part n : Nat) : Word :=
  let e := s.part part
  BitVec.ofNat 64 (e.pid.toNat * 2 ^ 48 + e.cores * 2 ^ 32 + (e.rankOf n).getD 0)

/-- A notice that a replay delivers to a core: k15, the message, GRANT, and the grant event where it is enabled (R367, R453). -/
def State.replayNotice (s : State) (n : Nat) (data : Word) : State :=
  let s := s.bumpCounter n 15
  let s := s.sendMail (routerOfHost 0).1 (routerOfHost 0).2 chameleonSender n 0xFF (noticeMessage data)
  let c := s.core n
  let irq := if c.gie then some ((c.grantIrq.map (·.1)).getD s.now, bitsOf data 63 48) else c.grantIrq
  s.setCore n { c with grantReplay := some data, grantIrq := irq }

/-- The role of a core of a launch. -/
def State.roleOfCore (s : State) (l : Launch) (n : Nat) : Nat :=
  match (s.part l.part).rankOf n with
  | some r => ((l.roles.find? (fun e => e.1 = r)).map Prod.snd).getD 0
  | none => 0

/-- Step 1 of R181: a core's state is cleared, and so is its slice beyond the image (R37); GRANT.PEND comes from the grant (R359), and messages that wait for the emptied inbox may enter (R268). -/
def State.wakeCore (s : State) (launch : Nat) (l : Launch) (n : Nat) : State :=
  let p := s.partition l.part
  let vec : Grid := ⟨p.vecBase, periodOf p.vec⟩
  let c := { Core.unlisted n with
    part := s.partReg l.part n
    clock := ⟨s.now, 0, 0, 0, vec, vec, true⟩
    grantPend := !l.replay && l.noticeSeq == some s.chameleon.seq && !(s.chameleon.settled && p.grantSeq == s.chameleon.seq)
    ready := s.now
    run := .booting
    launch := some launch
    walker := s.freshWalker l n
    grantReplay := l.replayGrant }
  let s := s.setCore n c
  let s :=
    match l.header (s.roleOfCore l n) with
    | some h => s.zeroRun (sliceKey n h.size) (262144 - h.size)
    | none => s
  s.mail.foldl (fun t e => if e.2.core = n && e.2.waits then t.postCore t.now n (.inboxMessageArrival e.1) else t) s

/-- The state of a pod's engines, banks, contexts and copy unit cleared for a launch, with what the units still hold to send (R297, R307, R317, R346). -/
def State.clearPod (s : State) (pod : Nat) : State :=
  let s := s.zeroRun (bankKey pod 0 0) (32 * 4096)
  { s with
    matrices := SMap.erase s.matrices pod
    copyUnits := SMap.erase s.copyUnits pod
    nvme := s.nvme.filter (fun c => c.pod != pod)
    mail := s.mail.filter (fun e => !(e.2.waits && (e.2.sender = copySender pod || e.2.sender = matrixSender pod)))
    ring := { s.ring with ctxs := s.ring.ctxs.filter (fun e => e.1 / 16 != pod) } }

/-- The cores of a super-group that a launch runs in one role, in dense order (R84). -/
def State.treeOf (s : State) (l : Launch) (group role : Nat) : List Nat :=
  (s.rangeCores l).filter (fun n => n / 64 = group && (match (s.part l.part).rankOf n with | some r => l.roles.contains (r, role) | none => false))

/-- An image's way to a core posted, whose time the spec leaves open (log 21). -/
def State.postImage (s : State) (launch n : Nat) : State :=
  let f := s.takeFree
  f.2.postCore (s.netEdgeAfter s.now + Config.latency f.1 * s.netPeriod) n (.bootImageArrival launch n)

/-- A super-group that holds cores of the range is woken (R180 to R182, R198). -/
def State.wakeGroup (s : State) (launch : Nat) (l : Launch) (group : Nat) : State :=
  let cores := (s.rangeCores l).filter (fun n => n / 64 = group)
  if cores.isEmpty then s
  else
    let s := ((cores.map (· / 8)).eraseDups).foldl State.clearPod s
    let s := cores.foldl (fun t n => t.wakeCore launch l n) s
    let s := s.postCore (s.netEdgeAfter s.now) 0 (.chorusStart launch 0 group)
    let roles := (cores.map (s.roleOfCore l)).eraseDups
    roles.foldl (fun t r => match (t.treeOf l group r).head? with | some n => t.postImage launch n | none => t) s

/-- Whether a Chorus unit of a launch has started (R198). -/
def State.chorusOn (s : State) (launch level unit : Nat) : Bool := (s.unitOf launch level unit).started

/-- WAKE_MESSAGE (R180, R198): a router has the message, whose copies the mesh carries on, and hands it to its super-group; the first router of the package and of a die wakes the Chorus units of that level. -/
def execWakeMessage (launch router : Nat) (s : State) : Host.Outcome State Fault Refusal :=
  if 128 ≤ router then .fault .noSuchUnit
  else
    match SMap.find s.launches launch with
    | none => .next s
    | some l =>
      if l.stage != .started || (s.rangeCores l).any (fun n => n / 64 = router && s.inLaunch launch n) then .next s
      else
        let edge := s.netEdgeAfter s.now
        let s := if s.chorusOn launch 2 0 then s else s.postOnce edge 0 (.chorusStart launch 2 0)
        let s := if s.chorusOn launch 1 (router / 16) then s else s.postOnce edge 0 (.chorusStart launch 1 (router / 16))
        .next (s.wakeGroup launch l router)

/-- The image of a role as its container holds it, in lines of 64 bytes; a line that cannot be read is zeros (log 55). -/
def State.containerImage (s : State) (l : Launch) (h : RoleHeader) : List Byte :=
  (List.range (h.size / 64)).flatMap (fun i => bytesOf 64 ((s.container l (h.image + 64 * i) 64).getD 0))

/-- The lines of memory that hold the image of a role. -/
def imageRuns (l : Launch) (h : RoleHeader) : List (Word × Nat) := (List.range (h.size / 64)).map (fun i => (BitVec.ofNat 64 (l.field 16 8 + (h.image + 64 * i)), 64))

/-- A role image put into a core's slice: position 0 of its tree reads the container, and the others take what their tree forwards (R182). -/
def State.loadImage (s : State) (launch : Nat) (l : Launch) (h : RoleHeader) (n : Nat) (first : Bool) : State :=
  let k := 128 * s.roleOfCore l n + n / 64
  let bytes := if first then s.containerImage l h else SMap.get (fun _ => []) l.images k
  let s := if first then s.readRuns l (imageRuns l h) else s
  let s := { s with launches := SMap.put s.launches launch { l with images := SMap.put l.images k bytes } }
  let s := { s with mem := Memory.writeBytes s.mem (sliceKey n 0) bytes }
  s.healWords (sliceKey n 0) bytes.length

/-- Whether a core that holds its image has also forwarded it (R181, R182). -/
def State.forwarded (s : State) (launch : Nat) (kids : List Nat) : Bool :=
  kids.all (fun k => !s.inLaunch launch k || (s.core k).run != .booting)

/-- The children of a core in its boot tree (R84). -/
def State.childrenOf (s : State) (l : Launch) (n : Nat) : List Nat :=
  let role := s.roleOfCore l n
  let tree := s.treeOf l (n / 64) role
  let p := tree.findIdx (· = n)
  let f := ((l.header role).map (·.fanout)).getD 1
  (List.range f).filterMap (fun i => tree[f * p + 1 + i]?)

/-- The parent of a core in its boot tree (R84). -/
def State.parentOf (s : State) (l : Launch) (n : Nat) : Option Nat :=
  let role := s.roleOfCore l n
  let tree := s.treeOf l (n / 64) role
  let p := tree.findIdx (· = n)
  if p = 0 then none else tree[(p - 1) / ((l.header role).map (·.fanout)).getD 1]?

/-- BOOT_IMAGE_ARRIVAL (R182): a core holds its whole image and forwards it; when its children hold theirs, it may start. -/
def execBootImageArrival (launch core : Nat) (s : State) : Host.Outcome State Fault Refusal :=
  match SMap.find s.launches launch with
  | none => .next s
  | some l =>
    match l.header (s.roleOfCore l core) with
    | none => .next s
    | some h =>
      if !s.inLaunch launch core || (s.core core).run != .booting then .next s
      else s.admitted l.part (.bootImageArrival launch core) fun s =>
        let s := s.loadImage launch l h core (s.parentOf l core).isNone
        let s := s.setCore core { s.core core with run := .ready }
        let kids := s.childrenOf l core
        let s := kids.foldl (fun t k => t.postImage launch k) s
        let s := if kids.isEmpty then s.postCore s.now core .coreStart else s
        match s.parentOf l core with
        | some p => .next (if s.forwarded launch (s.childrenOf l p) then s.postCore s.now p .coreStart else s)
        | none => .next s

/-- CORE_START (R181, step 3): TVEC, WSTK and RASB come from the role header, PC is ENTRY, and the core in turn issues. -/
def execCoreStart (s : State) : Host.Outcome State Fault Refusal :=
  let n := s.cur
  let c := s.core n
  match s.launchOf n with
  | none => .next s
  | some (launch, l) =>
    match l.header (s.roleOfCore l n) with
    | none => .next s
    | some h =>
      if c.run != .ready || !s.forwarded launch (s.childrenOf l n) then .next s
      else
        let c := { c with
          tvec := BitVec.ofNat 64 h.tvec &&& 0x3_FFC0
          wstk := BitVec.ofNat 64 h.wstk &&& 0x3_FFF8
          rasb := BitVec.ofNat 64 h.rasb &&& 0x3_FFF8
          pc := h.entry
          run := .running
          ready := c.clock.pipe.ceil s.now }
        .next ((s.setCore n c).enterLine n h.entry)

end Sys2Proof.Machine
end

