-- ==== Sys2Proof/Machine/Chorus.lean ====
section
/-! DEFINITION. Chorus barriers: streams and their sequencers, firing, reports, releases, WAIT and its withdrawal, orphans and watchdogs (R197 to R213, R216, R224, R402, R403, R451 to R453). -/

namespace Sys2Proof.Machine

/-! ### Records (R199 to R201) -/

/-- A launch's partition is stopped, so that its Chorus units stand still (R404). -/
def State.frozen (s : State) (l : Launch) : Bool := match (s.partition l.part).stop with | .stopped _ _ _ => true | _ => false

/-- Whether a die holds a core of a launch's range. -/
def State.dieInRange (s : State) (l : Launch) (d : Nat) : Bool := (s.groupsOf l).any (fun g => g / 16 = d)

/-- A mask record names only what lies in the range (R201). -/
def State.goodMembers (s : State) (l : Launch) (level unit mask : Nat) : Bool :=
  let bits (n : Nat) (ok : Nat → Bool) : Bool := (List.range n).all (fun i => !mask.testBit i || ok i)
  match level with
  | 0 => bits 64 (fun i => l.inRange (64 * unit + i))
  | 1 => decide (mask < 2 ^ 16) && s.dieInRange l unit && bits 16 (fun i => (s.groupsOf l).contains (16 * unit + i))
  | _ => decide (mask < 2 ^ 8) && bits 8 (s.dieInRange l)

/-- A mask record is well formed (R199, R201). -/
def State.goodMask (s : State) (l : Launch) (r : Nat) : Bool :=
  let level := natBits r 73 72
  let unit := natBits r 71 64
  let mask := natBits r 63 0
  let up := r.testBit 80
  natBits r 119 84 == 0 && natBits r 79 74 == 0 && level != 3 &&
    decide (unit < (match level with | 0 => 128 | 1 => 8 | _ => 1)) && mask != 0 && s.goodMembers l level unit mask &&
    !(up && level == 2) && !(up && natBits r 83 81 != 0) && !(r.testBit 81 && level == 2)

/-- The chorus-stream section of a launch: its offset and its size (R198). -/
def Launch.stream (l : Launch) : Nat × Nat := (l.sectionOf (l.field 64 2) 4).getD (0, 0)

/-- A record of a launch's stream; none past the section's end, or where the read fails. A sequencer stops at a record that it cannot read as at a malformed one: the spec does not say what a failed read of the stream does (DESIGN CHOICE, log 55). -/
def State.streamRecord (s : State) (l : Launch) (i : Nat) : Option Nat :=
  if l.stream.2 < 16 * (i + 1) then none else s.container l (l.stream.1 + 16 * i) 16

/-- A REPEAT record is well formed where it stands (R200, R201). -/
def State.goodRepeat (s : State) (l : Launch) (c : Chorus) (r : Nat) : Bool :=
  let body := natBits r 75 64
  let last := c.pos + 1 + body
  let inside := match c.reps with | [] => true | x :: _ => decide (last ≤ x.first + x.len)
  natBits r 119 76 == 0 && natBits r 63 32 == 0 && body != 0 && decide (c.reps.length < 4) && inside && decide (16 * last ≤ l.stream.2) &&
    (List.range body).all (fun i => match s.streamRecord l (c.pos + 1 + i) with | some x => natBits x 127 120 != 3 | none => true)

/-- The sequencer's place once a record is behind it: a pass of a repeat body that has ended begins anew or leads on (R200). -/
def Chorus.normal : (fuel : Nat) → Chorus → Chorus
  | 0, c => c
  | fuel + 1, c =>
    match c.reps with
    | [] => c
    | x :: rest =>
      if c.pos < x.first + x.len then c
      else
        match x.passes with
        | none => { c with pos := x.first }
        | some 0 => Chorus.normal fuel { c with reps := rest }
        | some (k + 1) => { c with pos := x.first, reps := { x with passes := some k } :: rest }

/-- The sequencer past the record it has read. -/
def Chorus.nextRecord (c : Chorus) : Chorus := Chorus.normal (c.reps.length + 1) { c with pos := c.pos + 1 }

/-- The physical unit a record's UNIT names in a partition (R199). -/
def PartEntry.unitAt (e : PartEntry) (level unit : Nat) : Option Nat := if level = 0 then e.list[unit]? else some unit

/-- The number that records give a physical unit (R199). -/
def PartEntry.unitNumber (e : PartEntry) (level unit : Nat) : Nat := if level = 0 then e.list.findIdx (· = unit) else unit

/-! ### Membership (R202, R204) -/

/-- Whether a core waits at WAIT, stopped there or not (R208, R407). -/
def Core.isWaiting (c : Core) : Bool :=
  match c.run with
  | .waiting _ | .stopped .waiting | .stopped .exchange => true
  | _ => false

/-- The cores of a level-0 mask, by flat number. -/
def ChorusMask.cores (m : ChorusMask) (group : Nat) : List Nat := ((List.range 64).filter (fun i => m.mask.getLsbD i)).map (fun i => 64 * group + i)

/-- The oldest mask of a level-0 buffer that contains a core (R202). -/
def Chorus.maskOf (c : Chorus) (core : Nat) : Option ChorusMask := c.buf.find? (fun m => m.mask.getLsbD (core % 64))

/-- The cores of a super-group that wait in a launch. -/
def State.waitersOf (s : State) (launch group : Nat) : List Nat :=
  ((List.range 64).map (64 * group + ·)).filter (fun n => s.inLaunch launch n && (s.core n).isWaiting)

/-- Whether a sender is a member of a mask of a higher level. -/
def ChorusMask.hasSender (m : ChorusMask) (sender : Nat) : Bool := m.mask.getLsbD (sender % 16)

/-- Reports assigned to no mask are given to the oldest masks that lack one of their sender (R204). -/
def Chorus.assign (c : Chorus) : Chorus :=
  c.loose.foldl (fun d r =>
    match d.buf.find? (fun m => m.hasSender r.1 && !m.reports.any (fun x => x.1 = r.1)) with
    | some m => { d with buf := d.buf.map (fun x => if x.idx = m.idx then { x with reports := x.reports ++ [r] } else x) }
    | none => { d with loose := d.loose ++ [r] }) { c with loose := [] }

/-- The watchdog of a unit counts while its buffer is full and a core or a report waits: every buffered mask is unfired until its release (R202, R211). -/
def State.watch (s : State) (launch : Nat) (l : Launch) (level unit : Nat) : State :=
  let c := s.unitOf launch level unit
  let some' := if level = 0 then !(s.waitersOf launch unit).isEmpty else !c.loose.isEmpty
  if c.buf.length == 64 && some' then
    match c.stuck with
    | some _ => s
    | none =>
      let limit := 2 ^ bitsOf (s.page l.part 0x10) 5 0
      (s.setUnit launch level unit { c with stuck := some s.now }).postCore (s.now + limit * tickUnits) 0 (.chorusWatchdog launch level unit)
  else s.setUnit launch level unit { c with stuck := none }

/-- A mask enters its unit's buffer (R198). It can fire on that same edge: the spec does not say whether a firing sees the mask fed on its edge (DESIGN CHOICE, log 13). -/
def State.feedMask (s : State) (launch : Nat) (l : Launch) (level unit : Nat) (m : ChorusMask) : State :=
  let c := s.unitOf launch level unit
  let c := { c with buf := c.buf ++ [m], hold := none }
  let c := if level = 0 then c else c.assign
  ((s.setUnit launch level unit c).postOnce s.now 0 (.maskFire launch level unit m.idx)).watch launch l level unit

/-! ### Sequencers (R198) -/

/-- A running launch and its number, if its units move. -/
def State.liveLaunch (s : State) (launch : Nat) : Option Launch :=
  match SMap.find s.launches launch with
  | some l => (match l.stage with | .started | .draining => if s.frozen l then none else some l | _ => none)
  | none => none

/-- CHORUS_START (R198): the unit clears its context and its sequencer begins; reports that have come already stay. -/
def execChorusStart (launch level unit : Nat) (s : State) : Host.Outcome State Fault Refusal :=
  match s.liveLaunch launch with
  | none => .next s
  | some _ =>
    let c := s.unitOf launch level unit
    if c.started then .next s
    else
      let s := s.setUnit launch level unit { Chorus.empty with started := true, incoming := c.incoming, loose := c.loose }
      .next (s.postCore (s.netEdgeAfter s.now) 0 (.chorusRecordRead launch level unit))

/-- The sequencer is done: with a qualifier of R210 and a stop point (R201). Cores and reports that belong to no mask are looked for on this edge (R210). -/
def State.endStream (s : State) (launch level unit : Nat) (qual : Byte) (point : Nat) : State :=
  let c := s.unitOf launch level unit
  ((s.setUnit launch level unit { c with done := some (qual, point) }).postOnce s.now 0 (.orphanWait launch level unit)).pokeUnit launch level unit

/-- The next record of a sequencer posted for the next network cycle. -/
def State.postRead (s : State) (launch level unit : Nat) : State := s.postOnce (s.netEdgeAfter s.now) 0 (.chorusRecordRead launch level unit)

/-- CHORUS_RECORD_READ (R198 to R201): one record is fed, passed over or expanded, or ends the stream. -/
def execChorusRecordRead (launch level unit : Nat) (s : State) : Host.Outcome State Fault Refusal :=
  match s.liveLaunch launch with
  | none => .next s
  | some l =>
    let c := s.unitOf launch level unit
    if !c.started || c.done.isSome then .next s
    else
      match c.hold with
      | some m => .next (if c.buf.length < 64 then (s.feedMask launch l level unit m).postRead launch level unit else s)
      | none =>
        let off := 16 * c.pos
        s.admitted l.part (.chorusRecordRead launch level unit) fun s =>
        let s := if l.stream.2 < off + 16 then s else s.readRuns l [(BitVec.ofNat 64 (l.field 16 8 + (l.stream.1 + off)), 16)]
        match s.streamRecord l c.pos with
        | none => .next (s.endStream launch level unit 2 (if l.stream.2 < off + 16 then l.stream.2 else off))
        | some r =>
          let malformed := s.endStream launch level unit 2 off
          match natBits r 127 120 with
          | 1 =>
            if !s.goodMask l r then .next malformed
            else
              let rl := natBits r 73 72
              let mine := decide (rl = level) && decide ((s.part l.part).unitAt rl (natBits r 71 64) = some unit)
              let m : ChorusMask := ⟨c.expanded, BitVec.ofNat 64 r, r.testBit 80, r.testBit 81, r.testBit 82, r.testBit 83, .unfired, []⟩
              let d := { c with expanded := c.expanded + 1 }.nextRecord
              if !mine then .next ((s.setUnit launch level unit d).postRead launch level unit)
              else if d.buf.length < 64 then
                .next (((s.setUnit launch level unit d).feedMask launch l level unit m).postRead launch level unit)
              else .next (s.setUnit launch level unit { d with hold := some m })
          | 2 =>
            if !s.goodRepeat l c r then .next malformed
            else
              let count := natBits r 31 0
              let x : ChorusRep := ⟨c.pos + 1, natBits r 75 64, if count = 0 then none else some (count - 1)⟩
              .next ((s.setUnit launch level unit { c with pos := c.pos + 1, reps := x :: c.reps }).postRead launch level unit)
          | 3 => .next (if natBits r 119 0 = 0 then s.endStream launch level unit 0 off else malformed)
          | _ => .next malformed

/-! ### Paths (R204, R205) -/

/-- A mask of a unit by its index. -/
def State.maskAt (s : State) (launch level unit idx : Nat) : Option ChorusMask := (s.unitOf launch level unit).buf.find? (fun m => m.idx = idx)

/-- A mask on a path, by its level, unit and index. -/
structure PathMask where
  level : Nat
  unit : Nat
  mask : ChorusMask
  deriving DecidableEq, Repr

/-- A mask and every mask whose reports led to it (R205). -/
def State.pathOf (s : State) (launch : Nat) : (level unit idx : Nat) → List PathMask
  | 0, unit, idx => (match s.maskAt launch 0 unit idx with | some m => [⟨0, unit, m⟩] | none => [])
  | level + 1, unit, idx =>
    match s.maskAt launch (level + 1) unit idx with
    | some m => ⟨level + 1, unit, m⟩ :: m.reports.flatMap (fun r => s.pathOf launch level r.1 r.2)
    | none => []

/-- The cores of a path: the members of its level-0 masks, in rising flat order. -/
def pathCores (ps : List PathMask) : List Nat := (ps.filter (fun p => p.level = 0)).flatMap (fun p => p.mask.cores p.unit)

/-- The masks of a path leave their buffers, whose watchdogs start anew, and their sequencers may feed on (R198, R205, R211). A mask that waited for a free entry is fed one network cycle after the edge that frees it: the spec does not say whether that edge itself feeds it (DESIGN CHOICE, log 13). -/
def State.freePath (s : State) (launch : Nat) (ps : List PathMask) : State :=
  ps.foldl (fun t p =>
    let c := t.unitOf launch p.level p.unit
    let t := t.setUnit launch p.level p.unit { c with buf := c.buf.filter (fun m => m.idx != p.mask.idx), stuck := none }
    let t := if c.hold.isSome then t.postRead launch p.level p.unit else t
    t.pokeUnit launch p.level p.unit) s

/-- Cores that wait take a fault at their WAIT (R210 to R212); one whose partition is stopped stands then at its handler (R404; log 52). -/
def State.raiseWaiters (s : State) (cores : List Nat) (r : Raise) : State :=
  cores.foldl (fun t n =>
    if (t.core n).isWaiting then
      let stands := match t.launchOf n with | some (_, l) => t.frozen l | none => false
      let u := t.raiseAt n ((t.core n).clock.vec.ceil t.now) r
      if stands && (u.core n).run == .running then u.setCore n { u.core n with run := .stopped .boundary } else u
    else t) s

/-! ### Firing and reports (R203, R204) -/

/-- Whether an unfired mask can fire: every member waits and belongs to it, or has a report assigned to it (R203, R204, R212). -/
def State.canFire (s : State) (launch level unit : Nat) (m : ChorusMask) : Bool :=
  let c := s.unitOf launch level unit
  m.stage == .unfired &&
    (if level = 0 then
      (m.cores unit).all (fun n =>
        s.inLaunch launch n && ((s.core n).retired || ((s.core n).isWaiting && (match c.maskOf n with | some x => x.idx == m.idx | none => false))))
    else
      (List.range 16).all (fun i => !m.mask.getLsbD i || m.reports.any (fun r => r.1 % 16 = i)))

/-- The flags of a mask in the order of bits [83:80] (R446). -/
def ChorusMask.flags (m : ChorusMask) : Nat :=
  (if m.up then 1 else 0) + (if m.exch then 2 else 0) + (if m.yields then 4 else 0) + (if m.ratio then 8 else 0)

/-- The trace record of a firing (R446). -/
def State.fireTrace (s : State) (launch : Nat) (l : Launch) (level unit : Nat) (m : ChorusMask) : State :=
  if s.traces l.part 2 then
    let live := (pathCores (s.pathOf launch level unit m.idx)).filter (fun n => !(s.core n).retired)
    let no := (s.part l.part).unitNumber level unit
    let payload := bytesOf 8 m.mask.toNat ++ bytesOf 1 level ++ bytesOf 1 no ++ bytesOf 1 m.flags ++ bytesOf 1 0 ++ bytesOf 4 m.idx
    let first := live.foldl (fun (a : Option Nat) n => match a with | some x => some (min x n) | none => some n) none
    match first with
    | some n => s.trace l.part none (traceRecord 0x05 (s.core n).rank ((s.core n).ssc + 1) s.tick payload)
    | none => s.trace l.part none (traceRecord 0x05 0xFFFF_FFFF 0 s.tick payload)
  else s

/-- The delay of a release by the level of the releasing mask (R205). -/
def releaseDelay (level : Nat) : Nat := match level with | 0 => 2 | 1 => 12 | _ => 40

/-- The network cycles that contention adds to a report, and the machine that goes on: none while no packet is in the mesh, and else a number that the spec leaves open (R204, R238; log 13). -/
def State.reportDelay (s : State) : Nat × State :=
  if s.packets.isEmpty then (0, s)
  else
    let f := s.takeFree
    (Config.latency f.1, f.2)

/-- A mask fires now: it reports upward, or its release is on its way (R203 to R205). -/
def State.fireMask (s : State) (launch : Nat) (l : Launch) (level unit : Nat) (m : ChorusMask) : State :=
  let set (s : State) (x : MaskStage) : State :=
    let c := s.unitOf launch level unit
    s.setUnit launch level unit { c with buf := c.buf.map (fun y => if y.idx = m.idx then { y with stage := x } else y), stuck := none }
  let s :=
    if m.up then
      let up := if level = 0 then unit / 16 else 0
      let s := set s .reported
      let c := s.unitOf launch (level + 1) up
      let d := s.reportDelay
      (d.2.setUnit launch (level + 1) up { c with incoming := c.incoming ++ [(unit, m.idx)] }).postCore
        (s.now + ((if level = 0 then 4 else 16) + d.1) * s.netPeriod) 0 (.chorusReportArrival launch (level + 1) up unit)
    else
      let s := (set s .firing).fireTrace launch l level unit m
      let id := s.nextId
      State.postCore { s with releases := SMap.put s.releases id ⟨launch, level, unit, m.idx⟩, nextId := id + 1 } (s.now + releaseDelay level * s.netPeriod) 0 (.chorusRelease id)
  s.watch launch l level unit

/-- MASK_FIRE (R203): at a network edge, an unfired mask all of whose members wait and belong to it fires. -/
def execMaskFire (launch level unit idx : Nat) (s : State) : Host.Outcome State Fault Refusal :=
  match s.liveLaunch launch, s.maskAt launch level unit idx with
  | some l, some m => if s.canFire launch level unit m then .next (s.fireMask launch l level unit m) else .next s
  | _, _ => .next s

/-- CHORUS_REPORT_ARRIVAL (R204): the oldest report of a sender on its way arrives, and is assigned to a mask if one is there; the units of a stopped partition do no more (R404). -/
def execChorusReportArrival (launch level unit sender : Nat) (s : State) : Host.Outcome State Fault Refusal :=
  let c := s.unitOf launch level unit
  match c.incoming.find? (fun r => r.1 = sender) with
  | none => .next s
  | some r =>
    let c := { c with incoming := c.incoming.eraseP (fun x => x.1 = sender), loose := c.loose ++ [r] }.assign
    let s := s.setUnit launch level unit c
    match s.liveLaunch launch with
    | none => .next s
    | some l =>
      let s := c.buf.foldl (fun (t : State) m => if m.stage = .unfired ∧ m.hasSender sender = true then t.postOnce t.now 0 (.maskFire launch level unit m.idx) else t) s
      .next ((s.postOnce s.now 0 (.orphanWait launch level unit)).watch launch l level unit)

/-! ### Releases (R205 to R207, R212, R403) -/

/-- Whether a stop of a partition is pending (R403). -/
def State.stopPending (s : State) (part : Nat) : Bool := match (s.partition part).stop with | .requested _ _ => true | _ => false

/-- A core enters an exchange phase at an edge (R216, R220): its slots are cleared but for words that arrive on that edge, and it runs on the network clock. -/
def State.openPhase (s : State) (n edge : Nat) : State :=
  let c := s.core n
  let c := c.setClocks edge c.clock.vec s.net
  s.setCore n { c with
    stat := statSet c.stat 7 true
    slots := c.slots.map (fun x => if x.arrival = edge then x else XSlot.empty)
    phase := some edge
    ready := edge
    waited := 0
    delay := 0 }

/-- A core is released at an edge (R206, R207, R403): SSC counts up and PC goes past its WAIT; it enters a phase, is parked, or goes on. A release that reaches a stopped partition parks its cores, whose loop-back faults stand at their handlers (R404; log 52). -/
def State.releaseCore (s : State) (n : Nat) (m : ChorusMask) (park stands : Bool) : State :=
  let c := s.core n
  if !c.isWaiting then s
  else
    let s := (s.setCore n { c with ssc := c.ssc + 1, run := .running }).complete n s.now (s.lastHead n)
    let c := s.core n
    if c.hm then (if stands && c.run == .running then s.setCore n { c with run := .stopped .boundary } else s)
    else
      let s := s.setCore n { c with ready := c.clock.vec.ceil s.now, waited := 0 }
      if (park && m.yields) || stands then s.setCore n { s.core n with run := .stopped (.parked m.exch) }
      else if m.exch then s.openPhase n s.now
      else s

/-- Logged inputs of a replay that a release's stamp applies: window writes and grant notices (R453). -/
def State.replayStamp (s : State) (launch : Nat) (l : Launch) (level unitNo idx : Nat) : State :=
  if !l.replay then s
  else
    let hits := (s.logSlots l.part).filter (fun i =>
      [0x11, 0x13].contains (s.logField l.part i 0 1) && !l.replayed.contains i && s.logField l.part i 40 1 = level &&
        s.logField l.part i 41 1 = unitNo && s.logField l.part i 44 4 = idx)
    hits.foldl (fun t i =>
      let t := t.logUse launch i
      if t.logField l.part i 0 1 = 0x11 then
        let place := t.logField l.part i 24 4
        t.windowStore (place / 2 ^ 20) (place % 2 ^ 20) (BitVec.ofNat 8 (t.logField l.part i 28 1)) (BitVec.ofNat 64 (t.logField l.part i 32 8))
      else (t.rangeCores l).foldl (fun u n => u.replayNotice n (BitVec.ofNat 64 (t.logField l.part i 32 8))) t) s

/-- A deterministic launch lets go of the window writes it holds at a YIELD release (R451, R452). -/
def State.yieldWrites (s : State) (launch : Nat) (l : Launch) (stamp : List Byte) (ssc : Word) : State :=
  if l.replay then s else s.releaseWrites launch false stamp ssc

/-- CHORUS_RELEASE (R205 to R207, R212): every core of the paths resumes on this edge, and their masks are freed; a broken path ends in 0x1C. RATIO acts either way. -/
def execChorusRelease (release : Nat) (s : State) : Host.Outcome State Fault Refusal :=
  match SMap.find s.releases release with
  | none => .next s
  | some r =>
    let s := { s with releases := SMap.erase s.releases release }
    match SMap.find s.launches r.launch, s.maskAt r.launch r.level r.unit r.idx with
    | some l, some m =>
      let ps := s.pathOf r.launch r.level r.unit r.idx
      let cores := pathCores ps
      let ranks := (cores.filter (fun n => (s.core n).run == .doubleFaulted)).map (fun n => (s.core n).rank)
      let no := (s.part l.part).unitNumber r.level r.unit
      let stamp := stampBytes r.level no r.idx
      let lowest := cores.foldl (fun (a : Option Nat) n => if (s.core n).retired then a else match a with | some x => some (min x n) | none => some n) none
      let ssc := match lowest with | some n => (s.core n).ssc | none => 0
      let s := s.freePath r.launch ps
      let s := if m.ratio then s.takeAtEdge l.part stamp else s
      match ranks with
      | k :: ks => .next ((s.raiseWaiters cores ⟨0x1C, 0x01, BitVec.ofNat 64 (ks.foldl min k)⟩).replayStamp r.launch l r.level no r.idx)
      | [] =>
        let s := cores.foldl (fun t n => t.releaseCore n m (t.stopPending l.part) (t.frozen l)) s
        let s := if m.yields then s.yieldWrites r.launch l stamp ssc else s
        .next (s.replayStamp r.launch l r.level no r.idx)
    | _, _ => .next s

/-! ### Orphans and watchdogs (R210, R211) -/

/-- The reports of a unit that belong to no mask fail: every member of their paths takes a fault, and the reporting masks are freed (R210, R211). -/
def State.failReports (s : State) (launch level unit : Nat) (r : Raise) : State :=
  let c := s.unitOf launch level unit
  let s := s.setUnit launch level unit { c with loose := [], stuck := none }
  c.loose.foldl (fun t e =>
    let ps := t.pathOf launch (level - 1) e.1 e.2
    (t.freePath launch ps).raiseWaiters (pathCores ps) r) s

/-- Waiting cores of a unit that belong to no mask (R202). -/
def State.strays (s : State) (launch unit : Nat) : List Nat :=
  (s.waitersOf launch unit).filter (fun n => ((s.unitOf launch 0 unit).maskOf n).isNone)

/-- ORPHAN_WAIT (R210): once the sequencer is done, cores and reports that belong to no mask fault. The unit's watchdog is looked at too (R211). -/
def execOrphanWait (launch level unit : Nat) (s : State) : Host.Outcome State Fault Refusal :=
  match s.liveLaunch launch with
  | none => .next s
  | some l =>
    let c := s.unitOf launch level unit
    let s :=
      match c.done with
      | some (q, point) =>
        if level = 0 then s.raiseWaiters (s.strays launch unit) ⟨0x11, q, BitVec.ofNat 64 point⟩
        else s.failReports launch level unit ⟨0x11, if q = 0 then 1 else q, BitVec.ofNat 64 point⟩
      | none => s
    .next (s.watch launch l level unit)

/-- CHORUS_WATCHDOG (R211): the count is held to the limit as it stands now. -/
def execChorusWatchdog (launch level unit : Nat) (s : State) : Host.Outcome State Fault Refusal :=
  match s.liveLaunch launch with
  | none => .next s
  | some l =>
    let c := s.unitOf launch level unit
    let limit := 2 ^ bitsOf (s.page l.part 0x10) 5 0
    match c.stuck with
    | some t =>
      if s.now < t + limit * tickUnits then .next (s.postOnce (t + limit * tickUnits) 0 (.chorusWatchdog launch level unit))
      else
        let s := s.setUnit launch level unit { c with stuck := none }
        let r : Raise := ⟨0x1C, 0x00, 0⟩
        let s := if level = 0 then s.raiseWaiters (s.strays launch unit) r else s.failReports launch level unit r
        .next (s.watch launch l level unit)
    | none => .next s

/-! ### WAIT (R208, R209, R224) -/

/-- WAIT (R208, R224): a drain point, after which the core waits and is a member; in exchange mode it ends the phase. -/
def execWait (s : State) : Host.Outcome State Fault Refusal :=
  issue { sigZ 0x011 Core.hm with waitsAll := true } noOpnd s fun _ s =>
    let n := s.cur
    let s := s.drainPoint
    let stop := s.cc.xm && s.forcedStop n
    let c := s.cc.leaveExchange s.now
    let s := s.setCc { c with run := if stop then .stopped .exchange else .waiting false, charged := true }
    .own (match c.launch with | some l => s.pokeUnit l 0 (n / 64) | none => s)

/-- WAIT_WITHDRAWAL (R209): a core whose mask has not fired by this edge, this edge's firing included, stops waiting and is no member any more; it stands at its WAIT again, before which it then takes the interrupt that is pending. -/
def execWaitWithdrawal (s : State) : Host.Outcome State Fault Refusal :=
  let n := s.cur
  let c := s.core n
  match c.run with
  | .waiting true =>
    let s :=
      match c.launch with
      | some ln =>
        match s.liveLaunch ln, (s.unitOf ln 0 (n / 64)).maskOf n with
        | some l, some m => if s.canFire ln 0 (n / 64) m then s.fireMask ln l 0 (n / 64) m else s
        | _, _ => s
      | none => s
    let fired : Bool := match c.launch with
      | some ln => (match (s.unitOf ln 0 (n / 64)).maskOf n with | some m => m.stage != .unfired | none => false)
      | none => false
    if fired then .next s
    else
      let s := s.setCore n { s.core n with run := .running }
      match c.launch with
      | some ln => (match s.liveLaunch ln with | some l => .next (s.watch ln l 0 (n / 64)) | none => .next s)
      | none => .next s
  | _ => .next s

end Sys2Proof.Machine
end

