-- ==== Sys2Proof/Machine/Stops.lean ====
section
/-! DEFINITION. Stops of a partition, debug commands and resumption (R403 to R409, R411, R435, R436, R443). -/

namespace Sys2Proof.Machine

/-! ### What a stop waits for (R404) -/

/-- The launches of a partition that have started and are not complete, with their numbers: running ones, or those of a saved partition. -/
def State.startedOf (s : State) (part : Nat) : List (Nat × Launch) :=
  s.launches.filter (fun e => e.2.part = part && (match e.2.stage with | .started | .draining => true | _ => false))

/-- The running launches of a partition, with their numbers. -/
def State.launchesOf (s : State) (part : Nat) : List (Nat × Launch) := s.launches.filter (fun e => e.2.part = part && s.runs e.2)

/-- The cores of the running launches of a partition. -/
def State.runningCores (s : State) (part : Nat) : List Nat :=
  (s.launchesOf part).flatMap (fun e => (s.rangeCores e.2).filter (s.inLaunch e.1))

/-- A core that a stop need not wait for: stopped or retired (R404). -/
def Core.atRest (c : Core) : Bool :=
  match c.run with
  | .stopped _ | .halted | .doubleFaulted => true
  | _ => false

/-- A copy job that does not hold up a stop: its completion waits in the buffer, or it is a reduce job that waits for its turn (R404). -/
def State.jobWaits (s : State) (j : CopyJob) : Bool :=
  match j.stage with
  | .posting _ => true
  | .queued =>
    if j.order.form = 3 then (match s.copyRegion j.order with | some g => decide (0 < s.seqAhead j.order g) && decide (s.seqAhead j.order g < 32768) | none => false)
    else false
  | .active => false

/-- What R434 does not let a save leave out: words, messages, reports and releases on their way to cores and units of a partition's ranges (log 52). -/
def State.inTransit (s : State) (cores launches : List Nat) : Bool :=
  s.mail.any (fun e => cores.contains e.2.core && !e.2.waits) ||
    s.xwords.any (fun e => cores.contains e.2.target) ||
    s.releases.any (fun e => launches.contains e.2.launch) ||
    s.chorus.any (fun e => launches.contains (e.1 / 1024) && !e.2.incoming.isEmpty)

/-- Everything R404 waits for in a partition: of the messages on their way, the completions alone. -/
def State.partitionRests (s : State) (part : Nat) : Bool :=
  let cores := s.runningCores part
  (s.launchesOf part).all (fun e => (s.rangeCores e.2).all (fun n => s.inLaunch e.1 n && (s.core n).atRest)) &&
    s.copyUnits.all (fun e => e.2.jobs.all (fun j => !cores.contains j.2.order.core || s.jobWaits j.2) && e.2.waiting.all (fun o => !cores.contains o.core)) &&
    s.matrices.all (fun e => e.2.cmds.all (fun c => !cores.contains c.2.core)) &&
    s.ring.ctxs.all (fun e => !cores.contains (ctxOwner e.1) || e.2.state != 2) &&
    s.reqs.all (fun e => !cores.contains e.2.core || e.2.stage == .held || (match e.2.client with | .remote _ _ _ _ => true | _ => false)) &&
    s.mail.all (fun e => !cores.contains e.2.core || !e.2.completionUnderWay)

/-! ### Stops (R403, R404, R407 to R409) -/

/-- YDL of a partition in units of time (R405). -/
def State.yieldLimit (s : State) (part : Nat) : Nat := max 0x400 (bitsOf (s.page part 0x00) 26 0) * tickUnits

/-- A stop notice (R409). -/
def State.stopNotice (s : State) (part kind parked : Nat) : List Byte :=
  [(s.part part).pid, BitVec.ofNat 8 kind] ++ bytesOf 2 0 ++ bytesOf 4 parked ++ bytesOf 8 s.tick

/-- A stop has completed or failed: its notice goes to the fault queue, and to the trace (R409, R446). -/
def State.noteStop (s : State) (part kind parked : Nat) : State :=
  let bytes := s.stopNotice part kind parked
  let s := s.faultEntry part 2 bytes
  if s.traces part 4 then s.trace part none (traceRecord 0x07 0xFFFF_FFFF 0 s.tick bytes) else s

/-- PSTAT of a partition: busy, and the STATUS of the last command (R458). -/
def State.setStatus (s : State) (part : Nat) (busy : Bool) (status : Nat) : State :=
  s.setPage part 0x80 (BitVec.ofNat 64 ((if busy then 1 else 0) + status * 256))

/-- The next ref tick after a time. -/
def tickAfter (t : Nat) : Nat := (t / tickUnits + 1) * tickUnits

/-- A Chorus watchdog's start kept as the time it has counted, or back from it (R411, R433). -/
def State.turnWatches (s : State) (part : Nat) : State :=
  let launches := (s.launchesOf part).map Prod.fst
  { s with chorus := SMap.mapVals (fun k c => if launches.contains (k / 1024) then { c with stuck := c.stuck.map (s.now - ·) } else c) s.chorus }

/-- A core whose partition is stopped: its counts stand still, and the results that were in flight are written (R404, R443). -/
def Core.stopped (c : Core) (t : Nat) : Core :=
  let known := c.var.filter (fun v => match v.source with | .at _ => true | .req _ => false)
  let d := (known.foldl (fun k v => v.writes.foldl Core.apply k) c).drained
  { d with var := c.var.filter (fun v => !known.contains v), clock := { d.clock.rebase t with running := false } }

/-- A partition is stopped now (R404): its cores' counts stand still, and its segments leave the ring at the next lap start (R357). -/
def State.stopNow (s : State) (part kind : Nat) : State :=
  let cores := s.runningCores part
  let parked := (cores.filter (fun n => match (s.core n).run with | .stopped (.parked _) => true | _ => false)).length
  let s := cores.foldl (fun t n => t.setCore n ((t.core n).stopped s.now)) s
  let s := s.turnWatches part
  let s := s.setPartition part { s.partition part with stop := .stopped kind parked s.tick }
  ((s.noteStop part kind parked).setStatus part false 0).kickRing

/-- PARTITION_STOP (R403): a request joins one that is pending, and completes at once when the partition runs no launch. -/
def execPartitionStop (part : Nat) (s : State) : Host.Outcome State Fault Refusal :=
  if 128 ≤ part then .fault .noSuchUnit
  else
    match (s.partition part).stop with
    | .none =>
      if !s.runsLaunch part then .next (s.stopNow part 0)
      else
        let s := s.setPartition part { s.partition part with stop := .requested s.now none }
        let s := (s.setStatus part true 0).postCore (s.now + s.yieldLimit part) 0 (.yieldDeadline part)
        .next (s.postOnce (tickAfter s.now) 0 (.stopComplete part))
    | _ => .next s

/-- YIELD_DEADLINE (R407): a core that sleeps is withdrawn, one that waits stops where it is, and the others stop at their next boundary. -/
def execYieldDeadline (part : Nat) (s : State) : Host.Outcome State Fault Refusal :=
  if 128 ≤ part then .fault .noSuchUnit
  else
    match (s.partition part).stop with
    | .requested since none =>
      if s.now < since + s.yieldLimit part then .next s
      else
        let s := s.setPartition part { s.partition part with stop := .requested since (some s.now) }
        let s := (s.runningCores part).foldl (fun t n =>
          let c := t.core n
          match c.run with
          | .sleeping .condition => t.setCore n { c with run := .stopped .withdrawn }
          | .sleeping (.waita id _) => t.sendWithdrawal n id
          | .sleeping .copy => if t.copyWaits n then (t.withdrawCopy n).setCore n { c with run := .stopped .boundary } else t
          | .sleeping .gang => if t.gangWaits n then (t.withdrawGang n).setCore n { c with run := .stopped .withdrawn } else t
          | .waiting _ => t.setCore n { c with run := .stopped .waiting }
          | _ => t) s
        .next (s.postCore (s.now + s.yieldLimit part) 0 (.exchangeGrace part))
    | _ => .next s

/-- EXCHANGE_GRACE (R408): with a core still in exchange mode the stop fails, and the partition is reset. -/
def execExchangeGrace (part : Nat) (s : State) : Host.Outcome State Fault Refusal :=
  if 128 ≤ part then .fault .noSuchUnit
  else
    match (s.partition part).stop with
    | .requested _ (some forced) =>
      let inPhase (x : Nat × Launch) : List Nat := (s.rangeCores x.2).filter (fun n => s.inLaunch x.1 n && (s.core n).xm)
      let running := s.launchesOf part
      if s.now < forced + s.yieldLimit part || running.all (fun x => (inPhase x).isEmpty) then .next s
      else
        let parked := ((s.runningCores part).filter (fun n => match (s.core n).run with | .stopped (.parked _) => true | _ => false)).length
        let s := s.noteStop part 2 parked
        let s := running.foldl (fun (t : State) x =>
          let f : BitVec 32 := match inPhase x with | n :: _ => BitVec.ofNat 32 (s.core n).rank | [] => 0xFFFF_FFFF
          { t with launches := SMap.put t.launches x.1 { x.2 with forced := some (0x0A, f) } }) s
        .next (s.postOnce s.now 0 (.partitionReset part))
    | _ => .next s

/-- The deadline and the grace time of a pending stop posted anew, for the limit as it stands now (R405, R407, R408, R411). -/
def State.rearmStop (s : State) (part : Nat) : State :=
  match (s.partition part).stop with
  | .requested since none => s.postCore (max s.now (since + s.yieldLimit part)) 0 (.yieldDeadline part)
  | .requested _ (some forced) => s.postCore (max s.now (forced + s.yieldLimit part)) 0 (.exchangeGrace part)
  | _ => s

/-! ### Debug commands (R443) -/

/-- What a walker holds, by number: rank plus one, the size of its set, the next point, the counts, the last point plus one, and its kind (R187, R386). -/
def Walker.field (w : Walker) (k : Nat) : Nat :=
  match k with
  | 0 => match w.rank with | some r => r + 1 | none => 0
  | 1 => w.count
  | 2 => w.next
  | 3 => w.taken
  | 4 => w.skipped
  | 5 => w.skipIdx
  | 6 => w.samples
  | 7 => match w.last with | some p => p + 1 | none => 0
  | _ => match w.lastKind with | .none => 0 | .plain => 1 | .sample n => n + 2

/-- A walker with one of those fields written. -/
def Walker.setField (w : Walker) (k x : Nat) : Walker :=
  match k with
  | 0 => { w with rank := if x = 0 then none else some (x - 1) }
  | 1 => { w with count := x }
  | 2 => { w with next := x }
  | 3 => { w with taken := x }
  | 4 => { w with skipped := x }
  | 5 => { w with skipIdx := x }
  | 6 => { w with samples := x }
  | 7 => { w with last := if x = 0 then none else some (x - 1) }
  | _ => { w with lastKind := match x with | 0 => .none | 1 => .plain | n + 2 => .sample n }

/-- The number of a stop condition (R407, R442): 0 for a core that no stop found running. -/
def RunState.condition (r : RunState) : Nat :=
  match r with
  | .stopped (.parked exch) => if exch then 2 else 1
  | .stopped .boundary => 3
  | .stopped .withdrawn => 4
  | .stopped .waiting => 5
  | .stopped .exchange => 6
  | .stopped .breakpoint => 7
  | _ => 0

/-- The stop condition of a number. -/
def stopCondition (k : Nat) : Option StopCond :=
  match k with
  | 1 => some (.parked false)
  | 2 => some (.parked true)
  | 3 => some .boundary
  | 4 => some .withdrawn
  | 5 => some .waiting
  | 6 => some .exchange
  | 7 => some .breakpoint
  | _ => none

/-- What a core holds of its failed accesses: of each, its address, and its cause, qualifier, mode, function and register (R256 to R258, R433). -/
def State.heldField (s : State) (c : Core) (k : Nat) : Option Word :=
  match c.held[k / 2]? with
  | none => none
  | some h =>
    match s.req h.req with
    | none => none
    | some r =>
      let f : Cause := h.failure.getD (0, 0)
      some (if k % 2 = 0 then r.ea
        else BitVec.ofNat 64 (f.1.toNat + f.2.toNat * 2 ^ 8 + (if h.handler then 2 ^ 16 else 0) + r.opc * 2 ^ 24 + r.reg.toNat * 2 ^ 40))

/-- The fields of a core record, in a numbering of the model's own (R433): g1 to g15, the register stack, the handler bank, the lanes of v0 to v31, the control registers, the return-address store, k0 to k15, the latency accounts, the receive slots, the inbox, the walker, the exchange route, the stop condition, the charge history, and from 2048 the held accesses. -/
def State.recordRead (s : State) (n k : Nat) : Option Word :=
  let c := s.core n
  if k < 15 then c.glob[k]?
  else if k < 191 then c.stack[k - 15]?
  else if k < 239 then c.hbank[k - 191]?
  else if k < 495 then (c.vec[(k - 239) / 8]?).map (fun v => BitVec.ofNat 64 (laneOf v.toNat 64 ((k - 239) % 8)))
  else if k < 563 then (crMode (k - 495)).map (fun _ => { s with cur := n }.readCr (k - 495))
  else if k < 579 then some ((c.ras[k - 563]?.getD 0).setWidth 64)
  else if k < 595 then (c.counters[k - 579]?).map (·.setWidth 64)
  else if k < 659 then c.accounts[k - 595]?
  else if k < 667 then (c.slots[k - 659]?).map (·.value)
  else if k < 795 then some (match c.inbox[(k - 667) / 2]? with | some m => (if (k - 667) % 2 = 0 then m.head else m.data) | none => 0)
  else if k < 804 then some (BitVec.ofNat 64 (c.walker.field (k - 795)))
  else if k = 804 then some (c.routeSg.setWidth 64)
  else if k = 805 then some c.routeMask
  else if k = 806 then some (BitVec.ofNat 64 c.run.condition)
  else if k < 2048 then (c.charges[k - 807]?).map (fun e => BitVec.ofNat 64 (e.1 * 2 ^ 16 + e.2))
  else s.heldField c (k - 2048)

/-- A message with its first or its second eight bytes written. -/
def Message.setHalf (m : Message) (second : Bool) (x : Word) : Message :=
  if second then { m with data := x }
  else ⟨x.extractLsb' 0 8, x.extractLsb' 8 8, x.extractLsb' 16 16, x.extractLsb' 32 32, m.data⟩

/-- A field of a core record written, with the access of an MTC in handler mode, but for MFR and the held accesses (R443). -/
def Core.recordWrite (c : Core) (k : Nat) (x : Word) : Core :=
  if k < 15 then { c with glob := c.glob.setIfInBounds k x }
  else if k < 191 then { c with stack := c.stack.setIfInBounds (k - 15) x }
  else if k < 239 then { c with hbank := c.hbank.setIfInBounds (k - 191) x }
  else if k < 495 then c.setLane ((k - 239) / 8) ((k - 239) % 8) x
  else if k < 563 then (if (crMode (k - 495)).isSome then c.writeCr (k - 495) x else c)
  else if k < 579 then { c with ras := c.ras.set (k - 563) (x.setWidth 18) }
  else if k < 595 then { c with counters := c.counters.setIfInBounds (k - 579) (x.setWidth 32) }
  else if k < 659 then { c with accounts := c.accounts.setIfInBounds (k - 595) x }
  else if k < 667 then { c with slots := c.slots.setIfInBounds (k - 659) { c.slots[k - 659]?.getD XSlot.empty with value := x } }
  else if k < 795 then { c with inbox := c.inbox.modify ((k - 667) / 2) (fun m => m.setHalf ((k - 667) % 2 = 1) x) }
  else if k < 804 then { c with walker := c.walker.setField (k - 795) x.toNat }
  else if k = 804 then { c with routeSg := x.setWidth 4 }
  else if k = 805 then { c with routeMask := x }
  else if k = 806 then
    (match c.run, stopCondition x.toNat with
    | .stopped _, some cond => { c with run := .stopped cond }
    | _, _ => c)
  else if k < 2048 then { c with charges := c.charges.set (k - 807) (x.toNat / 2 ^ 16, bitsOf x 15 0) }
  else c

/-- A field of a held access written: its address, or its cause, qualifier, mode, function and register (R443). -/
def State.heldWrite (s : State) (n k : Nat) (x : Word) : State :=
  let c := s.core n
  match c.held[k / 2]? with
  | none => s
  | some h =>
    match s.req h.req with
    | none => s
    | some r =>
      if k % 2 = 0 then s.setReq h.req { r with ea := x }
      else
        let held := c.held.modify (k / 2) (fun h => { h with failure := h.failure.map (fun _ => (x.extractLsb' 0 8, x.extractLsb' 8 8)), handler := x.getLsbD 16 })
        (s.setCore n { c with held := held }).setReq h.req { r with handler := x.getLsbD 16, opc := bitsOf x 39 24, reg := x.extractLsb' 40 6 }

/-- A field of a core record written (R443): MFR takes DROP, and discards the reported access with it (R256, R257). -/
def State.recordWrite (s : State) (n k : Nat) (x : Word) : State :=
  if 2048 ≤ k then s.heldWrite n (k - 2048) x
  else if k = 495 + 0x35 then (if x.getLsbD 62 then s.discardReported n else s)
  else s.setCore n ((s.core n).recordWrite k x)

/-- The core that a DBGSEL names, if it is one of a stopped launch's range (R443, R458). -/
def State.debugCore (s : State) (part : Nat) (sel : Word) : Option Nat :=
  match (s.partition part).stop with
  | .stopped _ _ _ =>
    match (s.part part).flat (bitsOf sel 15 0) with
    | some n => if (s.runningCores part).contains n then some n else none
    | none => none
  | _ => none

/-- DBG_READ (R443): the value at DBGSEL as it was held at the stop. A field that the spec's record leaves unplaced reads as a free value. -/
def execDbgRead (part : Nat) (s : State) : Host.Outcome State Fault Refusal :=
  if 128 ≤ part then .fault .noSuchUnit
  else
    let sel := s.page part 0x88
    match s.debugCore part sel with
    | none => .next s
    | some n =>
      let off := bitsOf sel 63 32
      match bitsOf sel 17 16 with
      | 1 => .next (s.setPage part 0x90 (BitVec.ofNat 64 (Memory.readLE s.mem (sliceKey n off) 8)))
      | 2 => .next (s.setPage part 0x90 ((s.core n).pc.setWidth 64))
      | _ =>
        match s.recordRead n (Config.recordField off) with
        | some x => .next (s.setPage part 0x90 x)
        | none =>
          let f := s.takeFree
          .next (f.2.setPage part 0x90 (Config.freeWord f.1))

/-- DBG_WRITE (R443): the write is kept until the resume edge. -/
def execDbgWrite (part : Nat) (value : Word) (s : State) : Host.Outcome State Fault Refusal :=
  if 128 ≤ part then .fault .noSuchUnit
  else
    let sel := s.page part 0x88
    match s.debugCore part sel with
    | none => .next s
    | some _ => let p := s.partition part; .next (s.setPartition part { p with debug := p.debug ++ [(sel, value)] })

/-- A kept debug write takes effect (R443). -/
def State.debugApply (s : State) (part : Nat) (w : Word × Word) : State :=
  match s.debugCore part w.1 with
  | none => s
  | some n =>
    let off := bitsOf w.1 63 32
    match bitsOf w.1 17 16 with
    | 1 => s.store (sliceKey n off) 8 w.2.toNat
    | 2 => s.setCore n { s.core n with pc := w.2.setWidth 18, runStart := none }
    | _ => s.recordWrite n (Config.recordField off) w.2

/-! ### Resumption (R406, R436, R443) -/

/-- A core resumes at edge U (R406): one whose resume PC the driver has moved goes on from there, a waiting one too, or faults on it (R443; log 40). -/
def State.resumeCore (s : State) (n : Nat) (moved : Bool) : State :=
  let c := s.core n
  let edge := c.clock.vec.ceil s.now
  let c := { c with
    clock := { c.clock with base := s.now, running := true }
    fbuf := []
    ready := edge
    waited := 0
    holding := false
    charged := false }
  let go := (s.setCore n { c with run := .running }).enterLine n c.pc
  let bad := moved && go.badTarget n c.pc
  let trap := go.trapEntry n edge ⟨0x01, 0x04, c.pc.setWidth 64⟩ c.pc false
  match c.run with
  | .stopped (.parked exch) => if bad then trap else if exch then go.openPhase n s.now else go
  | .stopped .waiting | .stopped .exchange => if bad then trap else if moved then go else s.setCore n { c with run := .waiting false }
  | .stopped _ => if bad then trap else go
  | _ => s.setCore n c

/-- The Chorus units of a partition's launches move again (R406). -/
def State.wakeUnits (s : State) (part : Nat) : State :=
  let limit := 2 ^ bitsOf (s.page part 0x10) 5 0 * tickUnits
  let launches := (s.launchesOf part).map Prod.fst
  s.chorus.foldl (fun t e =>
    let n := e.1 / 1024
    let level := e.1 / 256 % 4
    let unit := e.1 % 256
    if !launches.contains n then t
    else
      let t := if e.2.started && e.2.done.isNone && (e.2.hold.isNone || decide (e.2.buf.length < 64)) then t.postRead n level unit else t
      let t := match e.2.stuck with | some since => t.postCore (since + limit) 0 (.chorusWatchdog n level unit) | none => t
      t.pokeUnit n level unit) s

/-- The newest grant notified to the ranges of a partition's launches, but for replays and those that have its notice since they were restored (R364, R436, R453). -/
def State.notifyPart (s : State) (part : Nat) : State :=
  (s.launchesOf part).foldl (fun t e => if e.2.replay || e.2.noticeSeq == some t.chameleon.seq then t else t.notifyLaunch e.1 e.2) s

/-- A restore counts as a launch start for R363 and R365: a search, whose own grants are notified as any other; the notice of R436 where the newest grant is not the saved one; and the grant taken. -/
def State.regrant (s : State) (part savedSeq : Nat) : State :=
  let s := s.search 1 none
  let s := if savedSeq = s.chameleon.seq then s else s.notifyPart part
  s.takePart part noStamp

/-- A partition resumes at this edge, in place or after a restore (R406, R436). -/
def State.resumeNow (s : State) (part : Nat) : State :=
  let words := (s.partition part).debug
  let s := words.foldl (fun t w => t.debugApply part w) s
  let movedRanks := (words.filter (fun w => bitsOf w.1 17 16 = 2)).map (fun w => bitsOf w.1 15 0)
  let s := s.turnWatches part
  let s := s.setPartition part { s.partition part with stop := .none, debug := [], stayStopped := false }
  let s := (s.runningCores part).foldl (fun t n => t.resumeCore n (movedRanks.contains (t.core n).rank)) s
  let s :=
    match SMap.find s.savedCtx part with
    | some x => State.regrant { s with savedCtx := SMap.erase s.savedCtx part } part x.grantSeq
    | none => s
  let s := (s.runningCores part).foldl (fun t n => t.setCore n { t.core n with part := t.partReg part n }) s
  let s := (s.launchesOf part).foldl (fun t e => t.postOnce t.now 0 (.launchCompletion e.1)) s
  (((s.wakeUnits part).setStatus part false 0).kickRing).kickLaunches

/-- PARTITION_RESUME (R406): at a network edge; a resume between two edges comes at the next. -/
def execPartitionResume (part : Nat) (s : State) : Host.Outcome State Fault Refusal :=
  if 128 ≤ part then .fault .noSuchUnit
  else
    match (s.partition part).stop with
    | .stopped _ _ _ =>
      if (s.partition part).saved then .next s
      else if s.net.on s.now then .next (s.resumeNow part)
      else .next (s.postOnce (s.netEdgeAfter s.now) 0 (.partitionResume part))
    | _ => .next s

end Sys2Proof.Machine
end

