-- ==== Sys2Proof/Machine/Partitions.lean ====
section
/-! DEFINITION. Partitions, scrubs and resets, the context save and restore, time slicing, and replay (R428 to R440, R450, R453, R454). -/

namespace Sys2Proof.Machine

/-! ### Scrubs (R439) -/

/-- Everything of a super-group back at zero or at its launch value (R439). -/
def State.scrubGroup (s : State) (g : Nat) : State :=
  let pods := (List.range 8).map (8 * g + ·)
  let s := pods.foldl (fun t p => (t.clearPod p).zeroRun (slotKey p 0) (256 * 16384)) s
  let s := s.zeroRun (sliceKey (64 * g) 0) (64 * 262144)
  let watches (r : Req) : Bool := match r.stage with | .armed key _ => key / (64 * 262144) == g | _ => false
  { s with
    cores := s.cores.filter (fun e => e.1 / 64 != g)
    reqs := s.reqs.filter (fun e => !watches e.2) }

/-- A scrub of some super-groups posted: each takes at most 4,000 ref ticks, at a time that the spec leaves open (log 21). -/
def State.postScrubs (s : State) (gs : List Nat) : State :=
  gs.foldl (fun t g =>
    let f := t.takeFree
    f.2.postCore (t.now + Config.latency f.1 % 4001 * tickUnits) 0 (.scrubComplete g)) s

/-- Those of some super-groups that no running launch of another partition holds: a scrub for one tenant leaves the live state of another alone (R437, R439; log 53). -/
def State.toScrub (s : State) (part : Nat) (gs : List Nat) : List Nat :=
  gs.filter (fun g => s.launches.all (fun x => x.2.part == part || !s.runs x.2 || !(s.groupsOf x.2).contains g))

/-! ### Partitions (R428, R429) -/

/-- A partition-table entry as its words in BAR0 stand (R428). -/
def State.entryWords (s : State) (i : Nat) : PartEntry :=
  let w (k : Nat) : Word := s.reg (0x10000 + 32 * i + 8 * k)
  ⟨(w 0).getLsbD 8, BitVec.ofNat 8 (bitsOf (w 0) 7 0), bitsOf (w 0) 31 16, BitVec.ofNat 128 ((w 2).toNat + (w 3).toNat * 2 ^ 64)⟩

/-- The words of an entry are as R428 asks. -/
def State.goodEntry (s : State) (i : Nat) : Bool :=
  let w (k : Nat) : Word := s.reg (0x10000 + 32 * i + 8 * k)
  let x := s.entryWords i
  bitsOf (w 0) 63 32 == 0 && bitsOf (w 0) 15 9 == 0 && w 1 == 0 &&
    (!x.valid || (x.pid != 0xFF && decide (x.vf ≤ 191) &&
      s.parts.all (fun e => e.1 == i || !e.2.valid || (s.slice.on && e.2.vf != x.vf) || (e.2.sgs &&& x.sgs == 0 && e.2.pid != x.pid))))

/-- A resize is accepted (R429). -/
def State.mayResize (s : State) (i : Nat) (x : PartEntry) : Bool :=
  let e := s.part i
  let p := s.partition i
  let stopped := p.saved || (match p.stop with | .stopped _ _ _ => true | _ => false)
  let launches := s.launches.filter (fun l => l.2.part = i && (match l.2.stage with | .started | .draining => true | _ => false))
  let used := launches.flatMap (fun l => s.groupsOf l.2)
  (launches.isEmpty && !p.saved) || (stopped && used.all (fun g => x.sgs.getLsbD g && e.list.findIdx (· = g) == x.list.findIdx (· = g)))

/-- The words of an entry set back to its last committed value (R428). -/
def State.revertEntry (s : State) (i : Nat) : State :=
  let e := s.part i
  let w0 := e.pid.toNat + (if e.valid then 256 else 0) + e.vf * 65536
  [w0, 0, e.sgs.toNat % 2 ^ 64, e.sgs.toNat / 2 ^ 64].zipIdx.foldl (fun t x => t.setReg (0x10000 + 32 * i + 8 * x.2) (BitVec.ofNat 64 x.1)) s

/-- PARTITION_COMMIT (R428, R429, R457): a PTCMD write commits an entry of the partition table, or refuses it with STATUS 0x02. -/
def execPartitionCommit (command : Word) (s : State) : Host.Outcome State Fault Refusal :=
  let i := bitsOf command 6 0
  let e := s.part i
  let x := s.entryWords i
  let resize := e.valid && (!x.valid || x.sgs != e.sgs)
  if !s.goodEntry i || (resize && !s.mayResize i (if x.valid then x else PartEntry.empty)) then
    .next ((s.revertEntry i).setReg 0x128 0x200)
  else
    let leaving := if e.valid then s.toScrub i (e.list.filter (fun g => !(x.valid && x.sgs.getLsbD g))) else []
    let s := { s with parts := SMap.set (fun _ => PartEntry.empty) s.parts i x }.setReg 0x128 0
    let s := s.setPartition i { s.partition i with scrubs := (s.partition i).scrubs ++ leaving }
    let s := s.postScrubs leaving
    let s := if x.valid && !s.runsLaunch i then (s.takeGrant i).afterTake else s
    .next s.kickRing.kickLaunches

/-! ### The context save (R433, R434) -/

/-- The bytes of memory in a run of addresses, moved by a change of base. -/
def moveRun (m : Memory) (key n base : Nat) : Memory := (m.filter (fun e => decide (key ≤ e.1) && decide (e.1 < key + n))).map (fun e => (e.1 - key + base, e.2))

/-- The pods of a partition, each with the number it has by rank. -/
def PartEntry.pods (e : PartEntry) : List (Nat × Nat) := (List.range (8 * e.list.length)).filterMap (fun i => (e.flat (8 * i)).map (fun n => (i, n / 8)))

/-- Bytes of a save written back (R436): the run is zero where the save holds nothing. -/
def State.putRun (s : State) (m : Memory) (from' n key : Nat) : State :=
  let s := s.zeroRun key n
  { s with mem := (moveRun m from' n key).foldl (fun x e => Memory.write x e.1 e.2) s.mem }

/-- The context of a Chorus unit as the words of its part of a save block, by number: masks, what stands beside them, and where the sequencer and the watchdog are (R197 to R211, R433). -/
def Chorus.field (c : Chorus) (k : Nat) : Option Word :=
  if k < 64 then (c.buf[k]?).map (·.mask)
  else if k < 128 then (c.buf[k - 64]?).map (fun m =>
    let reports := packLanes 1 ((List.range 16).map (fun i => if m.reports.any (fun r => r.1 % 16 = i) then 1 else 0))
    let stage := match m.stage with | .unfired => 0 | .reported => 1 | .firing => 2
    BitVec.ofNat 64 (m.flags + stage * 16 + reports * 2 ^ 8 + m.idx * 2 ^ 24))
  else if k = 128 then some (BitVec.ofNat 64 c.pos)
  else if k = 129 then some (BitVec.ofNat 64 c.expanded)
  else if k = 130 then some (BitVec.ofNat 64 (c.stuck.getD 0))
  else (c.reps[k - 131]?).map (fun r => BitVec.ofNat 64 (r.first + r.len * 2 ^ 16 + (match r.passes with | some n => n | none => 2 ^ 32 - 1) * 2 ^ 32))

/-- What a boarding context holds, by number: its settings, its flags and counts, and its last catch (R346, R354). -/
def BoardCtx.field (x : BoardCtx) (k : Nat) : Nat :=
  match k with
  | 0 => x.layer + x.f0 * 2 ^ 16 + x.n * 2 ^ 40
  | 1 => x.slot + x.counter * 2 ^ 8 + x.state * 2 ^ 16 + x.written * 2 ^ 32 +
      packLanes 1 ([x.auto, x.missed, x.corrupt, x.short, x.reported].map (fun b => if b then 1 else 0)) * 2 ^ 24
  | _ => x.lap + x.fmtc.toNat * 2 ^ 32

/-- The launches of a partition that a save holds, by number. -/
def State.savedLaunches (s : State) (part : Nat) : List Nat := (s.startedOf part).map Prod.fst

/-- The state of a pod as the words of its part of a save block, by number: the claims and ERR flags, the gang counts, the banks' flags and marks, the boarding contexts, the copy unit's generations, the messages of its completion buffer, and NEXT of the sequence regions of the partition's launches, each beside its granule (R303, R433). -/
def State.podField (s : State) (part pod k : Nat) : Option Word :=
  let m := s.matrix pod
  if k < 256 then
    (SMap.find m.slots k).map (fun o => BitVec.ofNat 64 ((match o.claim with | some c => c + 1 | none => 0) + (if o.err then 16 else 0)))
  else if k < 288 then
    (SMap.find m.banks (k - 256)).map (fun b => BitVec.ofNat 64 (b.flags.toNat + (match b.mark with | some (q, slot) => 2 ^ 8 + q.toNat * 2 ^ 16 + slot * 2 ^ 24 | none => 0)))
  else if k < 296 then (SMap.find m.counts (k - 288)).map (BitVec.ofNat 64)
  else if k < 344 then some (BitVec.ofNat 64 ((s.ctx (16 * pod + (k - 296) / 3)).field ((k - 296) % 3)))
  else if k < 408 then
    let e := (s.copyUnit pod).entry (k - 344)
    some (BitVec.ofNat 64 (e.gen + e.status.toNat * 2 ^ 32))
  else if k < 536 then
    let x := (s.copyUnit pod).entry ((k - 408) / 2)
    match x.job with
    | some j =>
      (match j.stage with
       | .posting _ => let m := s.copyMessage ((k - 408) / 2) x j; some (if k % 2 = 0 then m.head else m.data)
       | _ => none)
    | none => none
  else
    ((s.reduceNext.filter (fun e => (s.savedLaunches part).contains (e.1 / 2 ^ 48)))[k - 536]?).map (fun e => BitVec.ofNat 64 (e.1 % 2 ^ 48 * 2 ^ 16 + e.2 % 2 ^ 16))

/-- The jobs of a partition that its save keeps, with the entries of their units: reduce jobs that wait for their turn (R433, R434). -/
def State.savedJobs (s : State) (part : Nat) : List (Nat × CopyEntry × CopyJob) :=
  (s.part part).pods.flatMap (fun p =>
    let u := s.copyUnit p.2
    (u.jobs.filter (fun j => j.2.stage == .queued)).map (fun j => (j.1, u.entry j.1, j.2)))

/-- A saved reduce job as the words of its part of a save block, by number: its descriptor, its issuer, its handle, and its counter with its options (R303, R433). -/
def State.jobField (s : State) (x : Nat × CopyEntry × CopyJob) (k : Nat) : Option Word :=
  let o := x.2.2.order
  match k with
  | 8 => some (BitVec.ofNat 64 (s.core o.core).rank)
  | 9 => some (jobHandle x.2.1.gen x.1)
  | 10 => some (BitVec.ofNat 64 (o.n + (if o.cen then 16 else 0) + (if o.dcnt then 32 else 0) + (if o.quiet then 64 else 0)))
  | _ => if k < 8 then some (BitVec.ofNat 64 (o.u (8 * k) 8)) else none

/-- A part of a save block: the word at each multiple of 8, none where the spec places nothing there that the model names; or a run of memory, by its key. -/
inductive SavePart where
  | words (size : Nat) (word : Nat → Option Word)
  | run (key size : Nat)

/-- The size of a part. -/
def SavePart.size : SavePart → Nat
  | .words n _ => n
  | .run _ n => n

/-- The parts 2 to 7 of a partition's save block, in their order (R433). -/
def State.saveParts (s : State) (part : Nat) : List (List SavePart) :=
  let e := s.part part
  let launches := (s.startedOf part).map Prod.fst
  let units := s.chorus.filter (fun x => launches.contains (x.1 / 1024))
  let cores := (List.range e.cores).filterMap e.flat
  let field (kind : Nat) (f : Nat → Option Word) : Nat → Option Word := fun off => f (Config.saveField kind off)
  [units.map (fun x => .words 2048 (field 2 x.2.field)),
    cores.map (fun n => .words 8192 (field 3 (s.recordRead n))),
    e.pods.map (fun p => .words 2048 (field 4 (s.podField part p.2))) ++ (s.savedJobs part).map (fun x => .words 64 (field 5 (s.jobField x))),
    e.pods.map (fun p => .run (bankKey p.2 0 0) (32 * 4096)),
    e.pods.flatMap (fun p => ((s.matrix p.2).slots.filter (fun y => y.2.claim.isSome)).map (fun y => .run (slotKey p.2 y.1) 8704)),
    cores.map (fun n => .run (sliceKey n 0) 262144)]

/-- The offsets of the parts 2 to 7 in a block, and then the block's size: the header has 64 bytes (R433). -/
def saveOffsets (ps : List (List SavePart)) : List Nat :=
  ps.foldl (fun a p => a ++ [a.getLastD 0 + (p.map SavePart.size).sum]) [64]

/-- The header of a save block, by number: PID, KIND, PARKED, YDL, GRANT, the lap in progress, and the offsets of the parts (R433). -/
def State.saveHeader (s : State) (part : Nat) (offsets : List Nat) (k : Nat) : Option Word :=
  let p := s.partition part
  let stop : Nat × Nat := match p.stop with | .stopped kind parked _ => (kind, parked) | _ => (0, 0)
  match k with
  | 0 => some ((s.part part).pid.setWidth 64)
  | 1 => some (BitVec.ofNat 64 stop.1)
  | 2 => some (BitVec.ofNat 64 stop.2)
  | 3 => some (s.page part 0x00)
  | 4 => some (BitVec.ofNat 64 (p.grantSeq * 2 ^ 48 + p.grantCause * 2 ^ 36 + p.mat * 2 ^ 24 + p.vec * 2 ^ 16 + s.chameleon.netNow * 2 ^ 8 + s.chameleon.memNow))
  | 5 => some (BitVec.ofNat 64 (s.ring.laps - 1))
  | n + 6 => (offsets[n]?).map (BitVec.ofNat 64)

/-- A part written at an HBM address: a word that the spec leaves open takes a free value. -/
def State.writePart (s : State) (at' : Nat) (p : SavePart) : State :=
  match p with
  | .run key n => s.putRun s.mem key n (hbmKey at')
  | .words n word =>
    (List.range (n / 8)).foldl (fun t i =>
      let f := t.takeFree
      f.2.writeMem (hbmKey (at' + 8 * i)) 8 ((word (8 * i)).getD (Config.freeWord f.1)).toNat) s

/-- The address block of a virtual function's save area: its first HBM address and its length (R433, R457). -/
def State.saveArea (s : State) (vf : Nat) : Nat × Nat := ((s.reg (0x11200 + 16 * vf)).toNat * 65536, (s.reg (0x11208 + 16 * vf)).toNat)

/-- Where a partition's block goes in its function's save area: behind those that stand there (log 54). -/
def State.saveStart (s : State) (part : Nat) : Nat :=
  s.savedCtx.foldl (fun a x => if (s.part x.1).vf = (s.part part).vf ∧ x.1 ≠ part then max a (x.2.start + x.2.size) else a) 0

/-- The block of a partition written into the save area, if it fits there (R433; log 54). -/
def State.writeSave (s : State) (part : Nat) : State :=
  let area := s.saveArea (s.part part).vf
  let start := s.saveStart part
  let ps := s.saveParts part
  let offsets := saveOffsets ps
  if area.2 < start + offsets.getLastD 0 then s
  else
    let header : SavePart := .words 64 (fun off => s.saveHeader part offsets (Config.saveField 1 off))
    ((header :: ps.flatten).foldl (fun (a : Nat × State) p => (a.1 + p.size, a.2.writePart a.1 p)) (area.1 + start, s)).2

/-- What a save keeps of a partition (R433): only claimed slots keep their bytes. -/
def State.saveContext (s : State) (part : Nat) : SavedContext :=
  let e := s.part part
  let cores := (List.range e.cores).filterMap (fun r => (e.flat r).map (fun n => (r, n)))
  let pods := e.pods
  let slots (x : Nat × Nat) : Memory :=
    (s.matrix x.2).slots.foldl (fun m y => if y.2.claim.isSome then m ++ moveRun s.mem (slotKey x.2 y.1) 16384 (slotKey x.1 y.1) else m) []
  { part := part
    start := s.saveStart part
    size := (saveOffsets (s.saveParts part)).getLastD 0
    grantSeq := (s.partition part).grantSeq
    cores := cores.filterMap (fun x => (SMap.find s.cores x.2).map (fun c => (x.1, c)))
    slices := cores.flatMap (fun x => moveRun s.mem (sliceKey x.2 0) 262144 (x.1 * 262144))
    matrices := pods.filterMap (fun x => (SMap.find s.matrices x.2).map (fun m => (x.1, m)))
    operands := pods.flatMap (fun x => moveRun s.mem (bankKey x.2 0 0) (32 * 4096) (bankKey x.1 0 0) ++ slots x)
    ctxs := pods.flatMap (fun x => (s.ring.ctxs.filter (fun y => y.1 / 16 = x.2)).map (fun y => (16 * x.1 + y.1 % 16, y.2)))
    copyUnits := pods.filterMap (fun x => (SMap.find s.copyUnits x.2).map (fun u => (x.1, u)))
    chorus := (s.launchesOf part).flatMap (fun l => (s.chorus.filter (fun x => x.1 / 1024 = l.1)).map (fun x =>
      let level := x.1 / 256 % 4
      (l.1, 256 * level + (s.part part).unitNumber level (x.1 % 256), x.2)))
    mail := s.mail.filterMap (fun x => match e.rankOf x.2.core with | some r => (if x.2.waits && s.partOf (s.core x.2.core) == some part then some { x.2 with core := r } else none) | none => none)
    reqs := s.reqs.filterMap (fun x => match e.rankOf x.2.core with | some r => (if x.2.stage == .held && s.partOf (s.core x.2.core) == some part then some (x.1, { x.2 with core := r }) else none) | none => none) }

/-- The parts of a saved partition leave the machine: the save area holds them. -/
def State.takeOut (s : State) (part : Nat) : State :=
  let e := s.part part
  let mine (n : Nat) : Bool := e.sgs.getLsbD (n / 64)
  let launches := (s.launchesOf part).map Prod.fst
  { s with
    cores := s.cores.filter (fun x => !mine x.1)
    matrices := s.matrices.filter (fun x => !mine (8 * x.1))
    copyUnits := s.copyUnits.filter (fun x => !mine (8 * x.1))
    ring := { s.ring with ctxs := s.ring.ctxs.filter (fun x => !mine (ctxOwner x.1)) }
    chorus := s.chorus.filter (fun x => !launches.contains (x.1 / 1024))
    mail := s.mail.filter (fun x => !(mine x.2.core && x.2.waits))
    reqs := s.reqs.filter (fun x => !(mine x.2.core && x.2.stage == .held)) }

/-! ### The restore (R436) -/

/-- A boarding context written back: one in states 1 and 4 arms for the laps that begin from then on (R357, R436). -/
def BoardCtx.restored (x : BoardCtx) (laps : Nat) : BoardCtx :=
  if x.state = 1 ∨ x.state = 4 then { x with fromLap := laps } else x

/-- A saved core written back: it runs on its partition's vector clock as that is now (R358, R436). -/
def Core.restored (c : Core) (vec : Grid) : Core := { c with clock := { c.clock with vec := vec, pipe := vec } }

/-- The held accesses of a saved partition's cores written back, and its launches with no notice yet of a grant that they have missed (R257, R433, R436). -/
def State.putHeld (s : State) (x : SavedContext) : State :=
  let e := s.part x.part
  { s with
    reqs := x.reqs.foldl (fun m r => match e.flat r.2.core with | some n => SMap.put m r.1 { r.2 with core := n } | none => m) s.reqs
    launches := SMap.mapVals (fun _ l => if l.part = x.part then { l with noticeSeq := none } else l) s.launches }

/-- A saved partition written back (R436): every free slot is zero. -/
def State.putBack (s : State) (x : SavedContext) : State :=
  let e := s.part x.part
  let p := s.partition x.part
  let vec : Grid := ⟨p.vecBase, periodOf p.vec⟩
  let cores := (List.range e.cores).filterMap (fun r => (e.flat r).map (fun n => (r, n)))
  let s := cores.foldl (fun t y => (t.setCore y.2 (((SMap.find x.cores y.1).getD (Core.unlisted y.2)).restored vec)).putRun x.slices (y.1 * 262144) 262144 (sliceKey y.2 0)) s
  let clean (m : Matrix) : Matrix := { m with slots := m.slots.filter (fun y => y.2.claim.isSome) }
  let s := e.pods.foldl (fun t y =>
    let t := (t.clearPod y.2).putRun x.operands (bankKey y.1 0 0) (32 * 4096) (bankKey y.2 0 0)
    let t := t.putRun x.operands (slotKey y.1 0) (256 * 16384) (slotKey y.2 0)
    let t := match SMap.find x.matrices y.1 with | some m => t.setMatrix y.2 (clean m) | none => t
    let t := match SMap.find x.copyUnits y.1 with | some u => t.setCopyUnit y.2 u | none => t
    (x.ctxs.filter (fun c => c.1 / 16 = y.1)).foldl (fun u c => u.setCtx (16 * y.2 + c.1 % 16) (c.2.restored s.ring.laps)) t) s
  let s := x.chorus.foldl (fun t c =>
    let level := c.2.1 / 256
    match e.unitAt level (c.2.1 % 256) with
    | some u => t.setUnit c.1 level u c.2.2
    | none => t) s
  x.mail.foldl (fun t m =>
    match e.flat m.core with
    | some n =>
      let id := t.nextId
      State.postCore { t with mail := SMap.put t.mail id { m with core := n }, nextId := id + 1 } t.now n (.inboxMessageArrival id)
    | none => t) (s.putHeld x)

/-! ### Time slicing (R430 to R432) -/

/-- An entry of the quantum table (R431). -/
def State.quantumWord (s : State) (i : Nat) : Word := s.reg (0x11000 + 8 * i)

/-- The virtual function of an entry (R431). -/
def State.entryVf (s : State) (i : Nat) : Nat := bitsOf (s.quantumWord i) 39 32

/-- An entry is valid, and its function has a running launch, a saved context or a waiting launch (R431). -/
def State.eligibleEntry (s : State) (i : Nat) : Bool :=
  let vf := s.entryVf i
  (s.quantumWord i).getLsbD 63 &&
    (s.launches.any (fun e => e.2.vf == vf && (e.2.stage == .waiting || s.runs e.2)) ||
      s.parts.any (fun e => e.2.valid && e.2.vf == vf && (s.partition e.1).saved))

/-- The next entry in cyclic order after one (R431). -/
def State.nextEntry (s : State) (after : Option Nat) : Option Nat :=
  ((List.range 64).map (fun k => (match after with | some a => a + 1 + k | none => k) % 64)).find? s.eligibleEntry

/-- The partitions of a virtual function. -/
def State.partsOf (s : State) (vf : Nat) : List Nat := (s.parts.filter (fun e => e.2.valid && e.2.vf == vf)).map Prod.fst

/-- A quantum of an entry begins at a time, for the virtual function that the switch to it found there (R432). -/
def State.beginQuantum (s : State) (entry vf start : Nat) : State :=
  let due := start + max 200000 (bitsOf (s.quantumWord entry) 31 0) * tickUnits
  State.postCore { s with slice := ⟨true, some entry, some vf, some vf, none, .none, [], due⟩ } due 0 .quantumEnd

/-- A step of a switch posted for a time that the spec leaves open (log 21). -/
def State.postFree (s : State) (i : Instr) : State :=
  let f := s.takeFree
  f.2.postCore (s.netEdgeAfter s.now + Config.latency f.1 * s.netPeriod) 0 i

/-- Every saved partition of the incoming function is back: they resume on one network edge, and the quantum runs from it (R432). -/
def State.endSwitch (s : State) (entry vf : Nat) : State :=
  let edge := s.netEdgeAfter s.now
  let back := (s.partsOf vf).filter (fun p => (SMap.find s.savedCtx p).isSome && !(s.partition p).stayStopped)
  let s := back.foldl (fun t p => t.postCore edge 0 (.partitionResume p)) s
  (s.beginQuantum entry vf edge).kickLaunches

/-- The saved partitions of the incoming function are written back (R432). -/
def State.startRestore (s : State) (entry vf : Nat) : State :=
  let saved := (s.partsOf vf).filter (fun p => (s.partition p).saved)
  let s := { s with slice := { s.slice with vf := some vf, stage := .restoring, scrubs := [] } }
  if saved.isEmpty then s.endSwitch entry vf else saved.foldl (fun t p => t.postFree (.contextRestoreComplete p)) s

/-- The super-groups of the function that ran last are scrubbed, but for those that a saved partition of the incoming one restores; at the first switch since spatial mode, those of every other function (R432, R439). -/
def State.startScrub (s : State) (entry vf : Nat) : State :=
  let kept := ((s.partsOf vf).filter (fun p => (s.partition p).saved)).flatMap (fun p => (s.part p).list)
  let outs := match s.slice.out with
    | some o => s.partsOf o
    | none => (s.parts.filter (fun (e : Nat × PartEntry) => e.2.valid && e.2.vf != vf)).map Prod.fst
  let used := (outs.flatMap (fun p => (s.part p).list)).eraseDups.filter (fun g => !kept.contains g)
  if used.isEmpty then s.startRestore entry vf
  else State.postScrubs { s with slice := { s.slice with stage := .scrubbing, scrubs := used } } used

/-- A switch goes on to its next stage when the present one is over (R432): partitions that were reset after a failed stop run no launch and are not saved. -/
def State.advanceSwitch (s : State) : State :=
  match s.slice.target with
  | none => s
  | some (entry, vf) =>
    let outs := match s.slice.vf with | some o => s.partsOf o | none => []
    let stopped (p : Nat) : Bool := match (s.partition p).stop with | .stopped _ _ _ => true | _ => false
    match s.slice.stage with
    | .stopping =>
      if outs.all (fun p => stopped p || !s.runsLaunch p) then
        let saves := outs.filter (fun p => stopped p && s.runsLaunch p)
        let s := { s with slice := { s.slice with stage := .saving } }
        if saves.isEmpty then s.startScrub entry vf else saves.foldl (fun t p => t.postFree (.contextSaveComplete p)) s
      else s
    | .saving => if outs.all (fun p => !s.runsLaunch p) then s.startScrub entry vf else s
    | .scrubbing => if s.slice.scrubs.isEmpty then s.startRestore entry vf else s
    | .restoring => if (s.partsOf vf).all (fun p => !(s.partition p).saved) then s.endSwitch entry vf else s
    | .none => s

/-- A switch to an entry of the table begins (R432): every partition of the outgoing function that runs a launch is stopped. -/
def State.startSwitch (s : State) (entry vf : Nat) : State :=
  let outs := (match s.slice.vf with | some o => s.partsOf o | none => []).filter s.runsLaunch
  let s := { s with slice := { s.slice with target := some (entry, vf), stage := .stopping, scrubs := [] } }
  let s := outs.foldl (fun t p =>
    match (t.partition p).stop with
    | .none => t.postOnce t.now 0 (.partitionStop p)
    | _ => t.setPartition p { t.partition p with stayStopped := true }) s
  s.advanceSwitch

/-- QUANTUM_END (R430 to R432): the next virtual function of the table is switched in, or the package goes back to spatial mode. With no function to run, the package idles until one has a launch; a function whose launches run stays active until a switch (log 39). -/
def execQuantumEnd (s : State) : Host.Outcome State Fault Refusal :=
  if !s.slice.on || s.slice.stage != .none || (s.slice.entry.isSome && decide (s.now < s.slice.quantumEnd)) then .next s
  else if !(s.reg 0x100).getLsbD 0 then
    let saved := (s.parts.filter (fun e => (s.partition e.1).saved)).map Prod.fst
    let s := { s with slice := TimeSlice.off }
    .next ((saved.foldl (fun t p => t.postFree (.contextRestoreComplete p)) s).kickLaunches)
  else
    match s.nextEntry s.slice.entry with
    | none =>
      let runs (vf : Nat) : Bool := s.launches.any (fun e => e.2.vf == vf && s.runs e.2)
      .next { s with slice := { s.slice with entry := none, vf := s.slice.vf.filter runs } }
    | some next =>
      let vf := s.entryVf next
      .next (if s.slice.out = some vf then (s.beginQuantum next vf s.now).kickLaunches else s.startSwitch next vf)

/-- STOP_COMPLETE (R404): at the first ref tick at which nothing is left to wait for, the partition is stopped; a switch goes on. -/
def execStopComplete (part : Nat) (s : State) : Host.Outcome State Fault Refusal :=
  if 128 ≤ part then .fault .noSuchUnit
  else
    match (s.partition part).stop with
    | .requested _ forced =>
      if s.now % tickUnits = 0 ∧ s.partitionRests part = true then .next (s.stopNow part (if forced.isSome then 1 else 0)).advanceSwitch
      else .next (s.postOnce (tickAfter s.now) 0 (.stopComplete part))
    | _ => .next s

/-- CONTEXT_SAVE_COMPLETE (R433, R434): once nothing is on its way to the partition any more (log 52), the block is in the save area and the partition's parts leave the machine. It runs no launch while it is out, so it takes a grant that is pending (R363, R365). -/
def execContextSaveComplete (part : Nat) (s : State) : Host.Outcome State Fault Refusal :=
  if 128 ≤ part then .fault .noSuchUnit
  else
    match (s.partition part).stop with
    | .stopped _ _ _ =>
      if (s.partition part).saved || !s.runsLaunch part then .next s
      else if s.inTransit (s.runningCores part) ((s.launchesOf part).map Prod.fst) then .next (s.postOnce (tickAfter s.now) 0 (.contextSaveComplete part))
      else
        let x := s.saveContext part
        let s := (s.writeSave part).takeOut part
        let s := { s with savedCtx := SMap.put s.savedCtx part x }.setPartition part { s.partition part with saved := true }
        .next (s.takePart part noStamp).advanceSwitch
    | _ => .next s

/-- A scrub of one of some super-groups has still to finish (R439). -/
def State.scrubPending (s : State) (gs : List Nat) : Bool :=
  s.slice.scrubs.any gs.contains || s.partitions.any (fun e => e.2.scrubs.any gs.contains)

/-- CONTEXT_RESTORE_COMPLETE (R436): a saved partition is back; it resumes with the others of its switch, or at the next network edge. It waits for the scrubs of its super-groups, and in spatial mode while another partition runs on them (R439). -/
def execContextRestoreComplete (part : Nat) (s : State) : Host.Outcome State Fault Refusal :=
  if 128 ≤ part then .fault .noSuchUnit
  else
    match SMap.find s.savedCtx part with
    | some x =>
      if !(s.partition part).saved then .next s
      else if (s.toScrub part (s.part part).list).length < (s.part part).list.length || s.scrubPending (s.part part).list then .next (s.postOnce (tickAfter s.now) 0 (.contextRestoreComplete part))
      else
        let s := (s.putBack x).setPartition part { s.partition part with saved := false }
        if s.slice.stage == .restoring then .next s.advanceSwitch
        else .next (if (s.partition part).stayStopped then s else s.postCore (s.netEdgeAfter s.now) 0 (.partitionResume part))
    | none => .next s

/-- SCRUB_COMPLETE (R438, R439): a scrub that a reset, a resize or a switch asked for is done. After a reset's last, the routers pass the partition's packets again, its launches start, and its segments may return to the ring (R344, R357). -/
def execScrubComplete (sg : Nat) (s : State) : Host.Outcome State Fault Refusal :=
  let asked := s.slice.scrubs.contains sg || s.partitions.any (fun e => e.2.scrubs.contains sg)
  if 128 ≤ sg then .fault .noSuchUnit
  else if !asked then .next s
  else
    let s := s.scrubGroup sg
    let s := { s with slice := { s.slice with scrubs := s.slice.scrubs.filter (· != sg) } }
    let s := (SMap.keys s.partitions).foldl (fun t i =>
      let p := t.partition i
      let left := p.scrubs.filter (· != sg)
      let ended := p.resetting && left.isEmpty
      let t := t.setPartition i { p with scrubs := left, resetting := p.resetting && !left.isEmpty }
      if ended then t.setStatus i false 0 else t) s
    .next (if s.slice.stage == .scrubbing then s.advanceSwitch else s).kickRing.kickLaunches

/-! ### Reset (R437, R438) -/

/-- STATUS and FCORE of a launch that a reset ends, as its cores stand before it: 0x0B with the lowest core that a fault has retired, unless a failed stop has given them (R195, R408, R438). -/
def State.forceReset (s : State) (x : Nat × Launch) : State :=
  match x.2.forced with
  | some _ => s
  | none => { s with launches := SMap.put s.launches x.1 { x.2 with forced := some (0x0B, BitVec.ofNat 32 (s.faultedCore x.1 x.2)) } }

/-- Step 5 of R438 for one launch: its log is closed if it is a replay (R454), and it completes with STATUS 0x0B, or with the 0x0A that a failed stop has given it. -/
def State.endByReset (s : State) (n : Nat) (l : Launch) : State :=
  let f := l.forced.getD (0x0B, 0xFFFF_FFFF)
  let s := ({ s with launches := SMap.put s.launches n { l with forced := some f } }.logNotices l.part noStamp).closeReplay n
  match SMap.find s.launches n with
  | some l => s.finishLaunch n l f.1 false
  | none => s

/-- Steps 1 to 4 of R438: the cores of a partition stop, and what its cores, engines, units and contexts had under way is dropped. A saved partition has nothing left in the machine. -/
def State.dropWork (s : State) (part : Nat) : State :=
  let mine (n : Nat) : Bool := s.partOf (s.core n) == some part
  let launches := (s.startedOf part).map Prod.fst
  let pods := if (s.partition part).saved then [] else (s.part part).pods.map Prod.snd
  let pods := pods.filter (fun p => s.toScrub part [p / 8] != [])
  let s := { s with
    reqs := s.reqs.filter (fun x => !mine x.2.core)
    mail := s.mail.filter (fun x => !mine x.2.core)
    xwords := s.xwords.filter (fun x => !mine x.2.target)
    traceOut := s.traceOut.filter (fun x => x.part != part)
    chorus := s.chorus.filter (fun x => !launches.contains (x.1 / 1024))
    releases := s.releases.filter (fun x => !launches.contains x.2.launch) }
  let s := pods.foldl State.clearPod s
  (SMap.keys s.cores).foldl (fun t n => if mine n then t.setCore n { t.core n with run := .off, walker := (t.core n).walkerAhead, held := [], reported := none, var := [], flight := [], trace := [] } else t) s

/-- A reset (R438): work is dropped, the launches complete, and the super-groups are scrubbed, while the routers drop the partition's packets. With nothing to scrub the reset is over at once. -/
def State.resetPartition (s : State) (part : Nat) : State :=
  let e := s.part part
  let gs := s.toScrub part e.list
  let launches := s.startedOf part
  let s := (launches.foldl State.forceReset s).dropWork part
  let s := launches.foldl (fun t x => match SMap.find t.launches x.1 with | some l => t.endByReset x.1 l | none => t) s
  let s := { s with savedCtx := SMap.erase s.savedCtx part }
  let s := s.setPartition part { s.partition part with stop := .none, saved := false, stayStopped := false, resetting := !gs.isEmpty, leaves := s.ring.inLap, scrubs := gs, debug := [] }
  let s := (s.postScrubs gs).setStatus part (!gs.isEmpty) 0
  let s := if gs.isEmpty then s else s.dropQueued e.pid
  (s.afterLaunch part).kickRing.advanceSwitch

/-- PARTITION_RESET (R437, R438). -/
def execPartitionReset (part : Nat) (s : State) : Host.Outcome State Fault Refusal :=
  if 128 ≤ part then .fault .noSuchUnit
  else if (s.partition part).resetting || !(s.part part).valid then .next s
  else .next (s.resetPartition part)

/-! ### Replay (R453) -/

/-- PARTITION_REPLAY (R453): the logged block starts as a launch from a queue; a log with OVF or a wrong MAGIC is refused. -/
def execPartitionReplay (part queue : Nat) (s : State) : Host.Outcome State Fault Refusal :=
  if 128 ≤ part then .fault .noSuchUnit
  else
    let e := s.queueEntry queue
    let p := s.part part
    let bad := s.logWord part 0 4 ≠ 0x474F4C52 ∨ (s.logWord part 8 1).testBit 0 = true ∨ ¬(p.valid = true ∧ e.valid = true ∧ e.pid = p.pid ∧ e.vf = p.vf)
    if bad then .next (s.setStatus part false 2)
    else
      let block := bytesOf 64 (s.logWord part 128 64) ++ bytesOf 64 (s.logWord part 192 64)
      s.admitted part (.partitionReplay part queue) fun s =>
        .next ((s.setStatus part false 0).enterLaunch (Launch.fresh block part p.vf queue true))

end Sys2Proof.Machine
end

