-- ==== Sys2Proof/Machine/Package.lean ====
section
/-! DEFINITION. The package's registers as the driver and the hypervisor write them, readiness, spares, invalidations, host writes to the windows, Fjoel links and the package reset (R10, R405, R421, R430, R431, R440, R444, R452, R456 to R469). -/

namespace Sys2Proof.Machine

/-! ### Invalidations (R421) -/

/-- INVCNT of a function's page counted up: commands posted, or commands completed (R459). -/
def State.countInvalidation (s : State) (vf : Nat) (completed : Bool) : State :=
  let k := 4096 * vf + 0x38
  let w := SMap.get (fun _ => (0 : Word)) s.vfPages k
  let posted := bitsOf w 31 0
  let done := bitsOf w 63 32
  let w : Nat := if completed then (done + 1) % 2 ^ 32 * 2 ^ 32 + posted else done * 2 ^ 32 + (posted + 1) % 2 ^ 32
  { s with vfPages := SMap.set (fun _ => 0) s.vfPages k (BitVec.ofNat 64 w) }

/-- An invalidation posted: its completion word is the one that INVDONE of the same page names now, and the time it takes is open (R421, R459; log 21). -/
def State.postInvalidation (s : State) (guest : Bool) (op space vf addr : Nat) : State :=
  let id := s.nextId
  let done := if guest then SMap.get (fun _ => (0 : Word)) s.vfPages (4096 * vf + 0x30) else s.invDone
  let s := { s with invs := SMap.put s.invs id ⟨op, space, vf, addr, done, guest, false, []⟩, nextId := id + 1 }
  (if guest then s.countInvalidation vf false else s).postFree (.invalidationComplete id)

/-- The page that an invalidation of OP 1 names: its address within the bits that its space translates (R415, R421). -/
def Invalidation.page (x : Invalidation) : Nat :=
  x.addr % 2 ^ (match x.space with | 0 => 48 | 1 => 44 | _ => 52) / 2 ^ pageBits x.space

/-- Whether an invalidation names the translation of a page: its space, whether it is of stage 1, and the page (R421). -/
def Invalidation.names (x : Invalidation) (e : Nat × Bool × Nat) : Bool :=
  match x.op with
  | 1 => e.2.1 && e.1 == x.space && e.2.2 == x.page
  | 2 => e.2.1
  | 3 => !e.2.1 && e.1 == x.space && e.2.2 == x.addr % 2 ^ 36
  | 4 => !e.2.1
  | _ => false

/-- Whether an invalidation covers a kept leaf (R421). -/
def Invalidation.covers (x : Invalidation) (e : CachedLeaf) : Bool := e.vf == x.vf && x.names (e.space, e.stage1, e.page)

/-- Whether a request has been translated at its destination and has no response yet. -/
def Req.served (r : Req) : Bool :=
  match r.stage with
  | .answered _ | .armed _ _ | .atHost _ | .behind _ | .handing _ => true
  | _ => false

/-- Whether a request that awaits its response has used an entry that an invalidation covers (R421). -/
def State.usesEntry (s : State) (x : Invalidation) (r : Req) : Bool := r.served && s.vfOf r.core == x.vf && r.used.any x.names

/-- The completion word counts up, as a release at system scope (R421). -/
def State.countDone (s : State) (x : Invalidation) : State :=
  if x.guest then
    let k := s.unitKey 0 x.vf none x.done 8 true true
    match k.1 with
    | .ok key => k.2.deviceStore key 8 ((Memory.readLE k.2.mem key 8 + 1) % 2 ^ 64)
    | .error _ => k.2
  else s.deviceStore (hbmKey x.done.toNat) 8 ((Memory.readLE s.mem (hbmKey x.done.toNat) 8 + 1) % 2 ^ 64)

/-- INV_STAGE1_PAGE (R421): a guest's command through its function page. -/
def execInvStage1Page (vf space : Nat) (va : Word) (s : State) : Host.Outcome State Fault Refusal :=
  if 192 ≤ vf then .fault .noSuchUnit else .next (s.postInvalidation true 1 space vf va.toNat)

/-- INV_STAGE1_ALL (R421): a guest's command through its function page. -/
def execInvStage1All (vf : Nat) (s : State) : Host.Outcome State Fault Refusal :=
  if 192 ≤ vf then .fault .noSuchUnit else .next (s.postInvalidation true 2 0 vf 0)

/-- INV_STAGE2_FRAME (R421): the hypervisor's command. -/
def execInvStage2Frame (vf space : Nat) (frame : Word) (s : State) : Host.Outcome State Fault Refusal :=
  if 192 ≤ vf then .fault .noSuchUnit else .next (s.postInvalidation false 3 space vf frame.toNat)

/-- INV_STAGE2_ALL (R421): the hypervisor's command. -/
def execInvStage2All (vf : Nat) (s : State) : Host.Outcome State Fault Refusal :=
  if 192 ≤ vf then .fault .noSuchUnit else .next (s.postInvalidation false 4 0 vf 0)

/-- INVALIDATION_COMPLETE (R421): matching entries are dropped; once every access that had used one has its response, the completion word counts up. -/
def execInvalidationComplete (inv : Nat) (s : State) : Host.Outcome State Fault Refusal :=
  match SMap.find s.invs inv with
  | none => .next s
  | some x =>
    let x := if x.dropped then { x with waits := x.waits.filter (fun r => (s.req r).any Req.served) }
      else { x with dropped := true, waits := (s.reqs.filter (fun e => s.usesEntry x e.2)).map Prod.fst }
    let s := { s with tcache := s.tcache.filter (fun e => !x.covers e), invs := SMap.put s.invs inv x }
    if !x.waits.isEmpty then .next (s.postOnce (tickAfter s.now) 0 (.invalidationComplete inv))
    else
      let s := { s with invs := SMap.erase s.invs inv }
      let s := if x.guest then s.countInvalidation x.vf true else s
      .next (s.countDone x)

/-! ### Readiness (R460) -/

/-- A READY bit exists: super-groups in READY0 and READY1, and the fields of READY2 (R457, R460). -/
def readyBit (reg bit : Nat) : Bool := decide (reg < 2 ∧ bit < 64) || decide (reg = 2 ∧ bit < 50)

/-- UP of a link's LSTAT (R469). -/
def State.setLinkUp (s : State) (port : Nat) (up : Bool) : State :=
  let off := 0x452010 + 64 * port
  s.setReg off (BitVec.ofNat 64 ((s.reg off).toNat / 2 * 2 + (if up then 1 else 0)))

/-- The super-groups whose routers lie on the paths between a router of a die and the ring station at router 1, in both directions (R237, R460). -/
def stationPaths (r : Nat) : List Nat :=
  let x := r % 4
  let y := r / 4
  let columns := (List.range 4).filter (fun c => decide (min x 1 ≤ c) && decide (c ≤ max x 1))
  columns.map (4 * y + ·) ++ columns ++ (List.range (y + 1)).flatMap (fun i => [4 * i + 1, 4 * i + x])

/-- Whether a super-group is ready: it has passed its bring-up, and so have the routers on its paths to the ring station and the HBM stacks of its die (R236, R460; log 56). -/
def State.groupReady (s : State) (g : Nat) : Bool :=
  let d := g / 16
  s.sgUp.getLsbD g && (stationPaths (g % 16)).all (fun r => s.sgUp.getLsbD (16 * d + r)) &&
    (s.reg 0x10).getLsbD (8 + 2 * d) && (s.reg 0x10).getLsbD (9 + 2 * d)

/-- READY0 and READY1 as the functions that have come up make them (R460). -/
def State.settleReady (s : State) : State :=
  let word (k : Nat) : Word := BitVec.ofNat 64 (packLanes 1 ((List.range 64).map (fun i => if s.groupReady (64 * k + i) then 1 else 0)))
  (s.setReg 0 (word 0)).setReg 8 (word 1)

/-- A function in service or out of it (R460). -/
def State.setReady (s : State) (reg bit : Nat) (up : Bool) : State :=
  let s :=
    if reg < 2 then
      let m : BitVec 128 := BitVec.ofNat 128 (2 ^ (64 * reg + bit))
      { s with sgUp := if up then s.sgUp ||| m else s.sgUp &&& ~~~m }
    else
      let m : Word := BitVec.ofNat 64 (2 ^ bit)
      s.setReg 0x10 (if up then s.reg 0x10 ||| m else s.reg 0x10 &&& ~~~m)
  s.settleReady

/-- UNIT_READY (R460): the function has passed its bring-up. -/
def execUnitReady (reg bit : Nat) (s : State) : Host.Outcome State Fault Refusal :=
  if !readyBit reg bit then .fault .noSuchUnit
  else
    let s := s.setReady reg bit true
    let s := if reg = 2 ∧ 26 ≤ bit then s.setLinkUp (bit - 26) true else s
    .next s.kickRing.kickLaunches

/-- Requests on a link fail as it goes down (R410). -/
def State.dropLink (s : State) (port : Nat) : State :=
  s.reqs.foldl (fun t e =>
    match e.2.stage, t.placeOf e.2 with
    | .onLink _, .remote p =>
      let via := natBits (t.reg (0x450000 + p / 8 * 8)).toNat (8 * (p % 8) + 7) (8 * (p % 8))
      if via = port then t.fail e.1 0x1D (e.2.qual 0x00) else t
    | _, _ => t) s

/-- A link goes down (R410, R460, R469). -/
def State.linkDown (s : State) (port : Nat) : State := ((s.setReady 2 (26 + port) false).setLinkUp port false).dropLink port

/-- UNIT_NOT_READY (R460, R410). -/
def execUnitNotReady (reg bit : Nat) (s : State) : Host.Outcome State Fault Refusal :=
  if !readyBit reg bit then .fault .noSuchUnit
  else .next (if reg = 2 ∧ 26 ≤ bit then s.linkDown (bit - 26) else s.setReady reg bit false)

/-! ### Spares (R440, R461) -/

/-- A count of the error and wear region goes up in its high half, saturating (R461). -/
def State.countWear (s : State) (off : Nat) : State :=
  let w := s.reg (0x500000 + off)
  s.setReg (0x500000 + off) (BitVec.ofNat 64 (min (2 ^ 32 - 1) (bitsOf w 63 32 + 1) * 2 ^ 32 + bitsOf w 31 0))

/-- A super-group is at a slice boundary: it holds no core of a running launch, or its partition's context is saved (R440). -/
def State.atBoundary (s : State) (g : Nat) : Bool := s.launches.all (fun e => !s.runs e.2 || !(s.groupsOf e.2).contains g)

/-- Whether a unit may be swapped for a spare now (R461): kinds 0 core, 1 engine slice, 2 HBM row, 3 pseudo-channel, 4 ring lane, 5 Fjoel lane. Each page of HBM is spread over every channel (R236), so each running launch uses every stack. -/
def State.mayswap (s : State) (kind unit : Nat) : Bool :=
  match kind with
  | 0 => s.atBoundary (unit / 64)
  | 1 => s.atBoundary (unit / 64)
  | 3 => s.launches.all (fun e => !s.runs e.2)
  | 5 => !(s.reg 0x10).getLsbD (26 + unit / 5)
  | _ => true

/-- The units of a kind, those of one group, and the positions of a group that are its spares at reset, from the first to the last (R440, R461). -/
def spareRange (kind : Nat) : Option (Nat × Nat × Nat × Nat) :=
  match kind with
  | 0 => some (8192, 64, 64, 67)
  | 1 => some (8192, 8, 8, 8)
  | 2 => some (16, 1, 0, 2 ^ 20 - 1)
  | 3 => some (512, 32, 32, 33)
  | 4 => some (3264, 408, 384, 407)
  | 5 => some (120, 5, 4, 4)
  | _ => none

/-- Whether a spare is one of a unit's own: each 16 of the 384 lanes that a hop works with have one, at positions 384 to 407 in their order (R356; log 42). -/
def ownSpare (kind unit spare : Nat) : Bool := kind != 4 || (decide (unit % 408 < 384) && decide (spare = 384 + unit % 408 / 16))

/-- A spare of a unit's group that stands in for no other unit of it. -/
def State.spareFree (s : State) (kind group unit spare : Nat) : Bool :=
  (s.spares ++ s.ring.lanes).all (fun e => !(e.1 / 2 ^ 20 = kind && e.1 % 2 ^ 20 / group = unit / group && e.2 = spare))

/-- The spare lane of a port in use: which code LSTAT then shows in its three bits is open (R469). -/
def State.useLane (s : State) (port : Nat) : State :=
  let off := 0x452010 + 64 * port
  let f := s.takeFree
  f.2.setReg off (setBits (f.2.reg off) 3 1 (Config.freeWord f.1).toNat)

/-- SPARE_SWAP (R440, R461): a free spare of the unit's group takes over its identity, so nothing that is named by logical number changes; a ring lane's mapping waits for the next lap start (R356). A swap that its rule does not allow is not made. -/
def execSpareSwap (kind unit spare : Nat) (s : State) : Host.Outcome State Fault Refusal :=
  match spareRange kind with
  | none => .fault .noSuchUnit
  | some (units, group, first, last) =>
    let key := 2 ^ 20 * kind + unit
    if units ≤ unit then .fault .noSuchUnit
    else if spare < first ∨ last < spare ∨ !ownSpare kind unit spare ∨ !s.mayswap kind unit ∨ !s.spareFree kind group unit spare then .next s
    else if kind = 4 then
      let s := { s with ring := { s.ring with lanes := s.ring.lanes ++ [(key, spare)] } }
      .next (if s.ring.inLap then s else s.takeLanes)
    else
      let s := { s with spares := SMap.put s.spares key spare }
      match kind with
      | 2 => .next (s.countWear (0x24100 + 8 * unit))
      | 5 => .next (s.useLane (unit / 5))
      | _ => .next s

/-- A corrected error counted in an entry of the error and wear region, and in the sum of its die (R397, R461): wear counts it too, but for HBM rows and lanes. -/
def State.countCorrected (s : State) (entry : Nat) : State :=
  let off := 8 * entry
  let up (t : State) (k : Nat) : State :=
    let w := t.reg (0x500000 + k)
    t.setReg (0x500000 + k) (BitVec.ofNat 64 (bitsOf w 63 32 * 2 ^ 32 + min (2 ^ 32 - 1) (bitsOf w 31 0 + 1)))
  let die :=
    if off < 0x11000 then entry / 68 / 16
    else if off < 0x23000 then (entry - 0x11000 / 8) / 9 / 128
    else if off < 0x24100 then (entry - 0x23000 / 8) / 34 / 2
    else if off < 0x24180 then (entry - 0x24100 / 8) / 2
    else if off < 0x2A780 then (entry - 0x24180 / 8) / 408
    else (entry - 0x2A780 / 8) / 5 / 3
  if 0x2AB40 ≤ off then s
  else
    let s := up (up s off) (0x2AF40 + 8 * die)
    if off < 0x24100 then s.countWear off else s

/-! ### Host writes to a coherent window (R291, R451 to R453) -/

/-- The launches that hold host writes to a die's window: deterministic ones and replays, running, with a core of their range on the die (R452, R453). -/
def State.holdersOf (s : State) (die : Nat) : List Nat := (s.launches.filter (fun e => (e.2.flag 0 || e.2.replay) && s.runsOnDie e.2 die)).map Prod.fst

/-- HOST_WINDOW_WRITE (R452): the bytes of one aligned 8-byte word, behind the writes to the die that are held or wait. A die holds 256, and the others wait at the host port. -/
def execHostWindowWrite (die off : Nat) (mask : Byte) (value : Word) (s : State) : Host.Outcome State Fault Refusal :=
  if 8 ≤ die ∨ 2 ^ 20 ≤ off ∨ off % 8 ≠ 0 then .fault .noSuchUnit
  else .next (State.applyWrites { s with heldWrites := s.heldWrites ++ [⟨s.holdersOf die, die, off, mask, value⟩] } noStamp 0)

/-! ### Fjoel links (R410, R467 to R469) -/

/-- A lane whose retries are exhausted is taken out of service: the port's spare stands in for it, and a port without one goes down (R461; log 42). -/
def State.loseLane (s : State) (port lane : Nat) : State :=
  let key := 2 ^ 20 * 5 + (5 * port + lane)
  if s.spareFree 5 5 (5 * port + lane) 4 then State.useLane { s with spares := SMap.put s.spares key 4 } port else s.linkDown port

/-- The package that a transaction is bound for: the one its address names, or the one that asked (R235, R468). -/
def linkTarget (m : LinkMsg) : Nat :=
  match m with
  | .request _ _ _ addr _ | .withdraw _ _ addr => bitsOf addr 43 31
  | .freed pkg _ | .response pkg _ _ _ | .failure pkg _ _ _ => pkg

/-- The request of this package that a transaction carries or answers. -/
def State.answeredBy (s : State) (m : LinkMsg) : Option (Nat × Req) :=
  let mine (pkg id : Nat) : Option (Nat × Req) :=
    if pkg = s.pkg then ((s.req id).filter (fun q => match q.stage with | .onLink _ => true | _ => false)).map (fun q => (id, q)) else none
  match m with
  | .freed pkg id | .response pkg id _ _ | .failure pkg id _ _ | .request pkg _ id _ _ | .withdraw pkg id _ => mine pkg id

/-- A flit that failed its check on a port's lane, on its way in or from this port's replay buffer: each replay is counted, and beyond LRETRY the transaction it carries fails and the lane is lost (R410, R461, R467, R469). -/
def State.badFlit (s : State) (port : Nat) (msg : LinkMsg) : State :=
  let off := 0x452010 + 64 * port
  let tries := SMap.get (fun _ => 0) s.linkTries port + 1
  let w := s.reg off
  let f := s.takeFree
  let s := f.2
  let lane := Config.latency f.1 % 4
  if tries ≤ max 1 (bitsOf (s.reg (0x452008 + 64 * port)) 3 0) then
    let s := s.setReg off (setBits w 63 32 (min (2 ^ 32 - 1) (bitsOf w 63 32 + 1)))
    let s := s.countWear (0x2A780 + 8 * (5 * port + SMap.get (fun _ => lane) s.spares (2 ^ 20 * 5 + (5 * port + lane))))
    { s with linkTries := SMap.set (fun _ => 0) s.linkTries port tries }
  else
    let s := { s with linkTries := SMap.erase s.linkTries port }
    let s := match s.answeredBy msg with | some (id, q) => s.fail id 0x1D (q.qual 0x02) | none => s
    s.loseLane port lane

/-- A request of another package as the slice it names sees it (R234, R468): its answers leave by the port toward that package. -/
def remoteReq (core port pkg pid req : Nat) (addr : Word) (op : ReqOp) : Req where
  core := core
  client := .remote port pkg pid req
  seq := 0
  op := op
  near := false
  ea := addr
  acquire := false
  release := none
  blocks := false
  handler := false
  result := none
  dst := none
  dst2 := none
  vec := none
  reg := 0
  opc := 0
  cls := none
  writes := op.changes
  sentAt := 0
  cycles := 0
  stage := .sent
  withdrawn := false

/-- A transaction that has come in over a link goes into the mesh at its die's hub (R456, R468): a request as a request at the slice it names, and one for another package toward the hub of the link that leads there. -/
def State.fromLink (s : State) (port : Nat) (msg : LinkMsg) : State :=
  let hub := routerOfHub (port / 3)
  let edge := s.netEdgeAfter s.now
  let send (vc n : Nat) (pid : Byte) (dest : Nat × Nat) : State := s.inject edge hub.1 hub.2 (packetOf (.remote port msg) vc n pid dest)
  if linkTarget msg ≠ s.pkg then
    let n := match msg with | .request _ _ _ _ op => op.payload | .response _ _ _ _ => 64 | _ => 0
    send (match msg with | .request _ _ _ _ _ | .withdraw _ _ _ => 0 | _ => 2) n 0xFF (match s.linkTo (linkTarget msg) with | some p => routerOfHub (p / 3) | none => hub)
  else
    match msg with
    | .request pkg pid req addr op =>
      match globalPlace s.pkg addr with
      | .slice c _ =>
        let id := s.nextId
        let t := State.setReq { s with nextId := id + 1 } id (remoteReq c ((s.linkTo pkg).getD port) pkg pid req addr op)
        t.inject edge hub.1 hub.2 (packetOf (.request id) 0 op.payload (BitVec.ofNat 8 pid) (routerOfCore c, 0))
      | _ => s
    | .withdraw _ _ addr =>
      match globalPlace s.pkg addr with
      | .slice c _ => send 0 0 0xFF (routerOfCore c, 0)
      | _ => s
    | _ =>
      match s.answeredBy msg with
      | some (_, q) => send 2 q.replySize (s.pidOf q.core) (routerOfCore q.core, 0)
      | none => s

/-- A transaction delivered at the end of its way through this package: it goes out over the next link, a withdrawal frees an entry that is still armed, and an answer reaches the interface of its core (R265, R468). -/
def State.linkDeliver (s : State) (port : Nat) (msg : LinkMsg) : State :=
  if linkTarget msg ≠ s.pkg then
    match s.linkTo (linkTarget msg), msg with
    | some p, m => s.putLink p m
    | none, .request pkg _ req _ op => s.putLink port (.failure pkg req 0x1D (if op.changes then 0x80 else 0x00))
    | none, _ => s
  else
    match msg with
    | .request _ _ _ _ _ => s
    | .withdraw pkg req _ =>
      let armed (r : Req) : Bool := match r.client, r.stage with
        | .remote _ p _ q, .armed _ _ | .remote _ p _ q, .sent => p = pkg && q = req
        | _, _ => false
      match s.reqs.find? (fun e => armed e.2) with
      | some (id, _) => (s.dropReq id).putLink port (.freed pkg req)
      | none => s
    | .freed _ _ => (match s.answeredBy msg with | some (id, q) => s.endWaita q.core id q | none => s)
    | .response _ _ value status =>
      (match s.answeredBy msg with
      | some (id, q) => (s.setReq id { q with stage := .answered (.ok value status) }).postCore s.now q.core (.responseArrival id)
      | none => s)
    | .failure _ _ code qual =>
      (match s.answeredBy msg with
      | some (id, q) => (s.setReq id { q with stage := .answered (.fail code qual) }).postCore s.now q.core (.responseArrival id)
      | none => s)

/-- LINK_FLIT_ARRIVAL (R467): a transaction at port `port`; with 32 added, the transaction that came in by that port, at its destination in this package. -/
def execLinkFlitArrival (port : Nat) (crcOk : Bool) (msg : LinkMsg) (s : State) : Host.Outcome State Fault Refusal :=
  if port < 24 then
    if !(s.reg 0x10).getLsbD (26 + port) then .next s
    else if !crcOk then .next (s.badFlit port msg)
    else .next (State.fromLink { s with linkTries := SMap.erase s.linkTries port } port msg)
  else if 32 ≤ port ∧ port < 56 then .next (s.linkDeliver (port - 32) msg)
  else .fault .noSuchUnit

/-! ### Register writes (R10, R457 to R459) -/

/-- The partition that a partition page speaks for: a committed entry with its id, of the active virtual function where several share it (R428, R458). -/
def State.pagePart (s : State) (pid : Nat) : Option Nat :=
  let mine := s.parts.filter (fun e => e.2.valid && e.2.pid.toNat == pid)
  match mine.find? (fun e => s.activeVf == some e.2.vf) with
  | some e => some e.1
  | none => (mine.head?).map Prod.fst

/-- The commands of PCMD (R458). -/
def State.pageCommand (s : State) (part : Nat) (value : Word) : Host.Outcome State Fault Refusal :=
  match bitsOf value 7 0 with
  | 1 => execPartitionStop part s
  | 2 => execPartitionResume part s
  | 3 => execPartitionReset part s
  | 4 => execPartitionReplay part (bitsOf value 31 16) s
  | _ => .next s

/-- FQCTL as written: the log2 of the entries and HEAD (R458). -/
def queueControl (value : Word) : Word := value &&& (fieldMask 4 0 ||| fieldMask 63 32)

/-- The watchdogs of a partition's Chorus units held to its limit as it now stands (R211, R411). -/
def State.rewatch (s : State) (part : Nat) : State :=
  let limit := 2 ^ bitsOf (s.page part 0x10) 5 0 * tickUnits
  let launches := (s.launchesOf part).map Prod.fst
  let stopped : Bool := match (s.partition part).stop with | .stopped _ _ _ => true | _ => false
  if stopped then s
  else
    s.chorus.foldl (fun t e =>
      match e.2.stuck with
      | some since =>
        if launches.contains (e.1 / 1024) then t.postCore (max t.now (since + limit)) 0 (.chorusWatchdog (e.1 / 1024) (e.1 / 256 % 4) (e.1 % 256)) else t
      | none => t) s

/-- A write to a register of a partition page (R405, R441, R444, R450, R458). -/
def State.pageWrite (s : State) (pid off : Nat) (value : Word) : Host.Outcome State Fault Refusal :=
  let a := pageOff pid off
  let put (x : Word) : Host.Outcome State Fault Refusal := .next (s.setReg a x)
  if 0x1000 ≤ off ∧ off < 0x2000 then put value
  else
    match off with
    | 0x00 =>
      let t := s.setReg a (BitVec.ofNat 64 (max 0x400 (bitsOf value 26 0)))
      .next (match s.pagePart pid with | some p => t.rearmStop p | none => t)
    | 0x08 => put (value &&& 1)
    | 0x10 =>
      if 12 ≤ bitsOf value 5 0 ∧ bitsOf value 5 0 ≤ 32 then
        let t := s.setReg a (BitVec.ofNat 64 (bitsOf value 5 0))
        .next (match s.pagePart pid with | some p => t.rewatch p | none => t)
      else .next s
    | 0x18 => put (BitVec.ofNat 64 (bitsOf value 31 0))
    | 0x20 => put value
    | 0x28 => put (BitVec.ofNat 64 (bitsOf value 31 0))
    | 0x40 =>
      let fresh := bitsOf (s.reg a) 5 0 = 0 ∧ bitsOf value 5 0 ≠ 0
      let s := if fresh then s.setReg (pageOff pid 0x30) 0 else s
      .next (s.setReg a (value &&& 0x13F))
    | 0x48 => put value
    | 0x50 => put value
    | 0x58 => put value
    | 0x60 => put value
    | 0x68 => put (queueControl value)
    | 0x78 => match s.pagePart pid with | some p => s.pageCommand p value | none => .next s
    | 0x88 => put (value &&& (fieldMask 17 0 ||| fieldMask 63 32))
    | 0x90 => match s.pagePart pid with | some p => execDbgWrite p value s | none => .next s
    | _ => .next s

/-- A write to the quantum table (R431). -/
def State.quantumWrite (s : State) (off : Nat) (value : Word) : State :=
  let old := s.reg off
  let vf := if bitsOf value 39 32 ≤ 191 then bitsOf value 39 32 else bitsOf old 39 32
  let w := bitsOf value 63 63 * 2 ^ 63 + vf * 2 ^ 32 + max 200000 (bitsOf value 31 0)
  (s.setReg off (BitVec.ofNat 64 w)).kickLaunches

/-- The command in the 16 bytes of an INVCMD, whose second half is being written (R421). -/
def State.commandWrite (s : State) (guest : Bool) (vf : Nat) (low high : Word) : State :=
  let op := bitsOf low 7 0
  if guest then (if op = 3 ∨ op = 4 then s else s.postInvalidation true op (bitsOf low 15 8) vf high.toNat)
  else s.postInvalidation false op (bitsOf low 15 8) (bitsOf low 31 16) high.toNat

/-- Two outcomes in turn: a fault or a refusal of the first is the result. -/
def thenDo (r : Host.Outcome State Fault Refusal) (f : State → Host.Outcome State Fault Refusal) : Host.Outcome State Fault Refusal :=
  match r with
  | .next s => f s
  | .fault x => .fault x
  | .refused x => .refused x

/-- A write to the physical function's BAR0 (R457). -/
def State.physicalWrite (s : State) (off : Nat) (value : Word) : Host.Outcome State Fault Refusal :=
  let put (x : Word) : Host.Outcome State Fault Refusal := .next (s.setReg off x)
  if 0x1000000 ≤ off ∧ off < 0x13FC000 then s.pageWrite ((off - 0x1000000) / 0x4000) (off % 0x4000) value
  else if off = 0x100 then .next (s.setReg off (value &&& 1)).kickLaunches
  else if off = 0x108 then .next (s.setReg off (value &&& fieldMask 32 0)).kickRing
  else if off = 0x118 then put (value &&& 0xFFFF)
  else if off = 0x120 then execPartitionCommit value s
  else if 0x10000 ≤ off ∧ off < 0x11000 then put value
  else if 0x11000 ≤ off ∧ off < 0x11200 then .next (s.quantumWrite off value)
  else if 0x11200 ≤ off ∧ off < 0x11E00 then put value
  else if 0x12000 ≤ off ∧ off < 0x13800 then
    let vf := (off - 0x12000) / 32
    let entry := off % 32 / 4
    thenDo (execVptWrite vf entry (BitVec.ofNat 32 (bitsOf value 31 0)) s) (execVptWrite vf (entry + 1) (BitVec.ofNat 32 (bitsOf value 63 32)))
  else if 0x14000 ≤ off ∧ off < 0x14C00 then put value
  else if 0x200000 ≤ off ∧ off < 0x400000 then (if off % 32 = 16 then .next s else put value)
  else if 0x400000 ≤ off ∧ off < 0x440000 then put value
  else if 0x440000 ≤ off ∧ off < 0x450000 then put (value &&& 0x007F_007F_007F_007F)
  else if 0x450000 ≤ off ∧ off < 0x452000 then put value
  else if 0x452000 ≤ off ∧ off < 0x452600 then
    match off % 64 with
    | 0 => put (if value.toNat < 0x1000 then 0x1000 else value)
    | 8 => put (value &&& 0xF)
    | _ => .next s
  else if off = 0x470000 then .next { s with cmdLow := SMap.set (fun _ => 0) s.cmdLow 0 value }
  else if off = 0x470008 then .next (s.commandWrite false 0 (SMap.get (fun _ => 0) s.cmdLow 0) value)
  else if off = 0x470010 then .next { s with invDone := value }
  else if off = 0x470020 then put value
  else if off = 0x470028 then put (queueControl value)
  else if 0x480000 ≤ off ∧ off < 0x481000 then put (value &&& 0x03FF_03FF_03FF_03FF)
  else .next s

/-- A write to a virtual function's BAR0: its doorbells and its function page (R459, R463). -/
def State.functionWrite (s : State) (vf off : Nat) (value : Word) : Host.Outcome State Fault Refusal :=
  let put (o : Nat) (x : Word) : State := { s with vfPages := SMap.set (fun _ => 0) s.vfPages (4096 * vf + o) x }
  if off < 0x80000 then execWorkQueueDoorbell vf (off / 8) value s
  else
    match off with
    | 0x100000 => .next (put 0x00 (value &&& fieldMask 35 0))
    | 0x100008 => .next (put 0x08 (value &&& fieldMask 35 0))
    | 0x100010 => .next (put 0x10 (value &&& fieldMask 35 0))
    | 0x100020 => .next { s with cmdLow := SMap.set (fun _ => 0) s.cmdLow (vf + 1) value }
    | 0x100028 => .next (s.commandWrite true vf (SMap.get (fun _ => 0) s.cmdLow (vf + 1)) value)
    | 0x100030 => .next (put 0x30 value)
    | _ => .next s

/-- REGISTER_WRITE (R10, R457 to R459): 64 bits at an offset of a register block: block 0 is the physical function's BAR0 and block v + 1 that of virtual function v. A register with behaviour of its own shows it; a read-only register and an offset that names none keep what they hold. -/
def execRegisterWrite (block off : Nat) (value : Word) (s : State) : Host.Outcome State Fault Refusal :=
  if 193 ≤ block then .fault .noSuchUnit
  else if off % 8 ≠ 0 then .next s
  else if block = 0 then s.physicalWrite off value
  else s.functionWrite (block - 1) off value

/-! ### Package reset (R460) -/

/-- PACKAGE_RESET (R460): every register, table, cap, lap counter and grant takes its reset value; the bytes of the memories and the package's number and time stay. Bring-up follows in events of its own. -/
def execPackageReset (s : State) : Host.Outcome State Fault Refusal :=
  .next { State.reset with now := s.now, free := s.free, mem := s.mem, badWords := s.badWords, pkg := s.pkg }

end Sys2Proof.Machine
end

