-- ==== Sys2Proof/Machine/Dispatch.lean ====
section
/-! DEFINITION. What each step of the machine means: one arm for each row of the opcode table. -/

namespace Sys2Proof.Machine

/-- The effect of one instruction or event. -/
def exec (i : Instr) (s : State) : Host.Outcome State Fault Refusal :=
  match i with
  | .j t => Sys2Proof.Machine.execJ t s
  | .jr t => Sys2Proof.Machine.execJr t s
  | .call t => Sys2Proof.Machine.execCall t s
  | .callr t => Sys2Proof.Machine.execCallr t s
  | .loop t => Sys2Proof.Machine.execLoop t s
  | .rep t => Sys2Proof.Machine.execRep t s
  | .trap t => Sys2Proof.Machine.execTrap t s
  | .mfc t => Sys2Proof.Machine.execMfc t s
  | .mtc t => Sys2Proof.Machine.execMtc t s
  | .gd t => Sys2Proof.Machine.execGd t s
  | .fmt t => Sys2Proof.Machine.execFmt t s
  | .add t => Sys2Proof.Machine.execAdd t s
  | .sub t => Sys2Proof.Machine.execSub t s
  | .mul t => Sys2Proof.Machine.execMul t s
  | .mulh t => Sys2Proof.Machine.execMulh t s
  | .div t => Sys2Proof.Machine.execDiv t s
  | .rem t => Sys2Proof.Machine.execRem t s
  | .and t => Sys2Proof.Machine.execAnd t s
  | .or t => Sys2Proof.Machine.execOr t s
  | .xor t => Sys2Proof.Machine.execXor t s
  | .andn t => Sys2Proof.Machine.execAndn t s
  | .orn t => Sys2Proof.Machine.execOrn t s
  | .shl t => Sys2Proof.Machine.execShl t s
  | .shr t => Sys2Proof.Machine.execShr t s
  | .sar t => Sys2Proof.Machine.execSar t s
  | .rol t => Sys2Proof.Machine.execRol t s
  | .ror t => Sys2Proof.Machine.execRor t s
  | .min t => Sys2Proof.Machine.execMin t s
  | .max t => Sys2Proof.Machine.execMax t s
  | .adds t => Sys2Proof.Machine.execAdds t s
  | .subs t => Sys2Proof.Machine.execSubs t s
  | .abs t => Sys2Proof.Machine.execAbs t s
  | .neg t => Sys2Proof.Machine.execNeg t s
  | .clz t => Sys2Proof.Machine.execClz t s
  | .ctz t => Sys2Proof.Machine.execCtz t s
  | .popc t => Sys2Proof.Machine.execPopc t s
  | .brev t => Sys2Proof.Machine.execBrev t s
  | .bswap t => Sys2Proof.Machine.execBswap t s
  | .cmp t => Sys2Proof.Machine.execCmp t s
  | .sel t => Sys2Proof.Machine.execSel t s
  | .bfx t => Sys2Proof.Machine.execBfx t s
  | .bfi t => Sys2Proof.Machine.execBfi t s
  | .bset t => Sys2Proof.Machine.execBset t s
  | .bclr t => Sys2Proof.Machine.execBclr t s
  | .btgl t => Sys2Proof.Machine.execBtgl t s
  | .clmul t => Sys2Proof.Machine.execClmul t s
  | .clmulh t => Sys2Proof.Machine.execClmulh t s
  | .addImm t => Sys2Proof.Machine.execAddImm t s
  | .mulImm t => Sys2Proof.Machine.execMulImm t s
  | .andImm t => Sys2Proof.Machine.execAndImm t s
  | .orImm t => Sys2Proof.Machine.execOrImm t s
  | .xorImm t => Sys2Proof.Machine.execXorImm t s
  | .shlImm t => Sys2Proof.Machine.execShlImm t s
  | .shrImm t => Sys2Proof.Machine.execShrImm t s
  | .sarImm t => Sys2Proof.Machine.execSarImm t s
  | .rolImm t => Sys2Proof.Machine.execRolImm t s
  | .rorImm t => Sys2Proof.Machine.execRorImm t s
  | .minImm t => Sys2Proof.Machine.execMinImm t s
  | .maxImm t => Sys2Proof.Machine.execMaxImm t s
  | .addsImm t => Sys2Proof.Machine.execAddsImm t s
  | .cmpImm t => Sys2Proof.Machine.execCmpImm t s
  | .bsetImm t => Sys2Proof.Machine.execBsetImm t s
  | .bclrImm t => Sys2Proof.Machine.execBclrImm t s
  | .btglImm t => Sys2Proof.Machine.execBtglImm t s
  | .li t => Sys2Proof.Machine.execLi t s
  | .lih t => Sys2Proof.Machine.execLih t s
  | .lea t => Sys2Proof.Machine.execLea t s
  | .ld t => Sys2Proof.Machine.execLd t s
  | .st t => Sys2Proof.Machine.execSt t s
  | .ldv t => Sys2Proof.Machine.execLdv t s
  | .stv t => Sys2Proof.Machine.execStv t s
  | .ldvs t => Sys2Proof.Machine.execLdvs t s
  | .stvs t => Sys2Proof.Machine.execStvs t s
  | .ldp t => Sys2Proof.Machine.execLdp t s
  | .stp t => Sys2Proof.Machine.execStp t s
  | .ldn t => Sys2Proof.Machine.execLdn t s
  | .stn t => Sys2Proof.Machine.execStn t s
  | .ldg t => Sys2Proof.Machine.execLdg t s
  | .stg t => Sys2Proof.Machine.execStg t s
  | .ldgv t => Sys2Proof.Machine.execLdgv t s
  | .stgv t => Sys2Proof.Machine.execStgv t s
  | .amo t => Sys2Proof.Machine.execAmo t s
  | .putc t => Sys2Proof.Machine.execPutc t s
  | .waitc t => Sys2Proof.Machine.execWaitc t s
  | .waita t => Sys2Proof.Machine.execWaita t s
  | .wake t => Sys2Proof.Machine.execWake t s
  | .fence t => Sys2Proof.Machine.execFence t s
  | .flush t => Sys2Proof.Machine.execFlush t s
  | .inbox t => Sys2Proof.Machine.execInbox t s
  | .capgive t => Sys2Proof.Machine.execCapgive t s
  | .vadd t => Sys2Proof.Machine.execVadd t s
  | .vsub t => Sys2Proof.Machine.execVsub t s
  | .vmul t => Sys2Proof.Machine.execVmul t s
  | .vfma t => Sys2Proof.Machine.execVfma t s
  | .vfms t => Sys2Proof.Machine.execVfms t s
  | .vfnma t => Sys2Proof.Machine.execVfnma t s
  | .vdiv t => Sys2Proof.Machine.execVdiv t s
  | .vsqrt t => Sys2Proof.Machine.execVsqrt t s
  | .vrcp t => Sys2Proof.Machine.execVrcp t s
  | .vrsq t => Sys2Proof.Machine.execVrsq t s
  | .vexp2 t => Sys2Proof.Machine.execVexp2 t s
  | .vlog2 t => Sys2Proof.Machine.execVlog2 t s
  | .vmin t => Sys2Proof.Machine.execVmin t s
  | .vmax t => Sys2Proof.Machine.execVmax t s
  | .vabs t => Sys2Proof.Machine.execVabs t s
  | .vneg t => Sys2Proof.Machine.execVneg t s
  | .vcmp t => Sys2Proof.Machine.execVcmp t s
  | .vsel t => Sys2Proof.Machine.execVsel t s
  | .vclass t => Sys2Proof.Machine.execVclass t s
  | .viadd t => Sys2Proof.Machine.execViadd t s
  | .visub t => Sys2Proof.Machine.execVisub t s
  | .vimul t => Sys2Proof.Machine.execVimul t s
  | .vimad t => Sys2Proof.Machine.execVimad t s
  | .vimin t => Sys2Proof.Machine.execVimin t s
  | .vimax t => Sys2Proof.Machine.execVimax t s
  | .vand t => Sys2Proof.Machine.execVand t s
  | .vor t => Sys2Proof.Machine.execVor t s
  | .vxor t => Sys2Proof.Machine.execVxor t s
  | .vshl t => Sys2Proof.Machine.execVshl t s
  | .vshr t => Sys2Proof.Machine.execVshr t s
  | .vsar t => Sys2Proof.Machine.execVsar t s
  | .viadds t => Sys2Proof.Machine.execViadds t s
  | .vicmp t => Sys2Proof.Machine.execVicmp t s
  | .vclmul t => Sys2Proof.Machine.execVclmul t s
  | .vrng t => Sys2Proof.Machine.execVrng t s
  | .vmov t => Sys2Proof.Machine.execVmov t s
  | .vbcast t => Sys2Proof.Machine.execVbcast t s
  | .vins t => Sys2Proof.Machine.execVins t s
  | .vext t => Sys2Proof.Machine.execVext t s
  | .vperm t => Sys2Proof.Machine.execVperm t s
  | .vrot t => Sys2Proof.Machine.execVrot t s
  | .vcvt t => Sys2Proof.Machine.execVcvt t s
  | .vpack t => Sys2Proof.Machine.execVpack t s
  | .vunpk t => Sys2Proof.Machine.execVunpk t s
  | .vqnt t => Sys2Proof.Machine.execVqnt t s
  | .vdqnt t => Sys2Proof.Machine.execVdqnt t s
  | .vred t => Sys2Proof.Machine.execVred t s
  | .vdot t => Sys2Proof.Machine.execVdot t s
  | .vdist t => Sys2Proof.Machine.execVdist t s
  | .vtopk t => Sys2Proof.Machine.execVtopk t s
  | .vgath t => Sys2Proof.Machine.execVgath t s
  | .vscat t => Sys2Proof.Machine.execVscat t s
  | .vpopc t => Sys2Proof.Machine.execVpopc t s
  | .vscan t => Sys2Proof.Machine.execVscan t s
  | .send t => Sys2Proof.Machine.execSend t s
  | .muxsel t => Sys2Proof.Machine.execMuxsel t s
  | .recv t => Sys2Proof.Machine.execRecv t s
  | .recvm t => Sys2Proof.Machine.execRecvm t s
  | .mclaim t => Sys2Proof.Machine.execMclaim t s
  | .mrel t => Sys2Proof.Machine.execMrel t s
  | .mload t => Sys2Proof.Machine.execMload t s
  | .mstore t => Sys2Proof.Machine.execMstore t s
  | .mzero t => Sys2Proof.Machine.execMzero t s
  | .mgang t => Sys2Proof.Machine.execMgang t s
  | .mdrain t => Sys2Proof.Machine.execMdrain t s
  | .mgeo t => Sys2Proof.Machine.execMgeo t s
  | .copy t => Sys2Proof.Machine.execCopy t s
  | .jtest t => Sys2Proof.Machine.execJtest t s
  | .jwait t => Sys2Proof.Machine.execJwait t s
  | .board t => Sys2Proof.Machine.execBoard t s
  | .bstat t => Sys2Proof.Machine.execBstat t s
  | .covqNext t => Sys2Proof.Machine.execCovqNext t s
  | .covqRank t => Sys2Proof.Machine.execCovqRank t s
  | .covqInfo t => Sys2Proof.Machine.execCovqInfo t s
  | .covqKeep t => Sys2Proof.Machine.execCovqKeep t s
  | .trace t => Sys2Proof.Machine.execTrace t s
  | .lacc t => Sys2Proof.Machine.execLacc t s
  | .laccz t => Sys2Proof.Machine.execLaccz t s
  | .gov t => Sys2Proof.Machine.execGov t s
  | .wseRead t => Sys2Proof.Machine.execWseRead t s
  | .wseWrite t => Sys2Proof.Machine.execWseWrite t s
  | .raseRead t => Sys2Proof.Machine.execRaseRead t s
  | .raseWrite t => Sys2Proof.Machine.execRaseWrite t s
  | .varResultArrival core k => Sys2Proof.Machine.execVarResultArrival core k s
  | .workQueueDoorbell vf queue value => Sys2Proof.Machine.execWorkQueueDoorbell vf queue value s
  | .launchBlockFetch queue => Sys2Proof.Machine.execLaunchBlockFetch queue s
  | .launchStart launch => Sys2Proof.Machine.execLaunchStart launch s
  | .wakeMessage launch router => Sys2Proof.Machine.execWakeMessage launch router s
  | .bootImageArrival launch core => Sys2Proof.Machine.execBootImageArrival launch core s
  | .launchCompletion launch => Sys2Proof.Machine.execLaunchCompletion launch s
  | .chorusStart launch level unit => Sys2Proof.Machine.execChorusStart launch level unit s
  | .chorusRecordRead launch level unit => Sys2Proof.Machine.execChorusRecordRead launch level unit s
  | .maskFire launch level unit idx => Sys2Proof.Machine.execMaskFire launch level unit idx s
  | .chorusReportArrival launch level unit sender => Sys2Proof.Machine.execChorusReportArrival launch level unit sender s
  | .chorusRelease release => Sys2Proof.Machine.execChorusRelease release s
  | .orphanWait launch level unit => Sys2Proof.Machine.execOrphanWait launch level unit s
  | .chorusWatchdog launch level unit => Sys2Proof.Machine.execChorusWatchdog launch level unit s
  | .exchangeWordArrival word => Sys2Proof.Machine.execExchangeWordArrival word s
  | .destinationRequest req => Sys2Proof.Machine.execDestinationRequest req s
  | .responseArrival req => Sys2Proof.Machine.execResponseArrival req s
  | .releaseSend req => Sys2Proof.Machine.execReleaseSend req s
  | .inboxMessageArrival msg => Sys2Proof.Machine.execInboxMessageArrival msg s
  | .capabilityHandover req => Sys2Proof.Machine.execCapabilityHandover req s
  | .packetArrival packet => Sys2Proof.Machine.execPacketArrival packet s
  | .outputArbitration router port => Sys2Proof.Machine.execOutputArbitration router port s
  | .ageUrgent router port vc => Sys2Proof.Machine.execAgeUrgent router port vc s
  | .copyAccept pod => Sys2Proof.Machine.execCopyAccept pod s
  | .copyJobStart pod => Sys2Proof.Machine.execCopyJobStart pod s
  | .copyRequestIssue pod => Sys2Proof.Machine.execCopyRequestIssue pod s
  | .copyPieceWrite pod entry piece => Sys2Proof.Machine.execCopyPieceWrite pod entry piece s
  | .nvmeCompletion pod entry status => Sys2Proof.Machine.execNvmeCompletion pod entry status s
  | .copyJobComplete pod entry => Sys2Proof.Machine.execCopyJobComplete pod entry s
  | .matrixCommandAccept pod core => Sys2Proof.Machine.execMatrixCommandAccept pod core s
  | .gangComplete pod => Sys2Proof.Machine.execGangComplete pod s
  | .mloadComplete pod cmd => Sys2Proof.Machine.execMloadComplete pod cmd s
  | .mstoreComplete pod cmd => Sys2Proof.Machine.execMstoreComplete pod cmd s
  | .mdrainComplete pod cmd => Sys2Proof.Machine.execMdrainComplete pod cmd s
  | .mrelFree pod cmd => Sys2Proof.Machine.execMrelFree pod cmd s
  | .feederFrameDelivery die => Sys2Proof.Machine.execFeederFrameDelivery die s
  | .boardArmEffect pod ctx => Sys2Proof.Machine.execBoardArmEffect pod ctx s
  | .segmentHeaderArrival station flips => Sys2Proof.Machine.execSegmentHeaderArrival station flips s
  | .tapFrameAct pod ctx flips => Sys2Proof.Machine.execTapFrameAct pod ctx flips s
  | .capToken token => Sys2Proof.Machine.execCapToken token s
  | .vptWrite vf entry value => Sys2Proof.Machine.execVptWrite vf entry value s
  | .axolotlRun launch => Sys2Proof.Machine.execAxolotlRun launch s
  | .partitionStop part => Sys2Proof.Machine.execPartitionStop part s
  | .stopComplete part => Sys2Proof.Machine.execStopComplete part s
  | .yieldDeadline part => Sys2Proof.Machine.execYieldDeadline part s
  | .exchangeGrace part => Sys2Proof.Machine.execExchangeGrace part s
  | .partitionResume part => Sys2Proof.Machine.execPartitionResume part s
  | .partitionReset part => Sys2Proof.Machine.execPartitionReset part s
  | .partitionReplay part queue => Sys2Proof.Machine.execPartitionReplay part queue s
  | .contextSaveComplete part => Sys2Proof.Machine.execContextSaveComplete part s
  | .scrubComplete sg => Sys2Proof.Machine.execScrubComplete sg s
  | .contextRestoreComplete part => Sys2Proof.Machine.execContextRestoreComplete part s
  | .partitionCommit command => Sys2Proof.Machine.execPartitionCommit command s
  | .invStage1Page vf space va => Sys2Proof.Machine.execInvStage1Page vf space va s
  | .invStage1All vf => Sys2Proof.Machine.execInvStage1All vf s
  | .invStage2Frame vf space frame => Sys2Proof.Machine.execInvStage2Frame vf space frame s
  | .invStage2All vf => Sys2Proof.Machine.execInvStage2All vf s
  | .invalidationComplete inv => Sys2Proof.Machine.execInvalidationComplete inv s
  | .dbgRead part => Sys2Proof.Machine.execDbgRead part s
  | .dbgWrite part value => Sys2Proof.Machine.execDbgWrite part value s
  | .hostWindowWrite die off mask value => Sys2Proof.Machine.execHostWindowWrite die off mask value s
  | .linkFlitArrival port crcOk msg => Sys2Proof.Machine.execLinkFlitArrival port crcOk msg s
  | .linkTimeout req => Sys2Proof.Machine.execLinkTimeout req s
  | .unitReady reg bit => Sys2Proof.Machine.execUnitReady reg bit s
  | .unitNotReady reg bit => Sys2Proof.Machine.execUnitNotReady reg bit s
  | .registerWrite block off value => Sys2Proof.Machine.execRegisterWrite block off value s
  | .unassignedOpcode op t => Sys2Proof.Machine.execUnassignedOpcode op t s
  | .spareSwap kind unit spare => Sys2Proof.Machine.execSpareSwap kind unit spare s
  | .hostPcieCompletion req => Sys2Proof.Machine.execHostPcieCompletion req s
  | .bar2PeerWrite pod entry block data => Sys2Proof.Machine.execBar2PeerWrite pod entry block data s
  | .nop => Sys2Proof.Machine.execNop s
  | .ret => Sys2Proof.Machine.execRet s
  | .rett => Sys2Proof.Machine.execRett s
  | .halt => Sys2Proof.Machine.execHalt s
  | .isync => Sys2Proof.Machine.execIsync s
  | .bkpt => Sys2Proof.Machine.execBkpt s
  | .wait => Sys2Proof.Machine.execWait s
  | .timerExpiry => Sys2Proof.Machine.execTimerExpiry s
  | .timerInterrupt => Sys2Proof.Machine.execTimerInterrupt s
  | .grantEventInterrupt => Sys2Proof.Machine.execGrantEventInterrupt s
  | .coreStart => Sys2Proof.Machine.execCoreStart s
  | .waitWithdrawal => Sys2Proof.Machine.execWaitWithdrawal s
  | .waitaWithdrawal => Sys2Proof.Machine.execWaitaWithdrawal s
  | .lapStart => Sys2Proof.Machine.execLapStart s
  | .frameInject => Sys2Proof.Machine.execFrameInject s
  | .moduleAlarm => Sys2Proof.Machine.execModuleAlarm s
  | .pauseEnd => Sys2Proof.Machine.execPauseEnd s
  | .leaseExpiry => Sys2Proof.Machine.execLeaseExpiry s
  | .netMemSwitch => Sys2Proof.Machine.execNetMemSwitch s
  | .budgetInterval => Sys2Proof.Machine.execBudgetInterval s
  | .quantumEnd => Sys2Proof.Machine.execQuantumEnd s
  | .packageReset => Sys2Proof.Machine.execPackageReset s

end Sys2Proof.Machine
end

