-- ==== Sys2Proof/Machine/Turns.lean ====
section
/-! DEFINITION. Whose turn comes next: the agenda's head, or the core whose instruction issues earliest (R5, R8, R48, R119, R407; log 1). -/

namespace Sys2Proof.Machine

/-- The instruction at PC of a core, as its line decodes; NOP where there is none, which then faults at issue (R42, R45). -/
def State.instrAt (s : State) (n : Nat) : Instr :=
  match s.slotAt n (s.core n).pc with
  | some x => x.instr
  | none => .nop

/-- A core that may not go on under a forced stop: at an instruction boundary, outside exchange mode, and not between two prefixes (R407). -/
def State.stopsHere (s : State) (n : Nat) : Bool :=
  let c := s.core n
  let between : Bool := match s.slotAt n c.pc with | some x => c.betweenPrefixes (Head.op x.head) | none => false
  s.forcedStop n && c.run == .running && !c.xm && !between

/-- The pending interrupt of a core that stands at an instruction, at its time (R119, R265). -/
def State.expiryTurn (s : State) (n : Nat) : Host.Outcome State Fault Refusal :=
  match (s.core n).interrupt with
  | some (t, _) => exec .timerExpiry { s with now := max s.now t }
  | none => .next s

/-- What happens if a core has the turn: its forced stop, the issue of the instruction at PC, or its waking for an interrupt. -/
def State.tryTurn (s : State) (n : Nat) : Host.Outcome State Fault Refusal :=
  let c := s.core n
  let s := { s with cur := n }
  if s.stopsHere n then .next (s.setCore n { c with run := .stopped .boundary })
  else if c.run == .running then exec (s.instrAt n) s
  else if c.issues then
    match exec (s.instrAt n) s with
    | .next t => if t.core n = c then s.expiryTurn n else .next t
    | r => r
  else s.expiryTurn n

/-- The time of a core's turn, with its outcome; none for a turn that would leave the core as it is. -/
def State.turnOf (s : State) (n : Nat) : Option (Nat × Host.Outcome State Fault Refusal) :=
  match s.tryTurn n with
  | .next t => if t.core n = s.core n then none else some (t.now, .next t)
  | r => some (s.now, r)

/-- The earliest turn among some cores; of two at one time, the one listed first. -/
def State.earliestTurn (s : State) : List Nat → Option (Nat × Host.Outcome State Fault Refusal)
  | [] => none
  | n :: ns =>
    match s.turnOf n, s.earliestTurn ns with
    | none, r => r
    | some a, none => some a
    | some a, some b => if a.1 ≤ b.1 then some a else some b

/-- A turn of the agenda carried out at its time. -/
def State.takeTurn (s : State) (t : Turn) : Host.Outcome State Fault Refusal :=
  let s := { s with now := max s.now t.due, cur := t.core }
  match t.act with
  | .event i => exec i s
  | .hostStore addr bytes => .next { s with mem := Memory.writeBytes s.mem (hostKey addr) bytes }
  | .hbmStore addr bytes => .next (s.store (hbmKey addr) bytes.length (leValue bytes))
  | .traceWrite => .next s.traceStep
  | .feedRead die => .next (s.feedRead die)
  | .removeSegments part => .next (s.removeSegments part)
  | .correctedError entry => .next (s.countCorrected entry)
  | .traceStore part core => s.traceStore part core

/-- The cores that may have a turn: none while every domain is paused (R368). -/
def State.candidates (s : State) : List Nat := if s.chameleon.pauseEnd.isSome then [] else SMap.keys s.cores

/-- One turn of the machine: the agenda's head, unless a core's turn comes before it; nothing when neither exists. -/
def State.turn (s : State) : Host.Outcome State Fault Refusal :=
  match s.agenda, s.earliestTurn s.candidates with
  | [], none => .next s
  | [], some a => a.2
  | t :: ts, none => State.takeTurn { s with agenda := ts } t
  | t :: ts, some a => if t.due ≤ a.1 then State.takeTurn { s with agenda := ts } t else a.2

/-- A line that holds one instruction, given by its head and the bits of its tail (R38 to R41). -/
def lineOfOne (head : Head) (tail : Nat) : Line :=
  let size := tailBytes (Head.op head)
  BitVec.ofNat 512 (head.toNat + tail % 2 ^ (8 * size) * 2 ^ (8 * (64 - size)))

/-- The head of a table word with L set: the only head of its line (R38, R39). -/
def fetchHead (nbits w : Nat) : Head := BitVec.ofNat 16 (w % 2 ^ nbits % 2 ^ 15 + 2 ^ 15)

/-- A machine whose next turn is the issue, by the core in turn, of the one instruction of the line that its PC enters. -/
def State.placeLine (s : State) (l : Line) : State :=
  let n := s.cur
  let c := s.core n
  let base := 64 * lineOf c.pc
  let idle := SMap.mapVals (fun k (d : Core) => if k = n then d else { d with run := .off }) s.cores
  let s := { s with
    mem := Memory.writeLE s.mem (sliceKey n base) 64 l.toNat
    badWords := s.badWords.filter (fun w => !(decide (w < sliceKey n base + 64) && decide (sliceKey n base < w + 8)))
    cores := idle
    agenda := []
    chameleon := { s.chameleon with pauseEnd := none } }
  s.setCore n { c with pc := BitVec.ofNat 18 base, fbuf := [], run := .running }

end Sys2Proof.Machine
end

