-- ==== Sys2Proof/Machine/Step.lean ====
section
/-! DEFINITION. One step of the machine, and the placing of one instruction where the next step fetches. -/

namespace Sys2Proof.Machine

/-- One step: the turn that comes next (R5, R8; log 1). -/
def step (s : State) : Host.Outcome State Fault Refusal := s.turn

/-- The machine with one instruction, given by a row's bits as the opcode table numbers them, where the next step fetches. -/
def State.withFetchWord (s : State) (nbits w : Nat) : State :=
  s.placeLine (lineOfOne (fetchHead nbits w) (w % 2 ^ nbits / 2 ^ 16))

end Sys2Proof.Machine
end

