-- ==== Sys2Proof/Safety.lean ====
section
/-! DEFINITION. The terms that claims use: an instruction that issues, what its completion moves on and what it leaves as it was, and the canonical form of a state. -/

namespace Sys2Proof.Machine

/-- Everything of the machine but the time and the cores. -/
def State.outside (s : State) : State := { s with now := 0, cores := [] }

/-- Everything of a core but what every completed instruction moves on: PC and the fetch buffer, the pending prefixes, the loop and repetition counts, the times of issue, the governor's record, the time that its fetches take the slice, and the results in flight. -/
def Core.kept (c : Core) : Core :=
  { c with pc := 0, fbuf := [], stat := statNoPrefix c.stat, epfx := 0, reps := 0, lc0 := 0, lc1 := 0, ready := 0, delay := 0, waited := 0, flight := [], runStart := none, charged := false, holding := false, freeAt := 0, charges := [], fetchFree := 0, run := .off }

/-- The core in turn at a time: every result due by then is written (R49). -/
def State.coreAt (s : State) (t : Nat) : Core := (s.core s.cur).at t

/-- The machine at the issue of the instruction at PC of the core in turn: time has come to its cycle, results due are written, and the governor has charged (R49, R373). -/
def State.atIssue (s : State) (g : Sig) (t : Nat) : State := (s.arrive s.cur t).chargeCore s.cur t (chargeOf g.op)

/-- A core with a fixed-latency result on its way (R49). -/
def Core.gets (c : Core) (due : Nat) (d : Dest) : Core := { c with flight := c.flight ++ [⟨due, d⟩] }

/-- A core with several results on their way. -/
def Core.getsAll (c : Core) (due : Nat) (ds : List Dest) : Core := { c with flight := c.flight ++ ds.map (Flight.mk due) }

/-- The instruction at PC of the core in turn, with its signature and its operands as encoded, executes at a time, with its operands as issued: the core issues, nothing it does not know holds it, no interrupt comes before it, and it passes the checks of R396. -/
structure State.Issues (s : State) (g : Sig) (raw : Opnd) (t : Nat) (o : Opnd) : Prop where
  issues : (s.core s.cur).issues = true
  notHeld : (s.core s.cur).holding = false
  noInterrupt : (s.core s.cur).betweenPrefixes g.op = true ∨ (s.core s.cur).run ≠ .running ∨ (s.core s.cur).interruptBefore t = none
  go : s.gate s.cur g raw = .go t o

/-- The instruction at PC, which turns a core into `c`, does not loop back or return to a bad target (R45, R109, R112), with memory as the instruction leaves it. -/
def State.Straight (s : State) (c : Core) (mem : Memory) : Prop :=
  (c.advance (s.lastHead s.cur)).back = true →
    { s with mem := mem }.badTarget s.cur (c.advance (s.lastHead s.cur)).next = false

/-- How an instruction that makes no transfer leaves the machine, at a time: outside the cores as in `w`; every other core as it was; and its own core as `c`, which then moves on to the next instruction by the loop and repetition rules, with no prefix pending (R26, R43, R109, R112). -/
structure State.Completes (s : State) (t : Nat) (w : State) (c : Core) (s' : State) : Prop where
  now : s'.now = max s.now t
  outside : s'.outside = w.outside
  others : ∀ m, m ≠ s.cur → s'.core m = s.core m
  kept : (s'.core s.cur).kept = c.kept
  flight : (s'.core s.cur).flight = c.flight
  pc : (s'.core s.cur).pc = (c.advance (s.lastHead s.cur)).next
  reps : (s'.core s.cur).reps = (c.advance (s.lastHead s.cur)).reps
  lc0 : (s'.core s.cur).lc0 = (c.advance (s.lastHead s.cur)).lc0
  lc1 : (s'.core s.cur).lc1 = (c.advance (s.lastHead s.cur)).lc1
  noPrefix : (s'.core s.cur).pp = false
  running : (s'.core s.cur).run = .running

/-- How an instruction that sets PC leaves the machine, at a time: as `State.Completes` says, but that PC is at a target and no loop or repetition moves on (R107, R109). -/
structure State.Transfers (s : State) (t : Nat) (w : State) (c : Core) (target : LAddr) (s' : State) : Prop where
  now : s'.now = max s.now t
  outside : s'.outside = w.outside
  others : ∀ m, m ≠ s.cur → s'.core m = s.core m
  kept : (s'.core s.cur).kept = c.kept
  flight : (s'.core s.cur).flight = c.flight
  pc : (s'.core s.cur).pc = target
  reps : (s'.core s.cur).reps = c.reps
  lc0 : (s'.core s.cur).lc0 = c.lc0
  lc1 : (s'.core s.cur).lc1 = c.lc1
  noPrefix : (s'.core s.cur).pp = false
  running : (s'.core s.cur).run = .running

/-! ### Issue and turns -/

/-- The stall count S of the head at PC of the core in turn (R39, R48). -/
def State.stallHere (s : State) : Nat := ((s.slotAt s.cur (s.core s.cur).pc).map (fun x => Head.stall x.head)).getD 0

/-- A core to which nothing of the past is due: it runs, no hold, prefix, interrupt, result, access or range is pending, it is not in exchange mode, and the checking scoreboard is off. -/
structure Core.Quiet (c : Core) : Prop where
  running : c.run = .running
  notHeld : c.holding = false
  noPrefix : c.pp = false
  noInterrupt : c.interrupt = none
  noPhase : c.xm = false
  unchecked : c.ce = false
  noFlight : c.flight = []
  noVar : c.var = []
  noHeld : c.held = []
  noRanges : c.ranges = []
  noCharges : c.charges = []

/-- The core in turn issues an instruction of user mode or handler mode that no interrupt comes before. -/
structure Core.Ready (c : Core) (op : Opcode) : Prop where
  issues : c.issues = true
  notHeld : c.holding = false
  noInterrupt : c.betweenPrefixes op = true ∨ c.run ≠ .running ∨ c.interrupt = none

/-- The guard of the pending GD lets its target execute: Bit(G(a), b) XOR f[0] is 1, by the payload's register a, bit index b and flag f[0] (R25, R26, R115). -/
def Core.GuardHolds (c : Core) : Prop :=
  (c.readG (c.epfx.extractLsb' 0 6)).getLsbD (bitsOf c.epfx 11 6) ≠ c.epfx.getLsbD 12

/-- The loop-end rule at the instruction at PC of a core in user mode, level 1 before level 0 (R109). -/
structure Core.EndsLoops (c : Core) (last : Bool) (a : Advance) : Prop where
  lc1 : a.lc1 = if c.lc1 ≠ 0 ∧ c.pc = c.le1 then c.lc1 - 1 else c.lc1
  outer : c.lc1 ≠ 0 → c.pc = c.le1 → c.lc1 ≠ 1 → a.next = c.ls1 ∧ a.lc0 = c.lc0
  inner : (¬ (c.lc1 ≠ 0 ∧ c.pc = c.le1) ∨ c.lc1 = 1) → c.lc0 ≠ 0 → c.pc = c.le0 →
    a.lc0 = c.lc0 - 1 ∧ a.next = if c.lc0 = 1 then seqNext c.pc last else c.ls0
  none : (¬ (c.lc1 ≠ 0 ∧ c.pc = c.le1) ∨ c.lc1 = 1) → ¬ (c.lc0 ≠ 0 ∧ c.pc = c.le0) → a.lc0 = c.lc0 ∧ a.next = seqNext c.pc last

/-! ### Integer forms (R88 to R98) -/

/-- A general register read as a pattern of `n` bits (R88). -/
def Core.typed (c : Core) (r : Field) (n : Nat) : BitVec n := (c.readG r).setWidth n

/-- A pattern of `n` bits as WriteT extends it (R35, R88). -/
def extended {n : Nat} (signed : Bool) (v : BitVec n) : Word := if signed then v.signExtend 64 else v.setWidth 64

/-- The time at which a result of the given latency is written, for the instruction of the core in turn that executes at `t` (R49). -/
def State.dueAt (s : State) (t lat : Nat) : Nat := max s.now t + lat * (s.coreAt t).clock.pipePeriod

/-- An integer instruction of two operands: its opcode, its latency and its result, from the patterns of its operands, for a width and a signedness (R90, R98). -/
structure IntForm (α : Type) where
  instr : α → Instr
  op : Opcode
  lat : Nat
  value : (n : Nat) → (signed : Bool) → (x y : BitVec n) → BitVec n

/-- The shift count of R90. -/
def shiftOf {n : Nat} (y : BitVec n) : Nat := y.toNat % 64 % n

/-- The binary register forms of R90. -/
def binaryForms : List (IntForm TailW) := [
  ⟨.add, 0x100, 1, fun _ _ x y => x + y⟩,
  ⟨.sub, 0x101, 1, fun _ _ x y => x - y⟩,
  ⟨.mul, 0x102, 3, fun _ _ x y => x * y⟩,
  ⟨.mulh, 0x103, 3, fun n signed x y =>
    if signed then (x.signExtend (2 * n) * y.signExtend (2 * n)).extractLsb' n n else (x.setWidth (2 * n) * y.setWidth (2 * n)).extractLsb' n n⟩,
  ⟨.and, 0x106, 1, fun _ _ x y => x &&& y⟩,
  ⟨.or, 0x107, 1, fun _ _ x y => x ||| y⟩,
  ⟨.xor, 0x108, 1, fun _ _ x y => x ^^^ y⟩,
  ⟨.andn, 0x109, 1, fun _ _ x y => x &&& ~~~y⟩,
  ⟨.orn, 0x10A, 1, fun _ _ x y => x ||| ~~~y⟩,
  ⟨.shl, 0x10B, 1, fun _ _ x y => x <<< shiftOf y⟩,
  ⟨.shr, 0x10C, 1, fun _ _ x y => x >>> shiftOf y⟩,
  ⟨.sar, 0x10D, 1, fun _ _ x y => x.sshiftRight (shiftOf y)⟩,
  ⟨.rol, 0x10E, 1, fun _ _ x y => x.rotateLeft (shiftOf y)⟩,
  ⟨.ror, 0x10F, 1, fun _ _ x y => x.rotateRight (shiftOf y)⟩,
  ⟨.min, 0x110, 1, fun _ signed x y => if (if signed then x.sle y else x.ule y) then x else y⟩,
  ⟨.max, 0x111, 1, fun _ signed x y => if (if signed then x.sle y else x.ule y) then y else x⟩]

/-- The immediate forms of class 0x2 that take a type, but for CMP and ADDS (R98). -/
def immediateForms : List (IntForm TailL) := [
  ⟨.addImm, 0x200, 1, fun _ _ x y => x + y⟩,
  ⟨.mulImm, 0x202, 3, fun _ _ x y => x * y⟩,
  ⟨.andImm, 0x206, 1, fun _ _ x y => x &&& y⟩,
  ⟨.orImm, 0x207, 1, fun _ _ x y => x ||| y⟩,
  ⟨.xorImm, 0x208, 1, fun _ _ x y => x ^^^ y⟩,
  ⟨.minImm, 0x210, 1, fun _ signed x y => if (if signed then x.sle y else x.ule y) then x else y⟩,
  ⟨.maxImm, 0x211, 1, fun _ signed x y => if (if signed then x.sle y else x.ule y) then y else x⟩]

/-- The shifts and rotates by an immediate (R98). -/
def immediateShifts : List (IntForm TailL) := [
  ⟨.shlImm, 0x20B, 1, fun _ _ x y => x <<< shiftOf y⟩,
  ⟨.shrImm, 0x20C, 1, fun _ _ x y => x >>> shiftOf y⟩,
  ⟨.sarImm, 0x20D, 1, fun _ _ x y => x.sshiftRight (shiftOf y)⟩,
  ⟨.rolImm, 0x20E, 1, fun _ _ x y => x.rotateLeft (shiftOf y)⟩,
  ⟨.rorImm, 0x20F, 1, fun _ _ x y => x.rotateRight (shiftOf y)⟩]

/-- An integer instruction of one operand (R90). -/
structure UnaryForm where
  instr : TailW → Instr
  op : Opcode
  value : (n : Nat) → (signed : Bool) → (x : BitVec n) → BitVec n

/-- The unary forms of R90. -/
def unaryForms : List UnaryForm := [
  ⟨.abs, 0x114, fun _ signed x => if signed && x.msb then -x else x⟩,
  ⟨.neg, 0x115, fun _ _ x => -x⟩,
  ⟨.clz, 0x116, fun _ _ x => x.clz⟩,
  ⟨.ctz, 0x117, fun _ _ x => x.ctz⟩,
  ⟨.popc, 0x118, fun _ _ x => x.cpop⟩,
  ⟨.brev, 0x119, fun _ _ x => x.reverse⟩,
  ⟨.bswap, 0x11A, fun n _ x => BitVec.ofFnLE (fun i : Fin n => x.getLsbD (8 * (n / 8 - 1 - i.val / 8) + i.val % 8))⟩]

/-- The saturated value of an exact sum or difference in `n` bits (R36, R92). -/
def clamped (n : Nat) (signed : Bool) (e : Int) : Int :=
  if signed then max (-(2 ^ (n - 1))) (min (2 ^ (n - 1) - 1) e) else max 0 (min (2 ^ n - 1) e)

/-- A pattern of `n` bits as its type reads it (R88). -/
def readAs {n : Nat} (signed : Bool) (x : BitVec n) : Int := if signed then x.toInt else (x.toNat : Int)

/-- The result and the flags of a saturating sum or difference whose exact value is `e` (R92). -/
def saturatedResults (d : Option PReg) (n : Nat) (signed : Bool) (e : Int) : List Dest :=
  [.gen d (extended signed (BitVec.ofInt n (clamped n signed e))), .flags (if clamped n signed e = e then 0 else statSat)]

/-- The condition of R93 on two patterns. -/
def holds {n : Nat} (cc : Nat) (signed : Bool) (x y : BitVec n) : Bool :=
  match cc with
  | 0 => x == y
  | 1 => x != y
  | 2 => if signed then x.slt y else x.ult y
  | 3 => if signed then x.sle y else x.ule y
  | 4 => if signed then y.slt x else y.ult x
  | 5 => if signed then y.sle x else y.ule x
  | _ => x &&& y != 0

/-- The quotient of R91. -/
def quotient {n : Nat} (signed : Bool) (x y : BitVec n) : BitVec n :=
  if y = 0 then BitVec.allOnes n else if signed then x.sdiv y else x / y

/-- The remainder of R91. -/
def remainder {n : Nat} (signed : Bool) (x y : BitVec n) : BitVec n :=
  if y = 0 then x else if signed then x.srem y else x % y

/-- How a division leaves the machine: completed, with its result pending in the scoreboard until `k` cycles later, when its arrival is due (R51, R91); the counter of free values has moved on. -/
def State.DividesTo (s : State) (t k : Nat) (d : Option PReg) (v : Word) (s' : State) : Prop :=
  let c := s.coreAt t
  let due := max s.now t + k * c.clock.pipePeriod
  s.Completes t { s with free := s.free + 1, agenda := insertTurn ⟨due, s.cur, .event (.varResultArrival s.cur c.varNext)⟩ s.agenda }
    { c with var := c.var ++ [⟨c.varNext, .at due, d.toList, [], [.gen d v], false⟩], varNext := c.varNext + 1 } s'

/-- A word with one bit replaced. -/
def withBit (x : Word) (i : Nat) (v : Bool) : Word := if v then x ||| (1#64 <<< i) else x &&& ~~~(1#64 <<< i)

/-- An instruction that changes one bit of a word (R96). -/
structure BitForm (α : Type) where
  instr : α → Instr
  op : Opcode
  bit : Bool → Bool

/-- BSET, BCLR and BTGL (R96). -/
def bitForms : List (BitForm TailW) := [⟨.bset, 0x11F, fun _ => true⟩, ⟨.bclr, 0x120, fun _ => false⟩, ⟨.btgl, 0x121, fun b => !b⟩]

/-- BSET, BCLR and BTGL with an immediate index (R96, R98). -/
def bitImmForms : List (BitForm TailL) := [⟨.bsetImm, 0x21F, fun _ => true⟩, ⟨.bclrImm, 0x220, fun _ => false⟩, ⟨.btglImm, 0x221, fun b => !b⟩]

/-- The carry-less product of R97: bit k is the parity of the pairs of one bits whose places add up to k. -/
def carryless (x y : Word) : BitVec 128 :=
  (List.range 64).foldl (fun p i => if y.getLsbD i then p ^^^ (x.setWidth 128 <<< i) else p) 0

/-! ### Entering the handler (R117, R118) -/

/-- Everything of a core but what a trap entry sets, and what issue moves on. -/
def Core.trapKept (c : Core) : Core :=
  { c with pc := 0, fbuf := [], stat := 0, estat := 0, epc := 0, ecause := 0, eaddr := 0, px := 0, ready := 0, delay := 0, waited := 0, flight := [], runStart := none, charged := false, holding := false, freeAt := 0, charges := [], fetchFree := 0, run := .off, reps := 0, clock := CoreClock.reset, var := [], memReady := 0 }

/-- STAT as a trap entry leaves it: handler mode, interrupts off, no prefix pending, no exchange mode, and every other bit as it was (R117, R225). -/
def trapStat (st : Word) (i : Nat) : Bool :=
  if i ≤ 2 then false else if i = 5 then true else if i = 6 then false else if i = 7 then false else st.getLsbD i

/-- ESTAT as a trap entry leaves it: STAT as it was but for XM, and without the pending prefixes when EPC is the first prefix of a run whose prefixes issued (R27, R117, R225). -/
def trapEstat (st : Word) (issued : Bool) (i : Nat) : Bool :=
  if i ≤ 2 && issued then false else if i = 7 then false else st.getLsbD i

/-- A core after a trap entry at a time: `c` is the core with every result in flight written, `first` the address that EPC takes (R15, R117). -/
structure Core.Trapped (c : Core) (t : Nat) (r : Raise) (first : LAddr) (issued : Bool) (c' : Core) : Prop where
  kept : c'.trapKept = c.trapKept
  stat : ∀ i < 64, c'.stat.getLsbD i = trapStat c.stat i
  estat : ∀ i < 64, c'.estat.getLsbD i = trapEstat c.stat issued i
  epc : c'.epc = first
  ecause : c'.ecause = (r.qual.setWidth 64 <<< 8) ||| r.code.setWidth 64
  eaddr : c'.eaddr = r.eaddr
  px : c'.px.toNat = if r.code = 0x03 then (c.slot.toNat + 48) % 176 else if r.code = 0x04 then (c.slot.toNat + 144) % 176 else c.px.toNat
  pc : c'.pc.toNat = (c.tvec.extractLsb' 6 12).toNat * 64
  flight : c'.flight = []
  ready : c'.ready = c.clock.vec.ceil t + 3 * c.clock.vecPeriod
  reps : issued = false → c'.reps = c.reps
  clock : c.xm = false → c'.clock = c.clock ∧ c'.var = c.var ∧ c'.memReady = c.memReady
  var : c'.var.length = c.var.length
  running : c'.run = .running

/-- The machine after a trap entry of a core (R117): that core has entered, every other core and all of memory is as it was, and so is everything else unless the entry is traced (R445) or reports a boarding context (R353). -/
structure State.Enters (s : State) (n t : Nat) (r : Raise) (first : LAddr) (issued : Bool) (s' : State) : Prop where
  core : ((s.core n).drained).Trapped t r first issued (s'.core n)
  others : ∀ m, m ≠ n → s'.core m = s.core m
  now : s'.now = s.now
  mem : s'.mem = s.mem
  rest : r.code ≠ 0x10 → (∀ p, s.partOf (s.core n) = some p → s.traces p 3 = false) → s'.outside = s.outside

/-- The instruction at PC of the core in turn faults at a time, in user mode: EPC is the instruction, or the first prefix of its run that issued (R27, R118). -/
structure State.TrapsAt (s : State) (t : Nat) (r : Raise) (s' : State) : Prop where
  core : (s.coreAt t).drained.Trapped t r ((s.coreAt t).runStart.elim (s.coreAt t).pc Prod.fst) (s.coreAt t).runStart.isSome (s'.core s.cur)
  others : ∀ m, m ≠ s.cur → s'.core m = s.core m
  now : s'.now = max s.now t
  mem : s'.mem = s.mem
  rest : r.code ≠ 0x10 → (∀ p, s.partOf (s.core s.cur) = some p → s.traces p 3 = false) → s'.outside = s.outside

/-- A place that the register file has (R12 to R14). -/
def Core.Holds (_ : Core) : PReg → Prop
  | .glob i => i < 15
  | .stack i => i < 176
  | .hbank i => i < 48

/-! ### Accesses to the own slice (R101 to R105) -/

/-- Whether an access of the core in turn at a time, to the given runs of bytes (address and size), passes every check: alignment, range and rights (R101), the range scoreboard (R309) and the earlier reads of its bytes through a fabric (R286), neither of which holds anything in exchange mode (R217), and bad data, of which a store may cover whole words (R398). -/
structure State.MayAccess (s : State) (t : Nat) (write : Bool) (align : Nat) (runs : List (Nat × Nat)) : Prop where
  aligned : ∀ r ∈ runs, align ∣ r.1
  inside : ∀ r ∈ runs, ∀ i < r.2, r.1 + i < 262144
  rights : (s.coreAt t).hm = true ∨ ∀ r ∈ runs, ∀ i < r.2, (s.coreAt t).accessible (if write then 61 else 62) (r.1 + i) = true
  ranges : (s.coreAt t).xm = true ∨ ∀ g ∈ (s.coreAt t).ranges, (g.dest = true ∨ write = true) → ∀ r ∈ runs, g.hi < r.1 ∨ r.1 + r.2 ≤ g.lo
  reads : write = true ∨ (s.coreAt t).xm = true ∨ ∀ e ∈ s.reqs, e.2.core = s.cur → e.2.op.returns = true → e.2.awaits = true →
    ∀ k, s.sliceRun e.2 = some k → ∀ r ∈ runs, k.1 + k.2 ≤ sliceKey s.cur 0 + r.1 ∨ sliceKey s.cur 0 + r.1 + r.2 ≤ k.1
  good : ∀ w ∈ s.badWords, (∀ r ∈ runs, sliceKey s.cur 0 + r.1 + r.2 ≤ w ∨ w + 8 ≤ sliceKey s.cur 0 + r.1) ∨
    (write = true ∧ sliceKey s.cur 0 ≤ w ∧ ∀ i < 8, ∃ r ∈ runs, r.1 ≤ w - sliceKey s.cur 0 + i ∧ w - sliceKey s.cur 0 + i < r.1 + r.2)

/-- A core whose slice is taken for a vector cycle from a time on, after what its own accesses and fetches have taken (R233). -/
def Core.takesSlice (c : Core) (now : Nat) : Core := { c with sliceFree := max now (max c.sliceFree c.fetchFree) + c.clock.vecPeriod }

/-- Memory after values (address, size, value) are stored in order to a core's slice (R102 to R105). -/
def storedMem (m : Memory) (core : Nat) (xs : List (Nat × Nat × Nat)) : Memory :=
  xs.foldl (fun m x => Memory.writeLE m (sliceKey core x.1) x.2.1 x.2.2) m

/-- How a store to the own slice leaves the machine: each byte outside the stored ones as it was, each stored byte as the last value that covers it, whole bad words good again; registers as they were, the instruction completed, and everything else as it was unless a monitor is armed on a word that the store touches (R263). -/
structure State.StoresTo (s : State) (t : Nat) (xs : List (Nat × Nat × Nat)) (s' : State) : Prop where
  completes : s.Completes t s' ((s.coreAt t).takesSlice (max s.now t)) s'
  mem : s'.mem = storedMem s.mem s.cur xs
  untouched : ∀ k, (∀ x ∈ xs, k < sliceKey s.cur x.1 ∨ sliceKey s.cur x.1 + x.2.1 ≤ k) → Memory.read s'.mem k = Memory.read s.mem k
  written : ∀ pre x post, xs = pre ++ x :: post → ∀ i < x.2.1,
    (∀ y ∈ post, sliceKey s.cur x.1 + i < sliceKey s.cur y.1 ∨ sliceKey s.cur y.1 + y.2.1 ≤ sliceKey s.cur x.1 + i) →
    Memory.read s'.mem (sliceKey s.cur x.1 + i) = BitVec.ofNat 8 (x.2.2 / 256 ^ i)
  rest : (∀ e ∈ s.reqs, ∀ k order, e.2.stage = .armed k order → ∀ n sg v, e.2.op = .waita n sg v →
      ∀ x ∈ xs, sliceKey s.cur x.1 + x.2.1 ≤ k ∨ k + n ≤ sliceKey s.cur x.1) →
    s'.outside = { s with mem := s'.mem, badWords := s'.badWords }.outside

/-- The address of element i of a strided access, Trunc(G(a) + i × SignExt(G(b), 64), 64) (R104). -/
def Core.stridedAt (c : Core) (o : Opnd) (i : Nat) : Nat := (c.readG o.a + BitVec.ofNat 64 i * c.readG o.b).toNat

/-- The address of an L form, Trunc(G(a) + SignExt(imm30, 30), 64) (R101). -/
def Core.addressL (c : Core) (o : Opnd) (tail : TailL) : Nat := (c.readG o.a + tail.imm.signExtend 64).toNat

/-- The runs of a strided access (R104). -/
def Core.stridedRuns (c : Core) (o : Opnd) : List (Nat × Nat) :=
  (List.range (512 / o.mtype.width)).map (fun i => (c.stridedAt o i, o.mtype.width / 8))

/-- A local access of an L form: its signature, whether it writes, its alignment and its size (R102, R103, R105). -/
structure LocalForm where
  instr : TailL → Instr
  sig : Sig
  write : Bool
  align : Opnd → Nat
  size : Opnd → Nat

/-- The L forms of class 0x3. -/
def localForms : List LocalForm := [
  ⟨.ld, sigLd 0x300 .gw 3, false, fun o => o.btype.width / 8, fun o => o.btype.width / 8⟩,
  ⟨.st, sigLd 0x301 .gr 0, true, fun o => o.btype.width / 8, fun o => o.btype.width / 8⟩,
  ⟨.ldv, sigLdv 0x302 .vw 3, false, fun _ => 64, fun _ => 64⟩,
  ⟨.stv, sigLdv 0x303 .vr 0, true, fun _ => 64, fun _ => 64⟩,
  ⟨.ldp, sigLdp 0x306 .gw 3, false, fun _ => 8, fun _ => 16⟩,
  ⟨.stp, sigLdp 0x307 .gr 0, true, fun _ => 8, fun _ => 16⟩]

/-- What an access of a core in user mode to runs of bytes (address and size) raises, each run checked wholly before the next: misaligned at the first run that is, or local protection at the lowest byte of a run that is outside the slice or without the right (R101, R104, R169). -/
def Core.RunsFail (c : Core) (write : Bool) (align : Nat) (runs : List (Nat × Nat)) (r : Raise) : Prop :=
  let refused := fun a => 262144 ≤ a ∨ c.accessible (if write then 61 else 62) a = false
  ∃ pre x post, runs = pre ++ x :: post ∧ (∀ y ∈ pre, align ∣ y.1 ∧ ∀ i < y.2, ¬ refused (y.1 + i)) ∧
    ((¬ align ∣ x.1 ∧ r = ⟨0x08, 0, BitVec.ofNat 64 x.1⟩) ∨
      (align ∣ x.1 ∧ ∃ i < x.2, refused (x.1 + i) ∧ (∀ j < i, ¬ refused (x.1 + j)) ∧
        r = ⟨0x09, BitVec.ofNat 8 ((if write then 1 else 0) + (if 262144 ≤ x.1 + i then 4 else 0)), BitVec.ofNat 64 (x.1 + i)⟩))

/-! ### Transfers, loops, prefixes and stops (R44, R45, R106 to R123, R192, R208) -/

/-- The address that a displacement in halfwords names, from the base of the instruction's line, mod 2^18 (R44). -/
def Core.displaced {n : Nat} (c : Core) (imm : BitVec n) : LAddr := BitVec.ofNat 18 (c.pc.toNat / 64 * 64) + (imm.signExtend 18) <<< 1

/-- SeqNext of the instruction at PC of the core in turn (R43). -/
def State.sequel (s : State) : LAddr := seqNext (s.core s.cur).pc (s.lastHead s.cur)

/-- A target that is not bad: an address of the slice, with a head there in a well-formed line (R44, R45). -/
def State.GoodTarget (s : State) (x : Word) : Prop := x.toNat < 262144 ∧ s.badTarget s.cur (x.setWidth 18) = false

/-- A jump to an address by R107: PC at a good target and nothing else changed, or the bad-target fault. -/
def State.JumpsBy (s : State) (t : Nat) (i : Instr) (x : Word) : Prop :=
  (s.GoodTarget x → ∃ s', exec i s = .next s' ∧ s.Transfers t s (s.coreAt t) (x.setWidth 18) s') ∧
  (¬ s.GoodTarget x → (s.coreAt t).hm = false → ∃ s', exec i s = .next s' ∧ s.TrapsAt t ⟨0x01, 0x04, x⟩ s')

/-- A core whose call has pushed a return address and moved the window (R15, R17, R107). -/
def Core.called (c : Core) (ret : LAddr) : Core :=
  { c with ras := ret :: c.ras, slot := BitVec.ofNat 8 ((c.slot.toNat + 32) % 176), res := c.res + 1 }

/-- A core whose return has popped its newest return address and moved the window back (R15, R17, R107). -/
def Core.returned (c : Core) (rest : List LAddr) : Core :=
  { c with ras := rest, slot := BitVec.ofNat 8 ((c.slot.toNat + 144) % 176), res := c.res - 1 }

/-- A call to an address by R107: the bad target first, then the window spill, then the store spill, and otherwise the return address pushed, the window moved and PC at the target. -/
def State.CallsBy (s : State) (t : Nat) (i : Instr) (x : Word) : Prop :=
  let c := s.coreAt t
  (¬ s.GoodTarget x → ∃ s', exec i s = .next s' ∧ s.TrapsAt t ⟨0x01, 0x04, x⟩ s') ∧
  (s.GoodTarget x → c.res = 5 → ∃ s', exec i s = .next s' ∧ s.TrapsAt t ⟨0x03, 0, BitVec.ofNat 64 ((c.slot.toNat + 48) % 176)⟩ s') ∧
  (s.GoodTarget x → c.res ≠ 5 → 16 ≤ c.ras.length → ∃ s', exec i s = .next s' ∧ s.TrapsAt t ⟨0x05, 0, 0⟩ s') ∧
  (s.GoodTarget x → c.res ≠ 5 → c.ras.length < 16 →
    ∃ s', exec i s = .next s' ∧ s.Transfers t s (c.called s.sequel) (x.setWidth 18) s')

/-- A core with a loop level set up (R28, R108). -/
def Core.looping (c : Core) (level : Field) (n : BitVec 32) (first last : LAddr) : Core :=
  if level = 0 then { c with lc0 := n, ls0 := first, le0 := last } else { c with lc1 := n, ls1 := first, le1 := last }

/-- The core in turn with its fetch buffer discarded. -/
def State.unbuffered (s : State) : State := s.setCore s.cur { s.core s.cur with fbuf := [] }

/-- How a prefix leaves the machine, at a time (R26): the next instruction comes next, the prefixes pending are those of before and this one, the payloads are as given, the run began at its first prefix, and no register and nothing outside the core has changed. -/
structure State.Prefixes (s : State) (t : Nat) (gd fmt : Bool) (payloads : Word) (s' : State) : Prop where
  now : s'.now = max s.now t
  outside : s'.outside = s.outside
  others : ∀ m, m ≠ s.cur → s'.core m = s.core m
  kept : (s'.core s.cur).kept = (s.coreAt t).kept
  flight : (s'.core s.cur).flight = (s.coreAt t).flight
  pc : (s'.core s.cur).pc = ((s.coreAt t).advance (s.lastHead s.cur)).next
  reps : (s'.core s.cur).reps = ((s.coreAt t).advance (s.lastHead s.cur)).reps
  pending : (s'.core s.cur).pp = true
  pendingGd : (s'.core s.cur).gdPending = (gd || (s.coreAt t).gdPending)
  pendingFmt : (s'.core s.cur).fmtPending = (fmt || (s.coreAt t).fmtPending)
  payload : (s'.core s.cur).epfx = payloads
  began : (s'.core s.cur).runStart = some (match (s.coreAt t).runStart with | some (p, k) => (p, k + 1) | none => ((s.coreAt t).pc, 1))
  running : (s'.core s.cur).run = .running

/-- A core that stands still at its instruction: PC, the register files, the memory and every other core are as they were, and the core is in the given condition. -/
structure State.Stays (s : State) (t : Nat) (r : RunState) (s' : State) : Prop where
  now : s'.now = max s.now t
  others : ∀ m, m ≠ s.cur → s'.core m = s.core m
  mem : s'.mem = s.mem
  pc : (s'.core s.cur).pc = (s.coreAt t).pc
  glob : (s'.core s.cur).glob = (s.coreAt t).glob
  stack : (s'.core s.cur).stack = (s.coreAt t).stack
  hbank : (s'.core s.cur).hbank = (s.coreAt t).hbank
  vec : (s'.core s.cur).vec = (s.coreAt t).vec
  run : (s'.core s.cur).run = r

/-! ### Control registers (R34, R123, R124) -/

/-- A control register that MFC only reads: its number, whether only handler mode reaches it, and its value in the machine at the MFC's issue, to which the MFC's own charge has been made (R34). -/
structure CrRead where
  num : Nat
  handlerOnly : Bool
  value : State → Word

/-- A field of a word at a bit (R11). -/
def field (at' v : Nat) : Nat := v * 2 ^ at'

/-- A prefix awaits its target, that of a GD by bit 1 and that of an FMT by bit 2 of STAT: one of the core's mode, or, in handler mode with none, one of the code that it interrupted (R26). -/
def Core.awaits (c : Core) (bit : Nat) : Bool :=
  if c.stat.getLsbD 0 then c.stat.getLsbD bit else c.hm && c.estat.getLsbD 0 && c.estat.getLsbD bit

/-- The registers of R34 but for WSE and RASE, with what they read as (R15, R24 to R34, R183, R256, R270, R359, R375, R376, R385). -/
def crReads : List CrRead := [
  ⟨0x00, false, fun s => s.cc.stat⟩, ⟨0x01, true, fun s => s.cc.estat⟩, ⟨0x02, true, fun s => s.cc.epc.setWidth 64⟩,
  ⟨0x03, true, fun s => s.cc.ecause⟩, ⟨0x04, true, fun s => s.cc.eaddr⟩, ⟨0x05, true, fun s => BitVec.ofNat 64 ((if s.cc.awaits 2 then field 32 (bitsOf s.cc.epfx 63 32) else 0) + if s.cc.awaits 1 then bitsOf s.cc.epfx 15 0 else 0)⟩, ⟨0x06, true, fun s => s.cc.tvec⟩,
  ⟨0x07, true, fun s => BitVec.ofNat 64 (field 32 s.cc.px.toNat + field 24 s.cc.res.toNat + s.cc.slot.toNat)⟩,
  ⟨0x08, true, fun s => s.cc.wstk⟩, ⟨0x0A, true, fun s => s.cc.rasb⟩,
  ⟨0x0B, true, fun s => BitVec.ofNat 64 (field 32 s.cc.rasSaved.toNat + s.cc.ras.length)⟩,
  ⟨0x0D, false, fun s => s.cc.reps⟩, ⟨0x0E, false, fun s => s.cc.tcmp⟩,
  ⟨0x10, false, fun s => s.cc.lc0.setWidth 64⟩, ⟨0x11, false, fun s => s.cc.ls0.setWidth 64⟩, ⟨0x12, false, fun s => s.cc.le0.setWidth 64⟩,
  ⟨0x13, false, fun s => s.cc.lc1.setWidth 64⟩, ⟨0x14, false, fun s => s.cc.ls1.setWidth 64⟩, ⟨0x15, false, fun s => s.cc.le1.setWidth 64⟩,
  ⟨0x18, true, fun s => s.cc.prot[0]⟩, ⟨0x19, true, fun s => s.cc.prot[1]⟩, ⟨0x1A, true, fun s => s.cc.prot[2]⟩, ⟨0x1B, true, fun s => s.cc.prot[3]⟩,
  ⟨0x1C, true, fun s => s.cc.prot[4]⟩, ⟨0x1D, true, fun s => s.cc.prot[5]⟩, ⟨0x1E, true, fun s => s.cc.prot[6]⟩, ⟨0x1F, true, fun s => s.cc.prot[7]⟩,
  ⟨0x20, false, fun s => BitVec.ofNat 64 (s.cc.clock.cycAt s.now)⟩, ⟨0x21, false, fun s => BitVec.ofNat 64 (s.cc.clock.reftAt s.now)⟩,
  ⟨0x30, false, fun s => BitVec.ofNat 64 (field 13 (s.pkg % 2 ^ 13) + s.cur)⟩,
  ⟨0x31, false, fun s => s.cc.part⟩, ⟨0x32, false, fun s => s.cc.wid⟩, ⟨0x33, false, fun s => s.cc.geom⟩, ⟨0x34, false, fun s => s.cc.ssc⟩,
  ⟨0x35, true, fun s => s.cc.mfr ||| BitVec.ofNat 64 (min 32 s.cc.held.length)⟩,
  ⟨0x38, false, fun s => s.cc.tsm⟩, ⟨0x39, false, fun s => s.cc.lacci⟩,
  ⟨0x3A, false, fun s => BitVec.ofNat 64 (field 8 (s.cc.inbox.head?.elim 0 (fun m => m.kind.toNat)) + s.cc.inbox.length)⟩,
  ⟨0x40, false, fun s => BitVec.ofNat 64 (field 8 s.cc.gie.toNat + s.cc.budget.toNat)⟩,
  ⟨0x41, false, fun s =>
    let seq := s.cc.clock.seqAt s.now
    BitVec.ofNat 64 (field 16 s.cc.blk.toNat +
      ((s.cc.charges.filter (fun e => decide (seq < e.1 + 32 ∧ e.1 ≤ seq))).map Prod.snd).sum % 512)⟩,
  ⟨0x42, false, fun s =>
    let p := ((s.partOf s.cc).map s.partition).getD Partition.idle
    s.cc.grantReplay.getD (BitVec.ofNat 64 (field 48 (p.grantSeq % 2 ^ 16) + field 40 s.cc.grantPend.toNat + field 36 (p.grantCause % 16) +
      field 24 p.mat + field 16 p.vec + field 8 s.chameleon.netNow + s.chameleon.memNow))⟩,
  ⟨0x43, false, fun s =>
    match s.cc.launch.bind (SMap.find s.launches) with
    | some l => if l.flag 2 then BitVec.ofNat 64 (field 32 l.rung + l.frac.toNat) else 0x10000
    | none => 0x10000⟩]

/-- A control register that MTC writes by changing its own register alone (R34, R124). -/
structure CrWrite where
  num : Nat
  write : Core → Word → Core

/-- The bits of a word at the places of a mask, and those of another elsewhere. -/
def mixed (old new mask : Word) : Word := (old &&& ~~~mask) ||| (new &&& mask)

/-- The registers of R34 that MTC writes, but for the loop registers, WSE, RASE and MFR: reserved bits stay or read 0, and a read-only register does not change (R15, R24 to R34, R225, R246, R375). -/
def crWrites : List CrWrite := [
  ⟨0x00, fun c x => { c with stat := mixed c.stat x 0x1F_F140 }⟩,
  ⟨0x01, fun c x => { c with estat := mixed c.estat x 0x1F_F167 }⟩,
  ⟨0x02, fun c x => { c with epc := x.setWidth 18 }⟩, ⟨0x03, fun c x => { c with ecause := x &&& 0xFFFF }⟩,
  ⟨0x04, fun c x => { c with eaddr := x }⟩, ⟨0x05, fun c x => { c with epfx := x &&& 0xFFFF_FFFF_0000_FFFF }⟩,
  ⟨0x06, fun c x => { c with tvec := x &&& 0x3_FFC0 }⟩,
  ⟨0x07, fun c x => { c with
    px := BitVec.ofNat 8 (bitsOf x 39 32 % 176)
    res := if 1 ≤ bitsOf x 26 24 ∧ bitsOf x 26 24 ≤ 5 then BitVec.ofNat 3 (bitsOf x 26 24) else c.res
    slot := BitVec.ofNat 8 (bitsOf x 7 4 * 16 % 176) }⟩,
  ⟨0x08, fun c x => { c with wstk := x &&& 0x3_FFF8 }⟩, ⟨0x0A, fun c x => { c with rasb := x &&& 0x3_FFF8 }⟩,
  ⟨0x0B, fun c x => { c with rasSaved := x.extractLsb' 32 32 }⟩,
  ⟨0x0D, fun c x => { c with reps := x &&& 0xFFFF_FFFF_0003_FFFF }⟩, ⟨0x0E, fun c x => { c with tcmp := x }⟩,
  ⟨0x18, fun c x => { c with prot := c.prot.set 0 (x &&& 0xF003_FFFF_0003_FFFF) }⟩, ⟨0x19, fun c x => { c with prot := c.prot.set 1 (x &&& 0xF003_FFFF_0003_FFFF) }⟩,
  ⟨0x1A, fun c x => { c with prot := c.prot.set 2 (x &&& 0xF003_FFFF_0003_FFFF) }⟩, ⟨0x1B, fun c x => { c with prot := c.prot.set 3 (x &&& 0xF003_FFFF_0003_FFFF) }⟩,
  ⟨0x1C, fun c x => { c with prot := c.prot.set 4 (x &&& 0xF003_FFFF_0003_FFFF) }⟩, ⟨0x1D, fun c x => { c with prot := c.prot.set 5 (x &&& 0xF003_FFFF_0003_FFFF) }⟩,
  ⟨0x1E, fun c x => { c with prot := c.prot.set 6 (x &&& 0xF003_FFFF_0003_FFFF) }⟩, ⟨0x1F, fun c x => { c with prot := c.prot.set 7 (x &&& 0xF003_FFFF_0003_FFFF) }⟩,
  ⟨0x20, fun c _ => c⟩, ⟨0x21, fun c _ => c⟩, ⟨0x30, fun c _ => c⟩, ⟨0x31, fun c _ => c⟩, ⟨0x32, fun c _ => c⟩,
  ⟨0x33, fun c x => { c with geom := x &&& 0xFFFF_FFFF }⟩, ⟨0x34, fun c _ => c⟩, ⟨0x38, fun c _ => c⟩,
  ⟨0x39, fun c x => { c with lacci := x &&& 0x13F }⟩, ⟨0x3A, fun c _ => c⟩,
  ⟨0x40, fun c x => { c with
    gie := x.getLsbD 8
    budget := if bitsOf x 7 0 = 64 ∨ bitsOf x 7 0 = 96 ∨ bitsOf x 7 0 = 128 then BitVec.ofNat 8 (bitsOf x 7 0) else c.budget }⟩,
  ⟨0x41, fun c _ => c⟩, ⟨0x42, fun c _ => c⟩, ⟨0x43, fun c _ => c⟩]

/-- The loop registers, whose writes govern from the next completing instruction on (R28, R124). -/
def loopWrites : List CrWrite := [
  ⟨0x10, fun c x => { c with lc0 := x.setWidth 32 }⟩, ⟨0x11, fun c x => { c with ls0 := x.setWidth 18 }⟩, ⟨0x12, fun c x => { c with le0 := x.setWidth 18 }⟩,
  ⟨0x13, fun c x => { c with lc1 := x.setWidth 32 }⟩, ⟨0x14, fun c x => { c with ls1 := x.setWidth 18 }⟩, ⟨0x15, fun c x => { c with le1 := x.setWidth 18 }⟩]

/-- The responses counted in an account at a time, in their order: the account before each, and its DLY (R245, R273). -/
def Core.cameNow (c : Core) (now i : Nat) : List (Word × Nat) :=
  (c.fresh.filter (fun e => decide (e.1 = now ∧ e.2.1 = i))).map (fun e => (e.2.2.1, e.2.2.2))

/-- An account that has counted responses of the given DLYs alone (R245). -/
def accountOf (dlys : List Nat) : Word := BitVec.ofNat 64 (field 48 (min 0xFFFF dlys.length) + min (2 ^ 48 - 1) dlys.sum)

/-- The TRACE record of R446 with its header (R445). -/
def traceBytes (rank : Nat) (ssc : Word) (tick : Nat) (x y : Word) (e : BitVec 32) (pc : LAddr) : List Byte :=
  bytesOf 1 1 ++ bytesOf 3 0 ++ bytesOf 4 rank ++ bytesOf 8 ssc.toNat ++ bytesOf 8 tick ++
    (bytesOf 8 x.toNat ++ bytesOf 8 y.toNat ++ bytesOf 4 e.toNat ++ bytesOf 4 pc.toNat ++ bytesOf 16 0)

/-! ### Vectors (R125 to R173) -/

/-- Lane `i` of `n` bits of a vector register (R145). -/
def Core.vlane (c : Core) (r : Field) (n i : Nat) : Nat := ((c.readV r.toNat).extractLsb' (n * i) n).toNat

/-- A lane of a vector register as a floating source (R140, R149). -/
def Core.vsource (c : Core) (r : Field) (F : Fmt) (i : Nat) : FVal := srcVal F (c.vlane r F.width i) c.fz

/-- A vector whose first `count` lanes of `n` bits hold the given patterns, with every bit above them zero (R145). -/
def Lanes (v : VWord) (n count : Nat) (f : Nat → Nat) : Prop :=
  (∀ i < count, (v.extractLsb' (n * i) n).toNat = f i % 2 ^ n) ∧ v.toNat < 2 ^ (n * count)

/-- The flags of the first `count` results (R139). -/
def flagsUpTo (count : Nat) (f : Nat → Word) : Word := (List.range count).foldl (fun w i => w ||| f i) 0

/-- A floating form of R149: its exact result of up to three operands. -/
structure FloatForm where
  instr : TailW → Instr
  op : Opcode
  lat : Nat
  sources : Nat
  exact : RMode → FVal → FVal → FVal → Exact

/-- The arithmetic forms of R149. -/
def floatForms : List FloatForm := [
  ⟨.vadd, 0x500, 4, 2, fun rm x y _ => fAdd rm x y⟩, ⟨.vsub, 0x501, 4, 2, fun rm x y _ => fAdd rm x y.negate⟩,
  ⟨.vmul, 0x502, 4, 2, fun _ x y _ => fMul x y⟩, ⟨.vfma, 0x503, 4, 3, fFma⟩,
  ⟨.vfms, 0x504, 4, 3, fun rm x y z => fFma rm x y z.negate⟩, ⟨.vfnma, 0x505, 4, 3, fun rm x y z => fFma rm x.negate y z⟩,
  ⟨.vdiv, 0x506, 12, 2, fun _ x y _ => fDiv x y⟩, ⟨.vsqrt, 0x507, 12, 1, fun _ x _ _ => fSqrt x⟩,
  ⟨.vrcp, 0x508, 6, 1, fun _ x _ _ => fRcp x⟩, ⟨.vrsq, 0x509, 6, 1, fun _ x _ _ => fRsq x⟩,
  ⟨.vexp2, 0x50A, 6, 1, fun _ x _ _ => fExp2 x⟩, ⟨.vlog2, 0x50B, 6, 1, fun _ x _ _ => fLog2 x⟩]

/-- An integer lane form of R155: its result of two patterns. -/
structure LaneForm where
  instr : TailW → Instr
  op : Opcode
  lat : Nat
  value : (n : Nat) → (signed : Bool) → (x y : BitVec n) → BitVec n

/-- The lane forms of R155 that take two sources and set no flag. -/
def laneForms : List LaneForm := [
  ⟨.viadd, 0x600, 2, fun _ _ x y => x + y⟩, ⟨.visub, 0x601, 2, fun _ _ x y => x - y⟩, ⟨.vimul, 0x602, 4, fun _ _ x y => x * y⟩,
  ⟨.vimin, 0x604, 2, fun _ signed x y => if (if signed then x.sle y else x.ule y) then x else y⟩,
  ⟨.vimax, 0x605, 2, fun _ signed x y => if (if signed then x.sle y else x.ule y) then y else x⟩,
  ⟨.vand, 0x606, 2, fun _ _ x y => x &&& y⟩, ⟨.vor, 0x607, 2, fun _ _ x y => x ||| y⟩, ⟨.vxor, 0x608, 2, fun _ _ x y => x ^^^ y⟩,
  ⟨.vshl, 0x609, 2, fun n _ x y => x <<< (y.toNat % n)⟩, ⟨.vshr, 0x60A, 2, fun n _ x y => x >>> (y.toNat % n)⟩,
  ⟨.vsar, 0x60B, 2, fun n _ x y => x.sshiftRight (y.toNat % n)⟩]

/-- A lane of a vector register as a pattern of its type (R155). -/
def Core.ilane (c : Core) (r : Field) (n i : Nat) : BitVec n := (c.readV r.toNat).extractLsb' (n * i) n

/-- The exact sum of two lanes as their type reads them (R155). -/
def Core.laneSum (c : Core) (o : Opnd) (i : Nat) : Int :=
  readAs o.mtype.signed (c.ilane o.a o.mtype.width i) + readAs o.mtype.signed (c.ilane o.b o.mtype.width i)

/-- The integer reduction of two patterns (R165): sum, least, greatest, and, or, exclusive or. -/
def reduced {n : Nat} (rop : Nat) (signed : Bool) (x y : BitVec n) : BitVec n :=
  match rop with
  | 0 => x + y
  | 1 => if (if signed then x.sle y else x.ule y) then x else y
  | 2 => if (if signed then x.sle y else x.ule y) then y else x
  | 3 => x &&& y
  | 4 => x ||| y
  | _ => x ^^^ y

/-- The reduction of lanes 0 to k of a vector register. -/
def Core.reducedTo (c : Core) (r : Field) (rop : Nat) (t : IType) (k : Nat) : BitVec t.width :=
  (List.range k).foldl (fun x i => reduced rop t.signed x (c.ilane r t.width (i + 1))) (c.ilane r t.width 0)

/-- A node of the pairwise tree of R143: at level 0 a lane, above it the operation on two neighbours. -/
def treeNode (f : Coded → Coded → Coded) (lane : Nat → Coded) : (level i : Nat) → Coded
  | 0, i => lane i
  | k + 1, i => f (treeNode f lane k (2 * i)) (treeNode f lane k (2 * i + 1))

/-- A prefix of R144 after some steps, each of twice the distance of the one before it. -/
def prefixNode (f : Coded → Coded → Coded) (lane : Nat → Coded) : (step i : Nat) → Coded
  | 0, i => lane i
  | k + 1, i => if i < 2 ^ k then prefixNode f lane k i else f (prefixNode f lane k (i - 2 ^ k)) (prefixNode f lane k i)

/-- How an instruction with a variable-latency result of vector registers leaves the machine: completed, its results pending until `k` cycles later (R51). -/
def State.PendsTo (s : State) (t k : Nat) (c : Core) (ds : List Dest) (flags : Bool) (s' : State) : Prop :=
  let due := max s.now t + k * c.clock.pipePeriod
  s.Completes t { s with agenda := insertTurn ⟨due, s.cur, .event (.varResultArrival s.cur c.varNext)⟩ s.agenda }
    { c with var := c.var ++ [⟨c.varNext, .at due, [], ds.filterMap Dest.vecReg, ds, flags⟩], varNext := c.varNext + 1 } s'

/-- Offset lane `i` is active (R169). -/
def Core.activeLane (c : Core) (o : Opnd) (i : Nat) : Bool := c.vlane o.a 32 i != 0xFFFFFFFF

/-- The address of an offset lane, Trunc(G(b) + o, 64) (R169). -/
def Core.laneAddress (c : Core) (o : Opnd) (i : Nat) : Nat := (c.readG o.b + BitVec.ofNat 64 (c.vlane o.a 32 i)).toNat

/-- The active offset lanes among the first `count`. -/
def Core.activeLanes (c : Core) (o : Opnd) (count : Nat) : List Nat := (List.range count).filter (c.activeLane o)

/-- The number of elements of a gather or scatter (R170). -/
def elements (width : Nat) : Nat := if width = 64 then 8 else 16

/-- A vector of `n` elements of a format in the own slice (R172). -/
def State.localValues (s : State) (F : Fmt) (ea n : Nat) : List FVal :=
  (List.range n).map (fun j => val F (Memory.readLE s.mem (sliceKey s.cur ea + F.width / 8 * j) (F.width / 8)))

/-- The entries of a top-k list held in two register pairs, with its first `k` (R173). -/
def Core.topList (c : Core) (d ids : Field) (k : Nat) : List (Nat × Nat) :=
  (List.range k).map (fun i => if i < 16 then (c.vlane d 32 i, c.vlane ids 32 i) else (c.vlane (d + 1) 32 (i - 16), c.vlane (ids + 1) 32 (i - 16)))

/-- Entry `i` of a list in four registers, scores first (R173). -/
def entryOf (vs : Fin 4 → VWord) (i : Nat) : Nat × Nat :=
  if i < 16 then (((vs 0).extractLsb' (32 * i) 32).toNat, ((vs 2).extractLsb' (32 * i) 32).toNat)
  else (((vs 1).extractLsb' (32 * (i - 16)) 32).toNat, ((vs 3).extractLsb' (32 * (i - 16)) 32).toNat)

/-- The value of a number as a rational, if it is one. -/
def FVal.rat? : FVal → Option Rat
  | .num n m => some (if n then -m else m)
  | _ => none

/-- The value p of a block, in any form of its sum x: each product is exact, one that is NaN or infinities of both signs make x NaN, infinities of one sign make it that infinity, and p is x times the scales (R132, R142). -/
def DotBlock.Sums (k : DotBlock) (p : FVal) : Prop :=
  let products := (k.a.zip k.b).map (fun e => (fMul e.1 e.2).v)
  ∃ x : FVal, p = (fMul (fMul x k.scaleA).v k.scaleB).v ∧
    ((.nan false ∈ products ∨ (.inf true ∈ products ∧ .inf false ∈ products)) → x = .nan false) ∧
    (.nan false ∉ products → ∀ n, .inf n ∈ products → .inf (!n) ∉ products → x = .inf n) ∧
    (∀ rs : List Rat, products.map FVal.rat? = rs.map some → x.rat? = some rs.sum)

/-- The order of R142: blocks are added into an FP32 accumulator one after the other, each by one rounding to nearest with subnormals kept, and a block whose value is an exact zero leaves it as it is and sets no flag. -/
structure AddsBlocks (f : Nat → List DotBlock → Coded) : Prop where
  none : ∀ acc, f acc [] = ⟨acc, 0⟩
  zero : ∀ acc k ks p, k.a.length = k.b.length → k.Sums p → p.rat? = some 0 → f acc (k :: ks) = f acc ks
  add : ∀ acc k ks p, k.a.length = k.b.length → k.Sums p → p.rat? ≠ some 0 →
    let e := fAdd .rne (val .f32 acc) p
    let r := enc .f32 e.v .rne 0 false false
    (f acc (k :: ks)).code = (f r.code ks).code ∧ (p.rat? ≠ Option.none → (f acc (k :: ks)).flags = e.flags ||| r.flags ||| (f r.code ks).flags)

/-- A block of 16 elements at places of two sequences of bits, given by the bit at which each begins (R135). -/
structure DotBlock.At (d : DotBlock) (A B : Fmt) (xs ys x0 y0 : Nat) : Prop where
  lengths : d.a.length = 16 ∧ d.b.length = 16
  a : ∀ i < 16, d.a[i]? = some (val A (xs / 2 ^ (x0 + A.width * i) % 2 ^ A.width))
  b : ∀ i < 16, d.b[i]? = some (val B (ys / 2 ^ (y0 + B.width * i) % 2 ^ B.width))

/-- The term of a distance on numbers: squared difference, negated product, or size of the difference (R172). -/
def termOf (metric : Nat) (q x : Rat) : Rat :=
  match metric with
  | 0 => (q - x) * (q - x)
  | 1 => -(q * x)
  | _ => |q - x|

/-- The formats of R128 that have a mantissa and an exponent, or an encoder like theirs. -/
def mantissaFormats : List Fmt := [.f32, .bf16, .f16, .e4m3, .e5m2, .e3m2, .e2m3, .e2m1]

/-- A finite code of a format and its value (R128, R129). -/
def FiniteCode (F : Fmt) (c : Nat) (x : Rat) : Prop := c < 2 ^ F.width ∧ (val F c).rat? = some x

/-! ### Near and global requests (R249 to R269, R272, R288) -/

/-- The ea of a D form, Trunc(G(a) + SignExt(imm32, 32), 64) (R249). -/
def Core.addressD (c : Core) (o : Opnd) (tail : TailD) : Word := c.readG o.a + tail.imm.signExtend 64

/-- An instruction that makes one near or global request and has no other effect: its alignment, what its destination does, whether it writes, and the registers its response writes. -/
structure RequestForm where
  instr : TailD → Instr
  sig : Sig
  near : Opnd → Bool
  align : Opnd → Nat
  op : Core → Opnd → ReqOp
  writes : Bool
  result : Bool
  gens : Opnd → List Field
  vecs : Opnd → List Nat

/-- Pat(G(d), N) as a number (R253). -/
def Core.storeValue (c : Core) (o : Opnd) : Nat := (c.typed o.d o.mtype.width).toNat

/-- LDN, STN, LDG, STG, LDGV, STGV, AMO, PUTC and WAKE (R253, R254, R259, R261, R264). -/
def requestForms : List RequestForm :=
  let n := fun o : Opnd => o.mtype.width / 8
  let load := fun (_ : Core) (o : Opnd) => ReqOp.load (n o) o.mtype.signed
  let store := fun (c : Core) (o : Opnd) => ReqOp.store (n o) (c.storeValue o)
  [⟨.ldn, sigMem 0x400 .gw [0, 1], fun _ => true, n, load, false, true, fun o => [o.d], fun _ => []⟩,
    ⟨.stn, sigMem 0x401 .gr [0, 2], fun _ => true, n, store, true, false, fun _ => [], fun _ => []⟩,
    ⟨.ldg, sigMem 0x402 .gw [0, 1], fun _ => false, n, load, false, true, fun o => [o.d], fun _ => []⟩,
    ⟨.stg, sigMem 0x403 .gr [0, 2], fun _ => false, n, store, true, false, fun _ => [], fun _ => []⟩,
    ⟨.ldgv, sigMemV 0x404 .vw [0, 1], fun _ => false, fun _ => 64, fun _ _ => .loadV, false, true, fun _ => [], fun o => [o.d.toNat]⟩,
    ⟨.stgv, sigMemV 0x405 .vr [0, 2], fun _ => false, fun _ => 64, fun c o => .store 64 (c.readV o.d.toNat).toNat, true, false, fun _ => [], fun _ => []⟩,
    ⟨.amo, sigAmo, fun o => o.c.getLsbD 4, n,
      fun c o => .amo (o.c.toNat % 16) (n o) o.mtype.signed (readAs o.mtype.signed (c.typed o.b o.mtype.width)) (readAs o.mtype.signed (c.typed o.d o.mtype.width)),
      true, true, fun o => [o.d], fun _ => []⟩,
    ⟨.putc, sigPutc, fun _ => false, n, fun c o => .putc (n o) (c.storeValue o) o.b.toNat, true, false, fun _ => [], fun _ => []⟩,
    ⟨.wake, sigWake, fun _ => false, fun _ => 8, fun _ o => .wake (o.m.getLsbD 0), false, false, fun _ => [], fun _ => []⟩]

/-- The request of an instruction of the core in turn that issues at a time, as `c` stands then: on its way, but for the time it leaves (R244, R249 to R252, R256, R258, R335). -/
def State.madeBy (s : State) (c : Core) (g : Sig) (o : Opnd) (tail : TailD) (near : Bool) (op : ReqOp) (writes : Bool) : Req :=
  let ea := c.addressD o tail
  { core := s.cur, client := .core, seq := c.reqSeq, op := op, near := near, ea := ea
    acquire := o.m.getLsbD 3, release := if o.m.getLsbD 4 then some (o.m.toNat / 32) else none, blocks := false, handler := c.hm
    result := none, dst := none, dst2 := none, vec := none, reg := o.d, opc := g.op.toNat % 256
    cls := if badAddress near ea then none else some (classOf s.cur (if near then nearPlace s.cur ea else globalPlace s.pkg ea))
    writes := writes, sentAt := 0, cycles := 0, stage := .sent, withdrawn := false, drains := (c.ranges.filter (·.drain)).map (·.owner) }

/-- A core whose request has issued: its number, and for a write its TSM bit (R247, R251, R288). -/
def Core.asked (c : Core) (r : Req) : Core :=
  let c := { c with reqSeq := c.reqSeq + 1 }
  match r.writes, r.cls with
  | true, some n => { c with tsm := c.tsm ||| BitVec.ofNat 64 (2 ^ n), lastWrite := SMap.put c.lastWrite n r.seq }
  | _, _ => c

/-- A core with a result pending on a request (R51). -/
def Core.pends (c : Core) (id : Nat) (gens : List Field) (vecs : List Nat) : Core :=
  { c with var := c.var ++ [⟨c.varNext, .req id, gens.filterMap c.phys, vecs, [], false⟩], varNext := c.varNext + 1 }

/-- A request as it stands in the machine, apart from its stage and the time it left. -/
def State.HasRequest (s : State) (id : Nat) (r : Req) (stage : ReqStage) : Prop :=
  ∃ q, s.req id = some q ∧ { q with stage := r.stage, sentAt := r.sentAt, used := r.used } = r ∧ q.stage = stage

/-- Where a request that its interface lets go stands next: on its way, or answered by the interface when step 1 of R234 refuses it (R232 to R235). -/
def Req.leaves (r : Req) : ReqStage :=
  if badAddress r.near r.ea then .answered (.fail (if r.near then 0x0A else 0x0C) (if r.writes then 0x81 else 0x01)) else .sent

/-- The earlier requests that keep back one that issues now (R252, R276, R277, R286). -/
def State.ahead (s : State) (r : Req) : List Nat :=
  (SMap.keys s.reqs).filter (fun w => w != s.nextId && (match s.req w with | some q => s.keepsBack w q r | none => false))

/-- None of them is held behind a failure (R255). -/
def State.noneHeld (s : State) (r : Req) : Prop := ∀ w ∈ s.ahead r, ∀ q, s.req w = some q → q.stage ≠ .held

/-- A request that issues goes at once: nothing keeps it back, and no drain of its core runs (R252, R277, R335). -/
def State.goesAt (s : State) (c : Core) (r : Req) : Bool := (s.ahead r).isEmpty && c.ranges.all (fun g => !g.drain)

/-- Where a request that issues stands. -/
def State.startsAt (s : State) (c : Core) (r : Req) : ReqStage := if s.goesAt c r then r.leaves else .atInterface (s.ahead r)

/-! ### Events -/

/-- An event is in the agenda for a time. -/
def State.Posted (s : State) (due : Nat) (i : Instr) : Prop := ∃ core, ⟨due, core, .event i⟩ ∈ s.agenda

/-- A request that the slice of a core can serve now through the near fabric: it waits there with none beside it, its place is that slice, its core shares the launch range, and the slice is ready and taken neither by an access nor by a fetch (R232 to R234). -/
structure State.AtSlice (s : State) (id : Nat) (r : Req) (c off : Nat) : Prop where
  request : s.req id = some r
  only : ∀ e ∈ s.reqs, e.1 = id → e.2 = r
  own : r.client = .core
  sent : r.stage = .sent
  near : r.near = true
  kept : s.drops (s.pidOf r.core) = false
  place : nearPlace r.core r.ea = .slice c off
  free : max (s.core c).sliceFree (s.core c).fetchFree ≤ s.now
  first : (s.core c).sliceQueue = [id]
  shares : s.sharesRange r.core c = true
  ready : s.ready (r.core / 1024) (.slice c off) = true

/-- A partition without a memory budget, in a budget interval that has begun (R371). -/
def State.Unbudgeted (s : State) (part : Nat) : Prop :=
  (128 ≤ part ∨ bitsOf (s.page part 0x18) 31 0 = 0) ∧ s.now / (1000 * tickUnits) = s.budgetEpoch

/-- The walker that a core's results of COVQ.next still pending will leave (R190, R191). -/
def Core.walkerDue (c : Core) : Walker :=
  ((c.var.flatMap (·.writes)).filterMap (fun d => match d with | .walker w _ => some w | _ => none)).getLast?.getD c.walker

/-- The rights, the write capability and the data of a near access are in order (R23, R234, R271, R398). -/
structure State.Passes (s : State) (r : Req) (c off : Nat) : Prop where
  read : r.op.reads = true → ∀ i < r.op.size, (s.core c).accessible 62 (off + i) = true
  write : r.writes = true → ∀ i < r.op.size, (s.core c).accessible 61 (off + i) = true
  capability : s.capability r (sliceKey c off) (s.granuleLeaf c (s.vfOf r.core) (.slice c off) 0) = none
  good : s.badData r (sliceKey c off) = none

/-- A near request answered: its stage, and the arrival of its response 2L + 1 cycles after it left (R233). -/
def State.AnswersNear (s : State) (id : Nat) (r : Req) (c : Nat) (a : Answer) (s' : State) : Prop :=
  let k := (s.core r.core).clock.vec
  let levels := if r.core / 4 = c / 4 then 1 else if r.core / 16 = c / 16 then 3 else 5
  s'.HasRequest id r (.answered a) ∧ ⟨k.edge (k.index s.now + levels + 1), r.core, .event (.responseArrival id)⟩ ∈ s'.agenda

/-- The word that an atomic writes (R259), of exact operands. -/
def atomicNew (n : Nat) (opn : Nat) (old x cmp : Int) : BitVec n :=
  let o := BitVec.ofInt n old
  let v := BitVec.ofInt n x
  match opn with
  | 0 => o + v
  | 1 => o &&& v
  | 2 => o ||| v
  | 3 => o ^^^ v
  | 4 => if old ≤ x then o else v
  | 5 => if old ≤ x then v else o
  | 6 => v
  | 7 => if old = cmp then v else o
  | _ => if 0 < old then o - 1 else o

/-! ### The matrix engine (R316 to R338) -/

/-- How an instruction with a variable-latency result of one general register leaves the core in turn: completed, its result pending until `k` cycles later (R51). -/
def State.PendsGen (s : State) (t k : Nat) (c : Core) (d : Option PReg) (v : Word) (s' : State) : Prop :=
  let due := max s.now t + k * c.clock.pipePeriod
  s.Completes t s' { c with var := c.var ++ [⟨c.varNext, .at due, d.toList, [], [.gen d v], false⟩], varNext := c.varNext + 1 } s' ∧
    ⟨due, s.cur, .event (.varResultArrival s.cur c.varNext)⟩ ∈ s'.agenda

/-- The pod and the slice of the core in turn (R316). -/
def State.curPod (s : State) : Nat := s.cur / 8

/-- A run of `n` free operand slots (R320). -/
def Matrix.FreeAt (m : Matrix) (n i : Nat) : Prop := i + n ≤ 256 ∧ ∀ j < n, (m.slot (i + j)).claim = none

/-- How a command leaves the machine: completed by the core, and in the pod's queue, not yet accepted, with the engine's first edge after it (R324). -/
def State.Queues (s : State) (t : Nat) (kind : MatKind) (c : Core) (s' : State) : Prop :=
  s.Completes t s' c s' ∧ s'.mem = s.mem ∧ (s'.matrix s.curPod).slots = (s.matrix s.curPod).slots ∧
    SMap.find (s'.matrix s.curPod).cmds (s.matrix s.curPod).nextCmd = some ⟨s.cur, kind, false, false, s.matEdgeAfter s.curPod (max s.now t), none, 0, none⟩ ∧
    ∃ due, ⟨due, s.cur, .event (.matrixCommandAccept s.curPod s.cur)⟩ ∈ s'.agenda

/-- The stores of an unconverted drain: the valid columns of each row (R334). -/
def State.drainStores (s : State) (pod core bank ea : Nat) (stride : Word) (nr cmask : Nat) : List (Nat × Nat × Nat) :=
  (List.range nr).flatMap (fun r => ((List.range 16).filter (fun col => cmask.testBit col)).map (fun col =>
    ((BitVec.ofNat 64 ea + BitVec.ofNat 64 r * stride + BitVec.ofNat 64 (4 * col)).toNat, 4, s.bankElem pod (core % 8) bank r col)))

/-! ### Arbitration (R239) -/

/-- A pair, numbered 4 × port + VC, in the set E of an output: its head packet can go through that output now, and its next hop has room for all of it (R238, R239, R243). -/
def State.Contends (s : State) (router out pair id : Nat) (p : Packet) : Prop :=
  pair < 28 ∧ s.headOf (28 * router + pair) = some (id, p) ∧ (∃ t ≤ s.now, p.since = some t) ∧ s.drops p.pid = false ∧ out ∈ p.outputs ∧
    s.bufUsed (targetBuf router out p.vc) + p.flits ≤ 8

/-- The counts of an output before a grant that is not urgent: as they are while some pair of E has one above 0, and otherwise the weights of the VCs (R238, R239). -/
def State.Counts (s : State) (router out : Nat) (cnt : List Nat) : Prop :=
  let o := s.outPort router out
  let left := ∃ q id p, s.Contends router out q id p ∧ 0 < o.cnt[q]?.getD 0
  (left → cnt = o.cnt) ∧ (¬ left → cnt = (List.range 28).map (fun q => max 1 (bitsOf (s.reg 0x118) (4 * (q % 4) + 3) (4 * (q % 4)))))

/-! ### Barriers, clocks and partitions -/

/-- A core that stood at an instruction in user mode, outside a run of prefixes, has entered its handler for a cause: EPC is the instruction, the cause and the address are saved, and it issues (R117). -/
structure Core.EnteredFor (c : Core) (r : Raise) (c' : Core) : Prop where
  hm : c'.hm = true
  ie : c'.ie = false
  epc : c'.epc = c.pc
  ecause : c'.ecause = (r.qual.setWidth 64 <<< 8) ||| r.code.setWidth 64
  eaddr : c'.eaddr = r.eaddr
  pc : c'.pc.toNat = (c.tvec.extractLsb' 6 12).toNat * 64
  running : c'.run = .running

end Sys2Proof.Machine
end

