-- ==== Sys2Proof/Certificates/Slice0/Obligations.lean ====
section
/-! DEFINITION. The statements for the provers. -/

open Sys2Proof Sys2Proof.Machine

/-- R40, R56 to R68: every well-formed instruction that has an encoding is decoded from its bytes, with every operand, whatever follows them; the bytes are two of head and those of its opcode's tail. -/
def Obligations.DecodeOfEncode : Prop :=
  ∀ (i : Instr) (op : Opcode) (t : BitVec 64) (last : Bool) (stall : BitVec 3) (rest : List Byte), i.wf = true → i.code = some (op, t) →
    ∃ bs, encode i last stall = some bs ∧ bs.length = 2 + tailBytes op ∧
      decode (bs ++ rest) = .ok (Head.make last stall op, i, rest) ∧ Head.op (Head.make last stall op) = op

/-- R38, R39, R41: a line that holds heads and tails that fit in its 64 bytes, of which only the last head has L set, decodes to them. -/
def Obligations.LinesHoldTheirSlots : Prop :=
  ∀ (xs : List LineSlot) (x : LineSlot), (∀ y ∈ xs, Head.last y.head = false) → Head.last x.head = true →
    (∀ y ∈ xs ++ [x], y.tail.toNat < 2 ^ (8 * tailBytes (Head.op y.head))) →
    ((xs ++ [x]).map (fun y => 2 + tailBytes (Head.op y.head))).sum ≤ 64 → decodeLine (packLine (xs ++ [x])) = .ok (xs ++ [x])

/-- R41, R102, the worked lines of the spec: the bytes that the spec gives for LD, LI, ADD and HALT are those instructions, and a line of zeros is malformed. -/
def Obligations.SpecWordsDecode : Prop :=
  decode [0x30, 0x02, 0x14, 0, 0, 0, 0, 1, 0, 0] = .ok (0x0230, .li ⟨20, 0, 0, 0, 0, 0x100⟩, []) ∧
  decode [0x00, 0x03, 0x15, 0x25, 0x10, 0, 0, 0] = .ok (0x0300, .ld ⟨21, 20, 2, 4⟩, []) ∧
  decode [0x00, 0x03, 0x1E, 0x54, 0xF8, 0xFF, 0xFF, 0xFF] = .ok (0x0300, .ld ⟨30, 16, 5, 0x3FFF_FFFE⟩, []) ∧
  decode [0x00, 0x21, 0x56, 0x55, 0x01, 0x07] = .ok (0x2100, .add ⟨22, 21, 21, 0, 7⟩, []) ∧
  decode [0x0A, 0x80] = .ok (0x800A, .halt, []) ∧
  (∀ slots, decodeLine 0 ≠ .ok slots)

/-- The memory keeps its canonical form in every step: addresses strictly rising, and no byte listed that equals what an unlisted byte reads as (log 4). -/
def Obligations.MemoryStaysCanonical : Prop :=
  ∀ s s' : State, Memory.wf s.mem = true → step s = .next s' → Memory.wf s'.mem = true

/-- R344, R360, R369, R460: reset leaves memory with nothing listed, no core, launch, lap, lease or partition, no unit ready, and the cap at its floor; memory is in its canonical form. Memory that is all zero, the nominal network and memory clocks, and cores that are off are the model's choice (logs 2, 4 and 14). -/
def Obligations.ResetLeavesItsState : Prop :=
  let s := State.reset
  Memory.wf s.mem = true ∧ s.mem = [] ∧ s.launches = [] ∧ s.agenda = [] ∧ s.now = 0 ∧
    (∀ n, (s.core n).run = .off ∧ (s.core n).launch = none) ∧ (∀ i, (s.part i).valid = false) ∧
    s.ring.inLap = false ∧ s.ring.laps = 0 ∧ s.lapImage = [] ∧ s.chameleon.leaseEnd = none ∧ s.chameleon.cap = 1200 ∧
    s.reg 0x00 = 0 ∧ s.reg 0x08 = 0 ∧ s.reg 0x10 = 0 ∧ s.reg 0x100 = 0 ∧ s.inForce = ⟨0, 0, 24, 16⟩

/-- R8, R38 to R43: the event due first is carried out at its time; otherwise the core whose instruction comes earliest executes the instruction of the slot at its PC, read from its line's 64 bytes in memory where its fetch buffer is empty. -/
def Obligations.StepRunsTheDecodedInstruction : Prop :=
  (∀ (s : State) (t : Turn) (ts : List Turn) (i : Instr), s.agenda = t :: ts → t.act = .event i →
    (∀ n ∈ s.candidates, ∀ a, s.turnOf n = some a → t.due ≤ a.1) →
    step s = exec i { s with agenda := ts, now := max s.now t.due, cur := t.core }) ∧
  (∀ (s t : State) (n : Nat) (i : Instr), n ∈ SMap.keys s.cores → s.chameleon.pauseEnd = none → (s.core n).run = .running → s.stopsHere n = false →
    s.instrAt n = i → exec i { s with cur := n } = .next t → t.core n ≠ s.core n →
    (∀ e ∈ s.agenda, t.now < e.due) → (∀ m ∈ s.candidates, m ≠ n → ∀ a, s.turnOf m = some a → t.now < a.1) → step s = .next t) ∧
  (∀ (s : State) (n : Nat) (slots : List LineSlot) (x : LineSlot) (op : Opcode) (bits : BitVec 64) (i : Instr), (s.core n).fbuf = [] →
    decodeLine (BitVec.ofNat 512 (Memory.readLE s.mem (sliceKey n (64 * ((s.core n).pc.toNat / 64))) 64)) = .ok slots → (s.core n).pc.toNat % 2 = 0 →
    slots[(s.core n).pc.toNat % 64 / 2]? = some x → s.instrAt n = decodeInstr (Head.op x.head) x.tail ∧
    (i.wf = true → i.code = some (op, bits) → Head.op x.head = op → x.tail = bits → s.instrAt n = i))

/-- R46, R48, R49, R374, R396: an instruction of the core in turn executes when its line has it, its encoding is legal and meets no prefix, nothing is pending on the core, no access of it is outstanding, and its charge is within the budget; its operands are those encoded, moved on by the repetition. -/
def Obligations.QuietCoreIssues : Prop :=
  ∀ (s : State) (g : Sig) (raw : Opnd), let c := s.core s.cur
    let o := c.stagger (g.roles raw) raw
    c.Quiet → s.lineFault s.cur = none → s.prefixMisuse s.cur g.op raw.m = none → g.illegal c o = none → opClass g.op ≠ 0x9 →
    s.outstanding s.cur = 0 → s.acquiring s.cur = false → s.flushing s.cur = false → chargeOf g.op ≤ c.budget.toNat →
    0 < c.clock.pipePeriod → ∃ t, s.Issues g raw t o ∧ c.notPast s.now (c.earliest s.now s.stallHere) ≤ t

/-- R42, R47, R49, R69, R218, R255, R256, R353, R396: in user mode an instruction whose line faults takes that fault, before the misuse of its prefixes, before the lowest qualifier of its encoding, before exchange misuse; and an opcode that no table assigns is illegal with qualifier 0, and a COVQ of no operation with qualifier 3. With STAT.CE set, the first register read whose result is still in flight is an undersized stall count; an instruction that touches a failed access's register, or is a drain point, reports the oldest failed access held, which MFR then describes; and WAITC reports a corrupted tile of its counter's context before it waits. -/
def Obligations.ChecksInOrder : Prop :=
  (∀ (s : State) (g : Sig) (raw : Opnd) (effect : Opnd → State → Result), let c := s.core s.cur
    let o := c.stagger (g.roles raw) raw
    let t := c.notPast s.now (c.earliest s.now s.stallHere)
    let traps := fun t r => ∃ s', issue g raw s effect = .next s' ∧ s.TrapsAt t r s'
    c.Ready g.op → c.hm = false →
    (∀ r, s.lineFault s.cur = some r → traps (c.notPast s.now (c.earliest s.now 0)) r) ∧
    (s.lineFault s.cur = none →
      (∀ q, s.prefixMisuse s.cur g.op raw.m = some q → traps t ⟨0x02, q, 0⟩) ∧
      (s.prefixMisuse s.cur g.op raw.m = none →
        (∀ q, g.illegal c o = some q → traps t ⟨0x01, q, 0⟩) ∧
        (g.illegal c o = none → c.xm = true → exchangeAllows g.op = false → traps t ⟨0x12, 0x00, 0⟩) ∧
        (g.illegal c o = none → c.xm = false → opClass g.op = 0x9 → traps t ⟨0x12, 0x01, 0⟩) ∧
        (∀ (op : Opcode) (tail : TailW), g.op = op → raw.m = tail.m →
          (opClass op ≠ 0xB ∨ opFn op ≠ 0x05 → ∃ s', exec (.unassignedOpcode op tail) s = .next s' ∧ s.TrapsAt t ⟨0x01, 0x00, 0⟩ s') ∧
          (opClass op = 0xB → opFn op = 0x05 → tail.a = 0 → tail.b = 0 → tail.c = 0 →
            ∃ s', exec (.unassignedOpcode op tail) s = .next s' ∧ s.TrapsAt t ⟨0x01, 0x03, 0⟩ s')) ∧
        (g.illegal c o = none → c.xm = false → opClass g.op ≠ 0x9 → c.gdPending = false → g.waitsFlags o = false → g.misuses s (c.at t) o = false →
          c.blocks t (chargeOf g.op) = false → 0 < c.clock.pipePeriod →
          (∀ pre u post, c.ce = true → c.var = [] → g.waitsAll = false → isDrainPoint g.op = false → touchesMemory g.op = false →
            (∀ f ∈ c.flight, ∀ w ∈ g.writesOf c o, f.covers w = false) → g.readsOf c o = pre ++ u :: post →
            (∃ f ∈ c.flight, t < f.due ∧ f.covers u = true) → (∀ w ∈ pre, ∀ f ∈ c.flight, f.covers w = true → f.due ≤ t) →
            traps t ⟨0x13, BitVec.ofNat 8 ((if u.vec then 64 else 0) + u.num % 64), 0⟩) ∧
          (∀ pre h post q code qual, c.flight = [] → (∀ v ∈ c.var, c.failedResult v = true) →
            (touchesMemory g.op = true → s.acquiring s.cur = false ∧ c.memReady ≤ s.now) → (isRemoteAccess g.op = true → s.flushing s.cur = false) →
            (isDrainPoint g.op = true → s.outstanding s.cur = 0 ∧ c.ranges.any (·.drain) = false) →
            (isDrainPoint g.op = true ∨ ∃ v ∈ c.var, ∃ u ∈ g.readsOf c o ++ g.writesOf c o, v.covers u = true) →
            c.held = pre ++ h :: post → (∀ x ∈ pre, x.failure = none) → h.failure = some (code, qual) → h.handler = false → s.req h.req = some q →
            ∃ s', issue g raw s effect = .next s' ∧ (∀ m, m ≠ s.cur → s'.core m = s.core m) ∧ s'.mem = s.mem ∧ s'.now = max s.now t ∧
              ({ s.coreAt t with mfr := BitVec.ofNat 64 (field 63 1 + field 40 q.opc + field 32 q.reg.toNat), reported := some h.req } : Core).drained.Trapped
                t ⟨code, qual, q.ea⟩ (c.runStart.elim c.pc Prod.fst) c.runStart.isSome (s'.core s.cur)))))) ∧
  (∀ (s : State) (tail : TailW) (t : Nat) (o : Opnd), s.Issues sigWaitc (opndW tail) t o → (s.coreAt t).hm = false → ∀ x < 2, let k := s.ctx (2 * s.cur + x)
    k.counter = o.b.toNat → k.corrupt = true → k.reported = false →
    (x = 1 → ¬ ((s.ctx (2 * s.cur)).counter = o.b.toNat ∧ (s.ctx (2 * s.cur)).corrupt = true ∧ (s.ctx (2 * s.cur)).reported = false)) →
    ∀ f header rest, k.bad = (f, header) :: rest → ∃ s', exec (.waitc tail) s = .next s' ∧
      s.TrapsAt t ⟨0x10, BitVec.ofNat 8 (x + (if k.retry then 2 else 0) + (if header then 4 else 0)), BitVec.ofNat 64 (k.layer * 2 ^ 32 + f)⟩ s' ∧
      (s'.ctx (2 * s.cur + x)).reported = true)

/-- R117: a trap entry from user mode saves STAT, PC, the cause and the address, enters handler mode with interrupts off and no prefix pending, goes to the TVEC line, and changes no general register, no loop register and no byte of memory. R122, R401: a fault in handler mode is a double fault: the core retires, STAT, ESTAT, EPC, ECAUSE, EADDR and every register keep their values, and it issues nothing further. -/
def Obligations.TrapEntryAndDoubleFault : Prop :=
  (∀ (s : State) (n t : Nat) (r : Raise) (epc : LAddr) (issued : Bool), (s.core n).drained.hm = false →
      s.Enters n t r epc issued (s.trapEntry n t r epc issued)) ∧
  (∀ (s : State) (n t : Nat) (r : Raise) (epc : LAddr) (issued : Bool), (s.core n).drained.hm = true →
      (s.trapEntry n t r epc issued).core n = { s.core n with run := .doubleFaulted } ∧
      (∀ m, m ≠ n → (s.trapEntry n t r epc issued).core m = s.core m) ∧
      ((s.trapEntry n t r epc issued).core n).issues = false)

/-- R109, R110: the loop-end rule, level 1 before level 0, outside a repetition; in handler mode PC goes to the next instruction and no loop count changes. R112: within a repetition pass the next body instruction follows; after the last one the next pass begins at BASE with LEFT one lower, and after the final pass LEFT and POS are 0 and the loop-end rule applies. -/
def Obligations.LoopsAndRepetitionsPass : Prop :=
  (∀ (c : Core) (last : Bool), c.inRep = false →
      (c.advance last).reps = c.reps ∧
      (c.hm = true → (c.advance last).next = seqNext c.pc last ∧ (c.advance last).lc0 = c.lc0 ∧ (c.advance last).lc1 = c.lc1) ∧
      (c.hm = false → c.EndsLoops last (c.advance last))) ∧
  (∀ (c : Core) (last : Bool), c.inRep = true →
      let a := c.advance last
      (bitsOf c.reps 37 35 < bitsOf c.reps 34 32 → bitsOf a.reps 37 35 = bitsOf c.reps 37 35 + 1 ∧ a.next = seqNext c.pc last ∧
        bitsOf a.reps 63 38 = bitsOf c.reps 63 38 ∧ bitsOf a.reps 34 0 = bitsOf c.reps 34 0 ∧ a.lc0 = c.lc0 ∧ a.lc1 = c.lc1) ∧
      (bitsOf c.reps 34 32 ≤ bitsOf c.reps 37 35 → bitsOf a.reps 37 35 = 0 ∧ bitsOf a.reps 47 38 = bitsOf c.reps 47 38 ∧
        bitsOf a.reps 34 0 = bitsOf c.reps 34 0 ∧ bitsOf a.reps 63 48 = bitsOf c.reps 63 48 - 1 ∧
        (1 < bitsOf c.reps 63 48 → a.next = c.reps.extractLsb' 0 18 ∧ a.lc0 = c.lc0 ∧ a.lc1 = c.lc1) ∧
        (bitsOf c.reps 63 48 = 1 → c.EndsLoops last a)))

/-- R49, R50: the newest result of a register is in it from its time on and not before, results of other registers are not touched by it, and a result for g0 is discarded. -/
def Obligations.ResultsLandAtTheirTime : Prop :=
  ∀ (c : Core) (due t : Nat), c.var = [] →
    (∀ p x, c.Holds p → due ≤ t → ((c.gets due (.gen (some p) x)).at t).getP p = x) ∧
    (∀ p q x, q ≠ p → ((c.gets due (.gen (some p) x)).at t).getP q = (c.at t).getP q) ∧
    (∀ n x, n < 32 → due ≤ t → ((c.gets due (.vec n x)).at t).readV n = x) ∧
    (∀ n m x, m ≠ n → ((c.gets due (.vec n x)).at t).readV m = (c.at t).readV m) ∧
    (∀ x q, ((c.gets due (.gen none x)).at t).getP q = (c.at t).getP q) ∧
    (∀ d q m, t < due → ((c.gets due d).at t).getP q = (c.at t).getP q ∧ ((c.gets due d).at t).readV m = (c.at t).readV m)

/-- R12 to R14, R36: g0 reads as 0, g1 to g15 are the global registers, and g16 to g63 are the handler bank in handler mode and the window at SLOT in user mode. -/
def Obligations.RegisterNumbersNameTheirPlaces : Prop :=
  ∀ (c : Core) (n : Field),
    (n = 0 → c.phys n = none ∧ c.readG n = 0) ∧
    (1 ≤ n.toNat → n.toNat ≤ 15 → c.phys n = some (.glob (n.toNat - 1))) ∧
    (16 ≤ n.toNat → c.hm = true → c.phys n = some (.hbank (n.toNat - 16))) ∧
    (16 ≤ n.toNat → c.hm = false → c.phys n = some (.stack ((c.slot.toNat + (n.toNat - 16)) % 176)))

/-- R50, R51: an instruction that executes finds no unfinished variable-latency result on a register that it reads or writes, but for one whose access has failed, and each of its results, at the latency that issue knows for it, lands after every earlier one to the same register. -/
def Obligations.IssueKeepsProgramOrderOfWrites : Prop :=
  ∀ (s : State) (g : Sig) (raw o : Opnd) (t : Nat), s.gate s.cur g raw = .go t o → 0 < (s.core s.cur).clock.pipePeriod →
    (∀ v ∈ (s.core s.cur).var, ∀ u ∈ g.readsOf (s.core s.cur) o ++ g.writesOf (s.core s.cur) o, v.covers u = true →
      (∃ due, v.source = .at due ∧ due ≤ t) ∨ (s.core s.cur).failedResult v = true) ∧
    (∀ f ∈ (s.core s.cur).flight, ∀ u ∈ g.writesOf (s.core s.cur) o, f.covers u = true →
      ∃ u ≤ t, f.due < t + (g.lat + g.slow s ((s.core s.cur).at u) o) * (s.core s.cur).clock.pipePeriod)

/-- R25, R115: a target is squashed only when its guard, Bit(G(a), b) XOR f[0] of the GD pending, is 0; it then counts as completed, and changes no register, no memory and nothing else. With nothing on its way and the charge within the budget, a target is squashed exactly when its guard is 0, and executes when it is 1. -/
def Obligations.SquashedTargetOnlyCompletes : Prop :=
  (∀ (s : State) (g : Sig) (raw : Opnd) (t : Nat) (effect : Opnd → State → Result),
    (s.core s.cur).issues = true → (s.core s.cur).holding = false →
    ((s.core s.cur).betweenPrefixes g.op = true ∨ (s.core s.cur).run ≠ .running ∨ (s.core s.cur).interruptBefore t = none) →
    s.gate s.cur g raw = .squash t → s.Straight (s.coreAt t) s.mem →
    (s.core s.cur).gdPending = true ∧ isPrefix g.op = false ∧ ¬ (s.coreAt t).GuardHolds ∧
      ∃ s', issue g raw s effect = .next s' ∧ s.Completes t s (s.coreAt t) s') ∧
  (∀ (s : State) (g : Sig) (raw : Opnd), let c := s.core s.cur
    let o := c.stagger (g.roles raw) raw
    c.run = .running → c.gdPending = true → isPrefix g.op = false → c.xm = false → c.ce = false → c.flight = [] → c.var = [] → c.held = [] → c.ranges = [] →
    c.charges = [] → s.lineFault s.cur = none → s.prefixMisuse s.cur g.op raw.m = none → g.illegal c o = none → opClass g.op ≠ 0x9 →
    s.outstanding s.cur = 0 → s.acquiring s.cur = false → s.flushing s.cur = false → chargeOf g.op ≤ c.budget.toNat → 1 ≤ c.budget.toNat →
    (¬ c.GuardHolds → ∃ t, s.gate s.cur g raw = .squash t) ∧ (c.GuardHolds → ∃ t, s.gate s.cur g raw = .go t o))

/-- R90: a binary register form writes its result at its latency and changes nothing else. R90: a unary form writes its result one cycle later and changes nothing else. R98: an immediate form does the operation of the register form of the same code, with the sign-extended immediate as its second operand. -/
def Obligations.IntegerFormsWriteTheirResult : Prop :=
  (∀ r ∈ binaryForms, ∀ (s : State) (tail : TailW) (t : Nat) (o : Opnd),
      s.Issues (sigBinary r.op r.lat) (opndW tail) t o → s.Straight (s.coreAt t) s.mem →
      ∃ s', exec (r.instr tail) s = .next s' ∧
        s.Completes t s ((s.coreAt t).gets (s.dueAt t r.lat) (.gen ((s.coreAt t).phys o.d) (extended o.mtype.signed
          (r.value o.mtype.width o.mtype.signed ((s.coreAt t).typed o.a o.mtype.width) ((s.coreAt t).typed o.b o.mtype.width))))) s') ∧
  (∀ r ∈ unaryForms, ∀ (s : State) (tail : TailW) (t : Nat) (o : Opnd),
      s.Issues (sigUnary r.op) (opndW tail) t o → s.Straight (s.coreAt t) s.mem →
      ∃ s', exec (r.instr tail) s = .next s' ∧
        s.Completes t s ((s.coreAt t).gets (s.dueAt t 1) (.gen ((s.coreAt t).phys o.d) (extended o.mtype.signed
          (r.value o.mtype.width o.mtype.signed ((s.coreAt t).typed o.a o.mtype.width))))) s') ∧
  ((∀ r ∈ immediateForms, ∀ (s : State) (tail : TailL) (t : Nat) (o : Opnd),
      s.Issues (sigImm r.op r.lat) (opndL tail) t o → s.Straight (s.coreAt t) s.mem →
      ∃ s', exec (r.instr tail) s = .next s' ∧
        s.Completes t s ((s.coreAt t).gets (s.dueAt t r.lat) (.gen ((s.coreAt t).phys o.d) (extended o.btype.signed
          (r.value o.btype.width o.btype.signed ((s.coreAt t).typed o.a o.btype.width) ((tail.imm.signExtend 64).setWidth o.btype.width))))) s') ∧
    (∀ r ∈ immediateShifts, ∀ (s : State) (tail : TailL) (t : Nat) (o : Opnd),
      s.Issues (sigImmShift r.op) (opndL tail) t o → s.Straight (s.coreAt t) s.mem →
      tail.imm.toNat < o.btype.width ∧ ∃ s', exec (r.instr tail) s = .next s' ∧
        s.Completes t s ((s.coreAt t).gets (s.dueAt t 1) (.gen ((s.coreAt t).phys o.d) (extended o.btype.signed
          (r.value o.btype.width o.btype.signed ((s.coreAt t).typed o.a o.btype.width) (BitVec.ofNat o.btype.width tail.imm.toNat))))) s'))

/-- R92: ADDS and SUBS write the exact sum or difference clamped to the type, and set STAT.SAT when that differs from it. -/
def Obligations.SaturatingFormsClampAndFlag : Prop :=
  ∀ (s : State) (t : Nat) (o : Opnd), s.Straight (s.coreAt t) s.mem →
    (∀ tail : TailW, s.Issues (sigBinary 0x112 1) (opndW tail) t o →
      ∃ s', exec (.adds tail) s = .next s' ∧ s.Completes t s ((s.coreAt t).getsAll (s.dueAt t 1)
        (saturatedResults ((s.coreAt t).phys o.d) o.mtype.width o.mtype.signed
          (readAs o.mtype.signed ((s.coreAt t).typed o.a o.mtype.width) + readAs o.mtype.signed ((s.coreAt t).typed o.b o.mtype.width)))) s') ∧
    (∀ tail : TailW, s.Issues (sigBinary 0x113 1) (opndW tail) t o →
      ∃ s', exec (.subs tail) s = .next s' ∧ s.Completes t s ((s.coreAt t).getsAll (s.dueAt t 1)
        (saturatedResults ((s.coreAt t).phys o.d) o.mtype.width o.mtype.signed
          (readAs o.mtype.signed ((s.coreAt t).typed o.a o.mtype.width) - readAs o.mtype.signed ((s.coreAt t).typed o.b o.mtype.width)))) s') ∧
    (∀ tail : TailL, s.Issues (sigImm 0x212 1) (opndL tail) t o →
      ∃ s', exec (.addsImm tail) s = .next s' ∧ s.Completes t s ((s.coreAt t).getsAll (s.dueAt t 1)
        (saturatedResults ((s.coreAt t).phys o.d) o.btype.width o.btype.signed
          (readAs o.btype.signed ((s.coreAt t).typed o.a o.btype.width) +
            readAs o.btype.signed ((tail.imm.signExtend 64).setWidth o.btype.width)))) s')

/-- R91: DIV and REM write the truncated quotient and its remainder, with all ones and the dividend for a zero divisor, as a variable-latency result that arrives within 36 cycles. -/
def Obligations.DivisionWritesQuotientAndRemainder : Prop :=
  ∀ (s : State) (tail : TailW) (t : Nat) (o : Opnd), s.Straight (s.coreAt t) s.mem →
    (s.Issues (sigDivide 0x104) (opndW tail) t o →
      ∃ s' k, exec (.div tail) s = .next s' ∧ 1 ≤ k ∧ k ≤ 36 ∧ (o.mtype.width ≠ 64 → k < 36) ∧
        s.DividesTo t k ((s.coreAt t).phys o.d) (extended o.mtype.signed (quotient o.mtype.signed
          ((s.coreAt t).typed o.a o.mtype.width) ((s.coreAt t).typed o.b o.mtype.width))) s') ∧
    (s.Issues (sigDivide 0x105) (opndW tail) t o →
      ∃ s' k, exec (.rem tail) s = .next s' ∧ 1 ≤ k ∧ k ≤ 36 ∧ (o.mtype.width ≠ 64 → k < 36) ∧
        s.DividesTo t k ((s.coreAt t).phys o.d) (extended o.mtype.signed (remainder o.mtype.signed
          ((s.coreAt t).typed o.a o.mtype.width) ((s.coreAt t).typed o.b o.mtype.width))) s')

/-- R93 to R96: CMP writes one bit of its register, SEL chooses a register by a bit, BFX and BFI move a bit field, and BSET, BCLR and BTGL change one bit. -/
def Obligations.BitFormsWriteTheirResult : Prop :=
  ∀ (s : State) (t : Nat) (o : Opnd), s.Straight (s.coreAt t) s.mem →
    (∀ tail : TailW,
      (s.Issues sigCmp (opndW tail) t o → ∃ s', exec (.cmp tail) s = .next s' ∧ s.Completes t s ((s.coreAt t).gets (s.dueAt t 1)
        (.gen ((s.coreAt t).phys o.d) (withBit ((s.coreAt t).readG o.d) o.c.toNat (holds (o.m.toNat / 8 % 8) o.mtype.signed
          ((s.coreAt t).typed o.a o.mtype.width) ((s.coreAt t).typed o.b o.mtype.width))))) s') ∧
      (s.Issues sigSel (opndW tail) t o → ∃ s', exec (.sel tail) s = .next s' ∧ s.Completes t s ((s.coreAt t).gets (s.dueAt t 1)
        (.gen ((s.coreAt t).phys o.d) (if ((s.coreAt t).readG o.c).getLsbD (o.m.toNat % 64) then (s.coreAt t).readG o.a else (s.coreAt t).readG o.b))) s') ∧
      (s.Issues sigBfx (opndW tail) t o → ∃ s', exec (.bfx tail) s = .next s' ∧ s.Completes t s ((s.coreAt t).gets (s.dueAt t 1)
        (.gen ((s.coreAt t).phys o.d) (extended o.mtype.signed (((s.coreAt t).readG o.a).extractLsb' o.b.toNat (o.c.toNat + 1))))) s') ∧
      (s.Issues sigBfi (opndW tail) t o → ∃ s' v, exec (.bfi tail) s = .next s' ∧
        (∀ i < 64, v.getLsbD i = if o.b.toNat ≤ i ∧ i ≤ o.b.toNat + o.c.toNat then ((s.coreAt t).readG o.a).getLsbD (i - o.b.toNat)
          else ((s.coreAt t).readG o.d).getLsbD i) ∧
        s.Completes t s ((s.coreAt t).gets (s.dueAt t 1) (.gen ((s.coreAt t).phys o.d) v)) s') ∧
      (∀ r ∈ bitForms, s.Issues (sigPlain r.op 1) (opndW tail) t o → ∃ s', exec (r.instr tail) s = .next s' ∧
        s.Completes t s ((s.coreAt t).gets (s.dueAt t 1) (.gen ((s.coreAt t).phys o.d) (withBit ((s.coreAt t).readG o.a)
          (((s.coreAt t).readG o.b).toNat % 64) (r.bit (((s.coreAt t).readG o.a).getLsbD (((s.coreAt t).readG o.b).toNat % 64)))))) s')) ∧
    (∀ tail : TailL,
      (s.Issues sigCmpImm (opndL tail) t o → ∃ s', exec (.cmpImm tail) s = .next s' ∧ s.Completes t s ((s.coreAt t).gets (s.dueAt t 1)
        (.gen ((s.coreAt t).phys o.d) (withBit ((s.coreAt t).readG o.d) (tail.imm.extractLsb' 24 6).toNat (holds (o.b.toNat / 8 % 8) o.btype.signed
          ((s.coreAt t).typed o.a o.btype.width) (((tail.imm.extractLsb' 0 24).signExtend 64).setWidth o.btype.width))))) s') ∧
      (∀ r ∈ bitImmForms, s.Issues (sigBitImm r.op) (opndL tail) t o → ∃ s', exec (r.instr tail) s = .next s' ∧
        s.Completes t s ((s.coreAt t).gets (s.dueAt t 1) (.gen ((s.coreAt t).phys o.d) (withBit ((s.coreAt t).readG o.a)
          (tail.imm.toNat % 64) (r.bit (((s.coreAt t).readG o.a).getLsbD (tail.imm.toNat % 64)))))) s'))

/-- R97, R99, R100: CLMUL and CLMULH write the halves of the carry-less product, LI and LIH place an immediate, and LEA writes base, scaled index and displacement. -/
def Obligations.ProductsAndConstantsWriteTheirResult : Prop :=
  ∀ (s : State) (t : Nat) (o : Opnd), s.Straight (s.coreAt t) s.mem →
    (∀ tail : TailW,
      (s.Issues (sigPlain 0x122 3) (opndW tail) t o → ∃ s', exec (.clmul tail) s = .next s' ∧ s.Completes t s ((s.coreAt t).gets (s.dueAt t 3)
        (.gen ((s.coreAt t).phys o.d) ((carryless ((s.coreAt t).readG o.a) ((s.coreAt t).readG o.b)).extractLsb' 0 64))) s') ∧
      (s.Issues (sigPlain 0x123 3) (opndW tail) t o → ∃ s', exec (.clmulh tail) s = .next s' ∧ s.Completes t s ((s.coreAt t).gets (s.dueAt t 3)
        (.gen ((s.coreAt t).phys o.d) ((carryless ((s.coreAt t).readG o.a) ((s.coreAt t).readG o.b)).extractLsb' 64 64))) s')) ∧
    (∀ tail : TailD,
      (s.Issues (sigLoadImm 0x230 .gw) (opndD tail) t o → ∃ s', exec (.li tail) s = .next s' ∧ s.Completes t s ((s.coreAt t).gets (s.dueAt t 1)
        (.gen ((s.coreAt t).phys o.d) (tail.imm.signExtend 64))) s') ∧
      (s.Issues (sigLoadImm 0x231 .grw) (opndD tail) t o → ∃ s', exec (.lih tail) s = .next s' ∧ s.Completes t s ((s.coreAt t).gets (s.dueAt t 1)
        (.gen ((s.coreAt t).phys o.d) ((tail.imm ++ ((s.coreAt t).readG o.d).extractLsb' 0 32 : BitVec 64)))) s') ∧
      (s.Issues sigLea (opndD tail) t o → ∃ s', exec (.lea tail) s = .next s' ∧ s.Completes t s ((s.coreAt t).gets (s.dueAt t 1)
        (.gen ((s.coreAt t).phys o.d) ((s.coreAt t).readG o.a + (s.coreAt t).readG o.b <<< (o.m.toNat % 4) + tail.imm.signExtend 64))) s'))

/-- R101 to R105: a local load that passes the checks writes its register with the bytes at its address, and no byte of memory changes. -/
def Obligations.LocalLoadsWriteTheirRegister : Prop :=
  ∀ (s : State) (t : Nat) (o : Opnd), s.Straight (s.coreAt t) s.mem →
    (∀ tail : TailL, s.Issues (sigLd 0x300 .gw 3) (opndL tail) t o →
      s.MayAccess t false (o.btype.width / 8) [((s.coreAt t).addressL o tail, o.btype.width / 8)] →
      ∃ s', exec (.ld tail) s = .next s' ∧ s.Completes t s (((s.coreAt t).takesSlice (max s.now t)).gets (s.dueAt t 3)
        (.gen ((s.coreAt t).phys o.d) (extended o.btype.signed (BitVec.ofNat o.btype.width
          (Memory.readLE s.mem (sliceKey s.cur ((s.coreAt t).addressL o tail)) (o.btype.width / 8)))))) s') ∧
    (∀ tail : TailL, s.Issues (sigLdp 0x306 .gw 3) (opndL tail) t o →
      s.MayAccess t false 8 [((s.coreAt t).addressL o tail, 16)] →
      ∃ s', exec (.ldp tail) s = .next s' ∧ s.Completes t s (((s.coreAt t).takesSlice (max s.now t)).getsAll (s.dueAt t 3)
        [.gen ((s.coreAt t).phys o.d) (BitVec.ofNat 64 (Memory.readLE s.mem (sliceKey s.cur ((s.coreAt t).addressL o tail)) 8)),
          .gen ((s.coreAt t).phys o.b) (BitVec.ofNat 64 (Memory.readLE s.mem (sliceKey s.cur ((s.coreAt t).addressL o tail + 8)) 8))]) s') ∧
    (∀ tail : TailL, s.Issues (sigLdv 0x302 .vw 3) (opndL tail) t o →
      s.MayAccess t false 64 [((s.coreAt t).addressL o tail, 64)] →
      ∃ s', exec (.ldv tail) s = .next s' ∧ s.Completes t s (((s.coreAt t).takesSlice (max s.now t)).gets (s.dueAt t 3)
        (.vec o.d.toNat (BitVec.ofNat 512 (Memory.readLE s.mem (sliceKey s.cur ((s.coreAt t).addressL o tail)) 64)))) s') ∧
    (∀ tail : TailW, s.Issues (sigLdvs 0x304 .vw 5) (opndW tail) t o →
      s.MayAccess t false (o.mtype.width / 8) ((s.coreAt t).stridedRuns o) →
      ∃ s' v, exec (.ldvs tail) s = .next s' ∧
        (∀ i < 512 / o.mtype.width, v.extractLsb' (o.mtype.width * i) o.mtype.width = BitVec.ofNat o.mtype.width
          (Memory.readLE s.mem (sliceKey s.cur ((s.coreAt t).stridedAt o i)) (o.mtype.width / 8))) ∧
        s.Completes t s (((s.coreAt t).takesSlice (max s.now t)).gets (s.dueAt t 5) (.vec o.d.toNat v)) s')

/-- R101 to R105: a local store that passes the checks writes its bytes, computed from the base register and the displacement or stride, and nothing else of memory or of the registers. -/
def Obligations.LocalStoresWriteTheirBytes : Prop :=
  ∀ (s : State) (t : Nat) (o : Opnd),
    (∀ tail : TailL, s.Issues (sigLd 0x301 .gr 0) (opndL tail) t o →
      s.MayAccess t true (o.btype.width / 8) [((s.coreAt t).addressL o tail, o.btype.width / 8)] →
      s.Straight (s.coreAt t) (storedMem s.mem s.cur [((s.coreAt t).addressL o tail, o.btype.width / 8, ((s.coreAt t).readG o.d).toNat)]) →
      ∃ s', exec (.st tail) s = .next s' ∧
        s.StoresTo t [((s.coreAt t).addressL o tail, o.btype.width / 8, ((s.coreAt t).readG o.d).toNat)] s') ∧
    (∀ tail : TailL, s.Issues (sigLdp 0x307 .gr 0) (opndL tail) t o →
      s.MayAccess t true 8 [((s.coreAt t).addressL o tail, 16)] →
      s.Straight (s.coreAt t) (storedMem s.mem s.cur [((s.coreAt t).addressL o tail, 8, ((s.coreAt t).readG o.d).toNat),
        ((s.coreAt t).addressL o tail + 8, 8, ((s.coreAt t).readG o.b).toNat)]) →
      ∃ s', exec (.stp tail) s = .next s' ∧
        s.StoresTo t [((s.coreAt t).addressL o tail, 8, ((s.coreAt t).readG o.d).toNat),
          ((s.coreAt t).addressL o tail + 8, 8, ((s.coreAt t).readG o.b).toNat)] s') ∧
    (∀ tail : TailL, s.Issues (sigLdv 0x303 .vr 0) (opndL tail) t o →
      s.MayAccess t true 64 [((s.coreAt t).addressL o tail, 64)] →
      s.Straight (s.coreAt t) (storedMem s.mem s.cur [((s.coreAt t).addressL o tail, 64, ((s.coreAt t).readV o.d.toNat).toNat)]) →
      ∃ s', exec (.stv tail) s = .next s' ∧
        s.StoresTo t [((s.coreAt t).addressL o tail, 64, ((s.coreAt t).readV o.d.toNat).toNat)] s') ∧
    (∀ tail : TailW, s.Issues (sigLdvs 0x305 .vr 0) (opndW tail) t o →
      s.MayAccess t true (o.mtype.width / 8) ((s.coreAt t).stridedRuns o) →
      s.Straight (s.coreAt t) (storedMem s.mem s.cur ((List.range (512 / o.mtype.width)).map (fun i => ((s.coreAt t).stridedAt o i, o.mtype.width / 8,
        (((s.coreAt t).readV o.d.toNat).extractLsb' (o.mtype.width * i) o.mtype.width).toNat)))) →
      ∃ s', exec (.stvs tail) s = .next s' ∧
        s.StoresTo t ((List.range (512 / o.mtype.width)).map (fun i => ((s.coreAt t).stridedAt o i, o.mtype.width / 8,
          (((s.coreAt t).readV o.d.toNat).extractLsb' (o.mtype.width * i) o.mtype.width).toNat))) s')

/-- R101: a local load or store of an L form whose address is not aligned takes the misaligned fault, and one with a byte outside the slice or without the right takes the local-protection fault at the lowest such byte, with no byte of memory and no register changed. R104, R169 to R172: so does a strided access, a gather or a scatter, whose elements are checked one after the other in increasing order, and VDIST, whose query is checked before its candidates. -/
def Obligations.LocalAccessFaultsEnterTheHandler : Prop :=
  (∀ r ∈ localForms, ∀ (s : State) (tail : TailL) (t : Nat) (o : Opnd), s.Issues r.sig (opndL tail) t o → (s.coreAt t).hm = false →
    let ea := (s.coreAt t).addressL o tail
    let refused := fun k => 262144 ≤ ea + k ∨ (s.coreAt t).accessible (if r.write then 61 else 62) (ea + k) = false
    (¬ r.align o ∣ ea → ∃ s', exec (r.instr tail) s = .next s' ∧ s.TrapsAt t ⟨0x08, 0, BitVec.ofNat 64 ea⟩ s') ∧
    (∀ i, r.align o ∣ ea → i < r.size o → refused i → (∀ j < i, ¬ refused j) →
      ∃ s', exec (r.instr tail) s = .next s' ∧
        s.TrapsAt t ⟨0x09, BitVec.ofNat 8 ((if r.write then 1 else 0) + (if 262144 ≤ ea + i then 4 else 0)), BitVec.ofNat 64 (ea + i)⟩ s')) ∧
  (∀ (s : State) (t : Nat) (o : Opnd) (r : Raise), (s.coreAt t).hm = false → let c := s.coreAt t
    let w := o.mtype.width / 8
    let lanes := (c.activeLanes o (elements o.mtype.width)).map (fun i => (c.laneAddress o i, w))
    let traps := fun i => ∃ s', exec i s = .next s' ∧ s.TrapsAt t r s'
    (∀ tail : TailW, s.Issues (sigLdvs 0x304 .vw 5) (opndW tail) t o → c.RunsFail false w (c.stridedRuns o) r → traps (.ldvs tail)) ∧
    (∀ tail : TailW, s.Issues (sigLdvs 0x305 .vr 0) (opndW tail) t o → c.RunsFail true w (c.stridedRuns o) r → traps (.stvs tail)) ∧
    (∀ tail : TailW, s.Issues (sigGather 0x804 .vw 4) (opndW tail) t o → c.RunsFail false w lanes r → traps (.vgath tail)) ∧
    (∀ tail : TailW, s.Issues (sigGather 0x805 .vr 0) (opndW tail) t o → c.RunsFail true w lanes r → traps (.vscat tail)) ∧
    (∀ tail : TailD, s.Issues sigVdist (opndD tail) t o →
      let wa := c.dotFormats.1.width / 8
      let wb := c.dotFormats.2.width / 8
      let query := [((c.readG o.c).toNat, tail.imm.toNat * wa)]
      (c.RunsFail false wa query r → traps (.vdist tail)) ∧
      ((∀ x, ¬ c.RunsFail false wa query x) →
        c.RunsFail false wb ((c.activeLanes o 16).map (fun i => (c.laneAddress o i, tail.imm.toNat * wb))) r → traps (.vdist tail))))

/-- R44, R45, R107: J and JR go to a good target and change nothing else, and fault on a bad one, with EADDR the target. R15, R17, R107: CALL and CALLR push the return address and move the window forward by 32, RET pops it and moves the window back, and each takes the first trap or fault that R107 lists. -/
def Obligations.TransfersGoToTheirTarget : Prop :=
  (∀ (s : State) (t : Nat) (o : Opnd),
      (∀ tail : TailI, s.Issues (sigJump 0x001 false) (opndI tail) t o →
        s.JumpsBy t (.j tail) (((s.coreAt t).displaced tail.imm).setWidth 64)) ∧
      (∀ tail : TailH, s.Issues (sigJumpReg 0x002 false) (opndH tail) t o → s.JumpsBy t (.jr tail) ((s.coreAt t).readG o.a))) ∧
  (∀ (s : State) (t : Nat) (o : Opnd),
      (∀ tail : TailI, s.Issues (sigJump 0x003 true) (opndI tail) t o →
        s.CallsBy t (.call tail) (((s.coreAt t).displaced tail.imm).setWidth 64)) ∧
      (∀ tail : TailH, s.Issues (sigJumpReg 0x004 true) (opndH tail) t o → s.CallsBy t (.callr tail) ((s.coreAt t).readG o.a)) ∧
      (s.Issues (sigZ 0x005 Core.hm) noOpnd t o →
        let c := s.coreAt t
        (c.ras = [] → c.rasSaved = 0 → ∃ s', exec .ret s = .next s' ∧ s.TrapsAt t ⟨0x07, 0, 0⟩ s') ∧
        (c.ras = [] → c.rasSaved ≠ 0 → ∃ s', exec .ret s = .next s' ∧ s.TrapsAt t ⟨0x06, 0, 0⟩ s') ∧
        (∀ p rest, c.ras = p :: rest →
          (c.res = 1 → ∃ s', exec .ret s = .next s' ∧ s.TrapsAt t ⟨0x04, 0, BitVec.ofNat 64 ((c.slot.toNat + 144) % 176)⟩ s') ∧
          (c.res ≠ 1 → s.badTarget s.cur p = true → ∃ s', exec .ret s = .next s' ∧ s.TrapsAt t ⟨0x01, 0x04, p.setWidth 64⟩ s') ∧
          (c.res ≠ 1 → s.badTarget s.cur p = false → ∃ s', exec .ret s = .next s' ∧ s.Transfers t s (c.returned rest) p s'))))

/-- R108: LOOP checks its end, skips the body for a count of 0, and otherwise sets up its level and goes on with the first body instruction; at a loop end of its own it applies the loop-end rule, which REP does not (log 17). R111: REP with a count writes REPS and goes on with the first body instruction; with a count of 0 it passes over the body, and faults at a malformed line on the way, the lines passed over being checked for that alone (log 57). -/
def Obligations.LoopsAndRepetitionsStart : Prop :=
  (∀ (s : State) (tail : TailL) (t : Nat) (o : Opnd), s.Issues sigLoop (opndL tail) t o →
      let c := s.coreAt t
      let e := c.displaced tail.imm
      let n := (c.readG o.a).setWidth 32
      (s.badTarget s.cur e = true → ∃ s', exec (.loop tail) s = .next s' ∧ s.TrapsAt t ⟨0x01, 0x04, e.setWidth 64⟩ s') ∧
      (s.badTarget s.cur e = false → e.toNat < s.sequel.toNat → ∃ s', exec (.loop tail) s = .next s' ∧ s.TrapsAt t ⟨0x01, 0x03, e.setWidth 64⟩ s') ∧
      (s.badTarget s.cur e = false → s.sequel.toNat ≤ e.toNat →
        (n = 0 → ∃ s', exec (.loop tail) s = .next s' ∧ s.Transfers t s c (s.seqNextAt s.cur e) s') ∧
        (n ≠ 0 → s.Straight (c.looping o.d n s.sequel e) s.mem →
          ∃ s', exec (.loop tail) s = .next s' ∧ s.Completes t s (c.looping o.d n s.sequel e) s'))) ∧
  (∀ (s : State) (tail : TailI) (t : Nat) (o : Opnd), s.Issues sigRep (opndI tail) t o →
      let c := s.coreAt t
      let count := tail.imm.toNat / 8 % 65536
      let len := tail.imm.toNat % 8
      (count = 0 →
        (∀ p, s.stepOver s.cur (len + 1) s.sequel = .ok p → ∃ s', exec (.rep tail) s = .next s' ∧ s.Transfers t s c p s') ∧
        (∀ p, s.stepOver s.cur (len + 1) s.sequel = .error p →
          ∃ s', exec (.rep tail) s = .next s' ∧ s.TrapsAt t ⟨0x01, 0x05, BitVec.ofNat 64 (p.toNat / 64 * 64)⟩ s')) ∧
      (count ≠ 0 → ∃ s' r, exec (.rep tail) s = .next s' ∧ s.Transfers t s { c with reps := r } s.sequel s' ∧
        bitsOf r 63 48 = count ∧ bitsOf r 47 44 = o.a.toNat ∧ bitsOf r 43 38 = o.d.toNat ∧ bitsOf r 37 35 = 0 ∧ bitsOf r 34 32 = len ∧
        bitsOf r 31 18 = 0 ∧ bitsOf r 17 0 = s.sequel.toNat))

/-- R110, R121, R442: TRAP enters cause 0x17 with its number after the loop-end and repetition rules, EPC being the next PC, a bad one too (log 17); BKPT enters cause 0x16, or stops the core where breakpoints stop its partition. -/
def Obligations.SoftwareTrapsAndBreakpoints : Prop :=
  ∀ (s : State) (t : Nat) (o : Opnd),
    (∀ tail : TailI, s.Issues sigTrap (opndI tail) t o →
      let c := s.coreAt t
      let a := c.advance (s.lastHead s.cur)
      ∃ s', exec (.trap tail) s = .next s' ∧
        ({ c with reps := a.reps, lc0 := a.lc0, lc1 := a.lc1, stat := statNoPrefix c.stat, epfx := if c.pp then 0 else c.epfx } : Core).drained.Trapped
          t ⟨0x17, tail.imm.setWidth 8, 0⟩ a.next false (s'.core s.cur) ∧
        (∀ m, m ≠ s.cur → s'.core m = s.core m) ∧ s'.now = max s.now t ∧ s'.mem = s.mem) ∧
    (s.Issues (sigZ 0x010 Core.hm) noOpnd t o →
      (s.breakStops = false → ∃ s', exec .bkpt s = .next s' ∧ s.TrapsAt t ⟨0x16, 0, 0⟩ s') ∧
      (s.breakStops = true → ∃ s', exec .bkpt s = .next s' ∧ (s'.core s.cur).kept = (s.coreAt t).kept ∧
        (s'.core s.cur).pc = (s.coreAt t).runStart.elim (s.coreAt t).pc Prod.fst ∧ (s'.core s.cur).run = .stopped .breakpoint ∧
        (∀ m, m ≠ s.cur → s'.core m = s.core m) ∧ s'.mem = s.mem ∧
        (∀ p, s.partOf (s.core s.cur) = some p → (s.partition p).stop = .none → ⟨max s.now t, s.cur, .event (.partitionStop p)⟩ ∈ s'.agenda)))

/-- R120: RETT restores STAT from ESTAT, discards the fetch buffer, goes to EPC, and ends a repetition unless user mode comes back to its own position; a bad EPC is a double fault. R257, R258: with accesses held it issues each of them again, oldest first, as a new request with the same operation, address and registers, on which its pending result then waits, and MFR reads 0. -/
def Obligations.ReturnFromTrapRestoresStatus : Prop :=
  ∀ (s : State) (t : Nat) (o : Opnd), s.Issues (sigZ 0x009 (fun c => !c.hm)) noOpnd t o →
    let c := s.coreAt t
    (s.badTarget s.cur c.epc = true → ∃ s', exec .rett s = .next s' ∧ (s'.core s.cur).run = .doubleFaulted ∧ (s'.core s.cur).stat = c.stat ∧
      (s'.core s.cur).epc = c.epc ∧ (s'.core s.cur).ecause = c.ecause) ∧
    (s.badTarget s.cur c.epc = false → c.held = [] → ∃ s', exec .rett s = .next s' ∧
      s'.now = max s.now t ∧ s'.outside = s.outside ∧ (∀ m, m ≠ s.cur → s'.core m = s.core m) ∧
      (s'.core s.cur).stat = c.estat &&& ~~~0x80#64 ∧ (s'.core s.cur).pc = c.epc ∧ (s'.core s.cur).epfx = c.epfx ∧
      (s'.core s.cur).fbuf = [s.readLine s.cur (lineOf c.epc), s.readLine s.cur (succLine (lineOf c.epc))] ∧
      (s'.core s.cur).kept = ({ c with stat := c.estat &&& ~~~0x80#64, mfr := 0, reported := none } : Core).kept ∧
      (s'.core s.cur).flight = c.flight ∧ (s'.core s.cur).lc0 = c.lc0 ∧ (s'.core s.cur).lc1 = c.lc1 ∧
      bitsOf (s'.core s.cur).reps 47 0 = bitsOf c.reps 47 0 ∧
      bitsOf (s'.core s.cur).reps 63 48 =
        if c.estat.getLsbD 5 = false ∧ s.unbuffered.stepOver s.cur c.repPos c.repBase = .ok c.epc then bitsOf c.reps 63 48 else 0) ∧
    (s.badTarget s.cur c.epc = false → (∀ h ∈ c.held, h.req < s.nextId ∧ ∀ q, s.req h.req = some q → q.core = s.cur) → (c.held.map (·.req)).Nodup →
      let kept := c.held.filterMap (fun h => (s.req h.req).map (fun q => (h.req, q)))
      ∃ (s' : State) (ids : List Nat), exec .rett s = .next s' ∧ s'.mem = s.mem ∧ (∀ m, m ≠ s.cur → s'.core m = s.core m) ∧
        (s'.core s.cur).stat = c.estat &&& ~~~0x80#64 ∧ (s'.core s.cur).pc = c.epc ∧ (s'.core s.cur).mfr = 0 ∧ (s'.core s.cur).reported = none ∧
        ids.length = kept.length ∧ ids.Pairwise (· < ·) ∧
        (∀ (i : Nat) (e : Nat × Req) (id : Nat), kept[i]? = some e → ids[i]? = some id → s'.req e.1 = none ∧
          (∃ q, s'.req id = some q ∧ q.core = e.2.core ∧ q.op = e.2.op ∧ q.ea = e.2.ea ∧ q.near = e.2.near ∧ q.acquire = e.2.acquire ∧ q.release = e.2.release ∧
            q.result = e.2.result ∧ q.dst = e.2.dst ∧ q.dst2 = e.2.dst2 ∧ q.vec = e.2.vec) ∧
          ∀ v ∈ c.var, v.source = .req e.1 → { v with source := .req id } ∈ (s'.core s.cur).var) ∧
        ∀ v ∈ c.var, (∀ e ∈ kept, v.source ≠ .req e.1) → v ∈ (s'.core s.cur).var)

/-- R25 to R27, R115, R116: a prefix becomes pending with its payload, the issued tail of a GD and the encoded tail of an FMT, and changes nothing else. -/
def Obligations.PrefixesBecomePending : Prop :=
  ∀ (s : State) (t : Nat) (o : Opnd), s.Straight (s.coreAt t) s.mem →
    (∀ tail : TailH, s.Issues sigGd (opndH tail) t o → ∃ s' p, exec (.gd tail) s = .next s' ∧ s.Prefixes t true false p s' ∧
      bitsOf p 15 0 = o.a.toNat + o.b.toNat * 64 + o.f.toNat * 4096 ∧ bitsOf p 63 16 = bitsOf (s.coreAt t).payloads 63 16) ∧
    (∀ tail : TailW, s.Issues sigFmt (opndW tail) t o → ∃ s' p, exec (.fmt tail) s = .next s' ∧ s.Prefixes t false true p s' ∧
      p.extractLsb' 32 32 = tail.toBits ∧ bitsOf p 31 0 = bitsOf (s.coreAt t).payloads 31 0)

/-- R123, R192, R208: NOP only completes; ISYNC waits for the core's own writes and then discards the fetch buffer; HALT retires the core once every result is written; WAIT makes it wait, out of exchange mode. -/
def Obligations.StopsAndWaitsOfClassZero : Prop :=
  ∀ (s : State) (t : Nat) (o : Opnd),
    (s.Issues (sigZ 0x000 (fun _ => false)) noOpnd t o → s.Straight (s.coreAt t) s.mem →
      ∃ s', exec .nop s = .next s' ∧ s.Completes t s (s.coreAt t) s') ∧
    (s.Issues (sigZ 0x00B (fun _ => false)) noOpnd t o →
      (s.ownWrites s.cur = true → ∃ s', exec .isync s = .next s' ∧ s.Stays t (s.core s.cur).run s') ∧
      (s.ownWrites s.cur = false → s.unbuffered.badTarget s.cur ((s.coreAt t).advance (s.lastHead s.cur)).next = false →
        ∃ s', exec .isync s = .next s' ∧ s.Completes t s (s.coreAt t) s' ∧
          (s'.core s.cur).fbuf = [s.readLine s.cur (lineOf ((s.coreAt t).advance (s.lastHead s.cur)).next),
            s.readLine s.cur (succLine (lineOf ((s.coreAt t).advance (s.lastHead s.cur)).next))])) ∧
    (s.Issues { sigZ 0x00A (fun _ => false) with waitsAll := true } noOpnd t o →
      ∃ s', exec .halt s = .next s' ∧ s.Stays t .halted s' ∧ (s'.core s.cur).kept = ({ s.coreAt t with tsm := 0 } : Core).kept ∧
        (s'.core s.cur).flight = [] ∧ (s'.core s.cur).issues = false ∧
        (∀ l, (s.core s.cur).launch = some l → ⟨max s.now t, s.cur, .event (.launchCompletion l)⟩ ∈ s'.agenda)) ∧
    (s.Issues { sigZ 0x011 Core.hm with waitsAll := true } noOpnd t o →
      ∃ s', exec .wait s = .next s' ∧
        s.Stays t (if (s.coreAt t).xm && s.forcedStop s.cur then .stopped .exchange else .waiting false) s' ∧
        (s'.core s.cur).flight = [] ∧ (s'.core s.cur).xm = false ∧ (s'.core s.cur).ssc = (s.coreAt t).ssc ∧
        ((s.coreAt t).xm = false → (s'.core s.cur).kept = ({ s.coreAt t with tsm := 0 } : Core).kept))

/-- R34, R123: MFC of a register that R34 lists, in a mode that reaches it, writes that register's value at 1 cycle and changes nothing else; of EPFX it reads the payloads of the prefixes that await their target (log 16). R34, R113, R124, R257: MTC writes its register subject to access and reserved fields and changes nothing else, refuses a user-mode REPS that would leave a repetition, lets a loop register govern from the next completing instruction on (log 17), and with MFR.DROP discards the reported access, whose registers take 0 and leave the scoreboard. -/
def Obligations.ControlRegistersReadAndWrite : Prop :=
  (∀ r ∈ crReads, ∀ (s : State) (tail : TailI) (t : Nat) (o : Opnd),
      s.Issues sigMfc (opndI tail) t o → tail.imm.toNat = r.num → s.Straight (s.coreAt t) s.mem →
      (r.handlerOnly = true → (s.coreAt t).hm = true) ∧
        ∃ s', exec (.mfc tail) s = .next s' ∧
          s.Completes t s ((s.coreAt t).gets (s.dueAt t 1) (.gen ((s.coreAt t).phys o.d) (r.value (s.atIssue sigMfc t)))) s') ∧
  ((∀ r ∈ crWrites, ∀ (s : State) (tail : TailI) (t : Nat) (o : Opnd), s.Issues sigMtc (opndI tail) t o → tail.imm.toNat = r.num →
      let c := s.coreAt t
      let x := c.readG o.a
      (r.num = 0x0D ∧ c.hm = false ∧ bitsOf x 63 48 ≠ 0 → ∃ s', exec (.mtc tail) s = .next s' ∧ s.TrapsAt t ⟨0x01, 0x03, 0⟩ s') ∧
      (¬ (r.num = 0x0D ∧ c.hm = false ∧ bitsOf x 63 48 ≠ 0) → s.Straight (r.write c x) s.mem →
        ∃ s', exec (.mtc tail) s = .next s' ∧ s.Completes t s (r.write c x) s' ∧
          (r.num = 0x05 → (s'.core s.cur).epfx = x &&& 0xFFFF_FFFF_0000_FFFF))) ∧
    (∀ r ∈ loopWrites, ∀ (s : State) (tail : TailI) (t : Nat) (o : Opnd), s.Issues sigMtc (opndI tail) t o → tail.imm.toNat = r.num →
      let c := s.coreAt t
      s.Straight c s.mem → ∃ s0, s.Completes t s c s0 ∧ exec (.mtc tail) s = .next (s0.setCore s.cur (r.write (s0.core s.cur) (c.readG o.a)))) ∧
    (∀ (s : State) (tail : TailI) (t : Nat) (o : Opnd), s.Issues sigMtc (opndI tail) t o → tail.imm.toNat = 0x35 → s.Straight (s.coreAt t) s.mem →
      let c := s.coreAt t
      (((c.readG o.a).getLsbD 62 = false ∨ c.reported = none) → ∃ s', exec (.mtc tail) s = .next s' ∧ s.Completes t s c s') ∧
      (∀ id, (c.readG o.a).getLsbD 62 = true → c.reported = some id → ∃ s', exec (.mtc tail) s = .next s' ∧
        (s'.core s.cur).reported = none ∧ (s'.core s.cur).mfr = 0 ∧ (s'.core s.cur).held = c.held.filter (fun h => h.req != id) ∧
        s'.req id = none ∧ s'.mem = s.mem ∧ (∀ m, m ≠ s.cur → s'.core m = s.core m) ∧
        (∀ q k, s.req id = some q → q.result = some k → (∀ v ∈ (s'.core s.cur).var, v.id ≠ k) ∧
          (∀ p, q.dst = some p ∨ q.dst2 = some p → c.Holds p → (s'.core s.cur).getP p = 0) ∧
          (∀ n, q.vec = some n → n < 32 → (s'.core s.cur).readV n = 0)))))

/-- R15, R18, R34: WSE reads or writes register-stack entry PX and moves PX on; RASE takes the oldest return address out, or puts a new oldest one in. -/
def Obligations.WindowsOfTheStoresMoveOn : Prop :=
  ∀ (s : State) (tail : TailI) (t : Nat) (o : Opnd), (s.coreAt t).hm = true →
    let c := s.coreAt t
    let px' := BitVec.ofNat 8 ((c.px.toNat + 1) % 176)
    (s.Issues sigMfc (opndI tail) t o → s.Straight c s.mem →
      (tail.imm.toNat = 0x09 → c.px.toNat < 176 → ∃ s', exec (.wseRead tail) s = .next s' ∧
        s.Completes t s (({ c with px := px' } : Core).gets (s.dueAt t 1) (.gen (c.phys o.d) (c.stack[c.px.toNat]?.getD 0))) s') ∧
      (tail.imm.toNat = 0x0C → ∃ s', exec (.raseRead tail) s = .next s' ∧
        s.Completes t s (({ c with ras := c.ras.dropLast } : Core).gets (s.dueAt t 1) (.gen (c.phys o.d) ((c.ras.getLast?.getD 0).setWidth 64))) s')) ∧
    (s.Issues sigMtc (opndI tail) t o → s.Straight c s.mem →
      (tail.imm.toNat = 0x09 → ∃ s', exec (.wseWrite tail) s = .next s' ∧
        s.Completes t s { c with stack := c.stack.setIfInBounds c.px.toNat (c.readG o.a), px := px' } s') ∧
      (tail.imm.toNat = 0x0C → ∃ s', exec (.raseWrite tail) s = .next s' ∧
        s.Completes t s (if 16 ≤ c.ras.length then c else { c with ras := c.ras ++ [(c.readG o.a).setWidth 18] }) s'))

/-- R273, R377, R446, R448: LACC and LACCZ read an account, LACCZ clears it but for the responses of its own cycle, which count toward the new period, GOV sets BUDGET, and TRACE queues its record where its event is traced, waits while the queue is full, and otherwise only completes. -/
def Obligations.AccountsGovernorAndTrace : Prop :=
  ∀ (s : State) (t : Nat) (o : Opnd), s.Straight (s.coreAt t) s.mem →
    let c := s.coreAt t
    (∀ tail : TailW,
      let i := ((c.readG o.a).toNat + tail.m.toNat) % 64
      (s.Issues (sigLacc 0xC01) (opndW tail) t o → ∃ s', exec (.lacc tail) s = .next s' ∧
        s.Completes t s (c.gets (s.dueAt t 2) (.gen (c.phys o.d) (c.accounts[i]?.getD 0))) s') ∧
      (s.Issues (sigLacc 0xC02) (opndW tail) t o → ∃ s', exec (.laccz tail) s = .next s' ∧
        s.Completes t s (({ c with accounts := c.accounts.setIfInBounds i (accountOf ((c.cameNow (max s.now t) i).map Prod.snd)) } : Core).gets (s.dueAt t 2)
          (.gen (c.phys o.d) ((c.cameNow (max s.now t) i).head?.elim (c.accounts[i]?.getD 0) Prod.fst))) s')) ∧
    (∀ tail : TailI, s.Issues sigGov (opndI tail) t o → tail.imm.toNat ∈ [64, 96, 128] ∧ ∃ s', exec (.gov tail) s = .next s' ∧
      s.Completes t s { c with budget := tail.imm.setWidth 8 } s') ∧
    (∀ tail : TailD, s.Issues sigTrace (opndD tail) t o →
      ((∀ p, s.partOf (s.core s.cur) = some p → s.traces p 0 = false) → ∃ s', exec (.trace tail) s = .next s' ∧ s.Completes t s c s') ∧
      (∀ p, s.partOf (s.core s.cur) = some p → s.traces p 0 = true → 8 ≤ c.trace.length →
        ∃ s', exec (.trace tail) s = .next s' ∧ s.Stays t (s.core s.cur).run s') ∧
      (∀ p, s.partOf (s.core s.cur) = some p → s.traces p 0 = true → c.trace.length < 8 →
        let r := traceBytes c.rank c.ssc (max s.now t / tickUnits) (c.readG o.a) (c.readG o.b) tail.imm c.pc
        ∃ s', exec (.trace tail) s = .next s' ∧
          s.Completes t { s with traceOut := s.traceOut ++ [TraceItem.mk p (some s.cur) r false], agenda := insertTurn ⟨max s.now t, s.cur, .traceWrite⟩ s.agenda }
            { c with trace := c.trace ++ [r] } s'))

/-- R139, R140, R145, R148, R149: a floating form encodes the exact result of each lane's operation, ORs the flags of every lane into STAT, and changes nothing else. -/
def Obligations.FloatFormsRoundEachLane : Prop :=
  ∀ r ∈ floatForms, ∀ (s : State) (tail : TailW) (t : Nat) (o : Opnd),
    s.Issues (sigFloat r.op r.lat r.sources) (opndW tail) t o → s.Straight (s.coreAt t) s.mem →
    let c := s.coreAt t
    let F := c.fmt.elem
    let exact := fun i => r.exact c.fmt.rm (c.vsource o.a F i) (c.vsource o.b F i) (c.vsource o.c F i)
    let coded := fun i => enc F (exact i).v c.fmt.rm 0 c.fmt.satf c.fz
    ∃ s' v, exec (r.instr tail) s = .next s' ∧ Lanes v F.width (512 / F.width) (fun i => (coded i).code) ∧
      s.Completes t s (c.getsAll (s.dueAt t r.lat)
        [.vec o.d.toNat v, .flags (flagsUpTo (512 / F.width) (fun i => (exact i).flags ||| (coded i).flags))]) s'

/-- R130, R149, R150: on numbers, sums, products, fused products and quotients are exact; a NaN operand gives NaN, invalid only for a signalling one, beside a product of 0 and an infinity too (log 22); ∞ − ∞, 0 × ∞, 0 ÷ 0, ∞ ÷ ∞ and roots and logarithms of negative numbers are invalid; and a number divided by zero is an infinity with its flag. -/
def Obligations.ExactResultsFollowTheTables : Prop :=
  (∀ rm a b x y, ((fAdd rm (.num a x) (.num b y)).v.rat? = some ((if a then -x else x) + (if b then -y else y)) ∧ (fAdd rm (.num a x) (.num b y)).flags = 0) ∧
    (fMul (.num a x) (.num b y)).v.rat? = some ((if a then -x else x) * (if b then -y else y)) ∧
    (∀ c z, (fFma rm (.num a x) (.num b y) (.num c z)).v.rat? = some ((if a then -x else x) * (if b then -y else y) + (if c then -z else z))) ∧
    (y ≠ 0 → (fDiv (.num a x) (.num b y)).v.rat? = some ((if a then -x else x) / (if b then -y else y)) ∧ (fDiv (.num a x) (.num b y)).flags = 0) ∧
    (x ≠ 0 → fDiv (.num a x) (.num b 0) = ⟨.inf (a != b), fxDivZero⟩) ∧
    (0 < x → fSqrt (.num true x) = ⟨.nan false, fxInvalid⟩ ∧ fRsq (.num true x) = ⟨.nan false, fxInvalid⟩ ∧ fLog2 (.num true x) = ⟨.nan false, fxInvalid⟩) ∧
    (fSqrt (.num a 0) = ⟨.num a 0, 0⟩ ∧ fRsq (.num a 0) = ⟨.inf a, fxDivZero⟩ ∧ fLog2 (.num a 0) = ⟨.inf true, fxDivZero⟩)) ∧
  (∀ rm a x, fAdd rm (.inf a) (.inf (!a)) = ⟨.nan false, fxInvalid⟩ ∧ fAdd rm (.inf a) (.inf a) = ⟨.inf a, 0⟩ ∧
    fMul (.inf a) (.num x 0) = ⟨.nan false, fxInvalid⟩ ∧ fMul (.num x 0) (.inf a) = ⟨.nan false, fxInvalid⟩ ∧
    fDiv (.num a 0) (.num x 0) = ⟨.nan false, fxInvalid⟩ ∧ fDiv (.inf a) (.inf x) = ⟨.nan false, fxInvalid⟩) ∧
  (∀ rm q x y, let flag := if q then fxInvalid else 0
    (sigFlag x = 0 → fAdd rm (.nan q) x = ⟨.nan false, flag⟩ ∧ fAdd rm x (.nan q) = ⟨.nan false, flag⟩ ∧
      fMul (.nan q) x = ⟨.nan false, flag⟩ ∧ fMul x (.nan q) = ⟨.nan false, flag⟩ ∧ fDiv (.nan q) x = ⟨.nan false, flag⟩ ∧ fDiv x (.nan q) = ⟨.nan false, flag⟩) ∧
    (sigFlag x = 0 → sigFlag y = 0 → fFma rm (.nan q) x y = ⟨.nan false, flag⟩ ∧ fFma rm x (.nan q) y = ⟨.nan false, flag⟩ ∧ fFma rm x y (.nan q) = ⟨.nan false, flag⟩) ∧
    fSqrt (.nan q) = ⟨.nan false, flag⟩ ∧ fRcp (.nan q) = ⟨.nan false, flag⟩ ∧ fRsq (.nan q) = ⟨.nan false, flag⟩ ∧ fExp2 (.nan q) = ⟨.nan false, flag⟩ ∧
    fLog2 (.nan q) = ⟨.nan false, flag⟩)

/-- R136: RNE rounds to a nearest finite value, RTZ to none further from zero, RUP to none below and RDN to none above, each with no finite value strictly between the result and the number; a representable number is kept, and inexact is set just when the result differs. -/
def Obligations.RoundingFindsTheNeighbour : Prop :=
  ∀ F ∈ mantissaFormats, ∀ (neg : Bool) (a top : Rat) (satf : Bool), 0 < a → (val F F.maxCode).rat? = some top → a ≤ top →
    let x : Rat := if neg then -a else a
    ∀ rm ∈ [RMode.rne, .rtz, .rup, .rdn], ∃ y : Rat,
      FiniteCode F (enc F (.num neg a) rm 0 satf false).code y ∧
      (∀ c z, FiniteCode F c z → z = x → y = x) ∧
      (∀ c z, FiniteCode F c z → ¬ (min x y < z ∧ z < max x y)) ∧
      (rm = .rne → ∀ c z, FiniteCode F c z → |y - x| ≤ |z - x|) ∧
      (rm = .rtz → |y| ≤ |x|) ∧ (rm = .rup → x ≤ y) ∧ (rm = .rdn → y ≤ x) ∧
      ((enc F (.num neg a) rm 0 satf false).flags &&& fxInexact = 0 ↔ y = x)

/-- R151 to R154: VMIN and VMAX choose a lane's operand and round nothing, VABS and VNEG change its sign, VCLASS gives the bit of its class, VCMP gives a lane mask, and VSEL chooses lanes by one. -/
def Obligations.FloatSelectionForms : Prop :=
  ∀ (s : State) (tail : TailW) (t : Nat) (o : Opnd), s.Straight (s.coreAt t) s.mem →
    let c := s.coreAt t
    let F := c.fmt.elem
    let n := 512 / F.width
    let x := fun i => c.vsource o.a F i
    let y := fun i => c.vsource o.b F i
    (∀ r ∈ [(Instr.vmin, 0x50C#12, false), (Instr.vmax, 0x50D#12, true)], s.Issues (sigFloat r.2.1 2 2) (opndW tail) t o →
      let exact := fun i => fMinMax r.2.2 (x i) (y i)
      ∃ s' v, exec (r.1 tail) s = .next s' ∧ Lanes v F.width n (fun i => (enc F (exact i).v .rne 0 false false).code) ∧
        s.Completes t s (c.getsAll (s.dueAt t 2)
          [.vec o.d.toNat v, .flags (flagsUpTo n (fun i => (exact i).flags))]) s') ∧
    (∀ r ∈ [(Instr.vabs, 0x50E#12, FVal.absolute), (Instr.vneg, 0x50F#12, FVal.negate)], s.Issues (sigFloat r.2.1 2 1) (opndW tail) t o →
      let value := fun i => if (x i).isNan then FVal.nan false else r.2.2 (x i)
      ∃ s' v, exec (r.1 tail) s = .next s' ∧ Lanes v F.width n (fun i => (enc F (value i) .rne 0 false false).code) ∧
        s.Completes t s (c.getsAll (s.dueAt t 2) [.vec o.d.toNat v, .flags (flagsUpTo n (fun i => sigFlag (x i)))]) s') ∧
    (s.Issues (sigFloat 0x512 2 1) (opndW tail) t o → ∃ s' v, exec (.vclass tail) s = .next s' ∧
      Lanes v F.width n (fun i => 2 ^ classBit F (c.vlane o.a F.width i)) ∧ s.Completes t s (c.gets (s.dueAt t 2) (.vec o.d.toNat v)) s') ∧
    (s.Issues sigVcmp (opndW tail) t o → ∃ s' v, exec (.vcmp tail) s = .next s' ∧
      (∀ i < 64, v.getLsbD i = (decide (i < n) && floatCondition (o.m.toNat / 8 % 8) (x i) (y i))) ∧
      s.Completes t s (c.getsAll (s.dueAt t 2)
        [.gen (c.phys o.d) v, .flags (flagsUpTo n (fun i => floatConditionFlag (o.m.toNat / 8 % 8) (x i) (y i)))]) s') ∧
    (s.Issues sigVsel (opndW tail) t o → ∃ s' v, exec (.vsel tail) s = .next s' ∧
      Lanes v F.width n (fun i => if (c.readG o.c).getLsbD i then c.vlane o.a F.width i else c.vlane o.b F.width i) ∧
      s.Completes t s (c.gets (s.dueAt t 2) (.vec o.d.toNat v)) s')

/-- R155 to R158: the integer lane forms write each lane's result and change nothing else but STAT.SAT, which VIADDS sets when a lane clamps; VICMP gives a lane mask, VCLMUL half of each product, and VRNG the words of its key and counter. -/
def Obligations.IntegerLaneForms : Prop :=
  ∀ (s : State) (t : Nat) (o : Opnd), s.Straight (s.coreAt t) s.mem →
    let c := s.coreAt t
    let w := o.mtype.width
    let n := 512 / w
    (∀ tail : TailW,
      (∀ r ∈ laneForms, s.Issues (sigLanes r.op r.lat) (opndW tail) t o → ∃ s' v, exec (r.instr tail) s = .next s' ∧
        Lanes v w n (fun i => (r.value w o.mtype.signed (c.ilane o.a w i) (c.ilane o.b w i)).toNat) ∧
        s.Completes t s (c.gets (s.dueAt t r.lat) (.vec o.d.toNat v)) s') ∧
      (s.Issues sigVimad (opndW tail) t o → ∃ s' v, exec (.vimad tail) s = .next s' ∧
        Lanes v w n (fun i => (c.ilane o.a w i * c.ilane o.b w i + c.ilane o.c w i).toNat) ∧
        s.Completes t s (c.gets (s.dueAt t 4) (.vec o.d.toNat v)) s') ∧
      (s.Issues (sigLanes 0x60C 2) (opndW tail) t o → ∃ s' v, exec (.viadds tail) s = .next s' ∧
        Lanes v w n (fun i => (BitVec.ofInt w (clamped w o.mtype.signed (c.laneSum o i))).toNat) ∧
        s.Completes t s (c.getsAll (s.dueAt t 2) [.vec o.d.toNat v,
          .flags (flagsUpTo n (fun i => if clamped w o.mtype.signed (c.laneSum o i) = c.laneSum o i then 0 else statSat))]) s') ∧
      (s.Issues sigVicmp (opndW tail) t o → ∃ s' v, exec (.vicmp tail) s = .next s' ∧
        (∀ i < 64, v.getLsbD i = (decide (i < n) && holds (o.m.toNat / 8 % 8) o.mtype.signed (c.ilane o.a w i) (c.ilane o.b w i))) ∧
        s.Completes t s (c.gets (s.dueAt t 2) (.gen (c.phys o.d) v)) s') ∧
      (s.Issues sigVclmul (opndW tail) t o → ∃ s' v, exec (.vclmul tail) s = .next s' ∧
        Lanes v 64 8 (fun j => ((carryless (c.ilane o.a 64 j) (c.ilane o.b 64 j)).extractLsb' (if o.m.getLsbD 0 then 64 else 0) 64).toNat) ∧
        s.Completes t s (c.gets (s.dueAt t 4) (.vec o.d.toNat v)) s')) ∧
    (∀ tail : TailD, s.Issues sigVrng (opndD tail) t o → ∃ s' v, exec (.vrng tail) s = .next s' ∧
      Lanes v 64 8 (fun j => (vrngMix (vrngMix (8 * c.readG o.b + BitVec.ofNat 64 j) +
        (c.readG o.a + tail.imm.setWidth 64 * 0x9E3779B97F4A7C15#64))).toNat) ∧
      s.Completes t s (c.gets (s.dueAt t 4) (.vec o.d.toNat v)) s')

/-- R159: the moves write patterns, lane by lane, and set no flag. -/
def Obligations.MovesWritePatterns : Prop :=
  ∀ (s : State) (tail : TailW) (t : Nat) (o : Opnd), s.Straight (s.coreAt t) s.mem →
    let c := s.coreAt t
    let w := o.mtype.width
    let n := 512 / w
    (s.Issues sigVmov (opndW tail) t o → ∃ s', exec (.vmov tail) s = .next s' ∧
      s.Completes t s (c.gets (s.dueAt t 2) (.vec o.d.toNat (c.readV o.a.toNat))) s') ∧
    (s.Issues sigVbcast (opndW tail) t o → ∃ s' v, exec (.vbcast tail) s = .next s' ∧ Lanes v w n (fun _ => (c.readG o.a).toNat) ∧
      s.Completes t s (c.gets (s.dueAt t 2) (.vec o.d.toNat v)) s') ∧
    (s.Issues sigVins (opndW tail) t o → ∃ s' v, exec (.vins tail) s = .next s' ∧
      Lanes v w n (fun i => if i = o.c.toNat then (c.readG o.a).toNat else c.vlane o.d w i) ∧
      s.Completes t s (c.gets (s.dueAt t 2) (.vec o.d.toNat v)) s') ∧
    (s.Issues sigVext (opndW tail) t o → o.c.toNat < n ∧ ∃ s', exec (.vext tail) s = .next s' ∧
      s.Completes t s (c.gets (s.dueAt t 2) (.gen (c.phys o.d) (extended o.mtype.signed (c.ilane o.a w o.c.toNat)))) s') ∧
    (s.Issues sigVperm (opndW tail) t o → ∃ s' v, exec (.vperm tail) s = .next s' ∧
      Lanes v w n (fun i => c.vlane o.a w (c.vlane o.b w i % n)) ∧ s.Completes t s (c.gets (s.dueAt t 3) (.vec o.d.toNat v)) s') ∧
    (s.Issues sigVrot (opndW tail) t o → ∃ s' v, exec (.vrot tail) s = .next s' ∧
      Lanes v w n (fun i => c.vlane o.a w ((i + o.c.toNat) % n)) ∧ s.Completes t s (c.gets (s.dueAt t 2) (.vec o.d.toNat v)) s')

/-- R141, R160 to R164: VCVT, VPACK and VUNPK convert each element, the bits of a narrower part's register outside the part being kept; VQNT writes the codes and scale bytes of its blocks and keeps every other bit; VDQNT encodes each element times its block's scale. An element becomes an integer by rounding and then clamping, and a floating code by Enc; a block's scale is that of the floor rule or of the fit rule, and its elements are encoded after division by it. That a conversion of 80 elements leaves the bits above them zero, and that each register of VUNPK counts its random indices from 0, is the model's choice (log 19). -/
def Obligations.ConversionsWriteEachElement : Prop :=
  (∀ (s : State) (tail : TailW) (t : Nat) (o : Opnd), s.Straight (s.coreAt t) s.mem →
    let c := s.coreAt t
    let f := c.fmt
    let k := f.cvt
    let p := o.m.toNat % 8
    let cv := fun x i => convert (f.df.getD .f32) (f.af.getD .f32) x f.rm (c.srValue f i) f.satf c.fz
    (s.Issues sigVcvt (opndW tail) t o → ∃ s' v, exec (.vcvt tail) s = .next s' ∧
      (k.wd < k.wa → (∀ e < k.count, (v.extractLsb' (k.bits * p + k.wd * e) k.wd).toNat = (cv (c.vlane o.a k.wa e) (k.count * p + e)).code % 2 ^ k.wd) ∧
        (∀ j < 512, j < k.bits * p ∨ k.bits * (p + 1) ≤ j → v.getLsbD j = (c.readV o.d.toNat).getLsbD j) ∧
        s.Completes t s (c.getsAll (s.dueAt t 3) [.vec o.d.toNat v,
          .flags (flagsUpTo k.count (fun e => (cv (c.vlane o.a k.wa e) (k.count * p + e)).flags))]) s') ∧
      (k.wa ≤ k.wd → Lanes v k.wd k.count (fun e => (cv (c.vlane o.a k.wa (k.count * p + e)) e).code) ∧
        s.Completes t s (c.getsAll (s.dueAt t 3) [.vec o.d.toNat v,
          .flags (flagsUpTo k.count (fun e => (cv (c.vlane o.a k.wa (k.count * p + e)) e).flags))]) s')) ∧
    (let n := 512 / k.wa
     let x := fun e => if e < n then c.vlane o.a k.wa e else c.vlane o.b k.wa (e - n)
     s.Issues sigVpack (opndW tail) t o → ∃ s' v, exec (.vpack tail) s = .next s' ∧
      Lanes v k.wd (2 * n) (fun e => (cv (x e) e).code) ∧
      s.Completes t s (c.getsAll (s.dueAt t 3) [.vec o.d.toNat v, .flags (flagsUpTo (2 * n) (fun e => (cv (x e) e).flags))]) s') ∧
    (let n := 512 / k.wd
     s.Issues sigVunpk (opndW tail) t o → ∃ s' v u, exec (.vunpk tail) s = .next s' ∧
      Lanes v k.wd n (fun e => (cv (c.vlane o.a k.wa e) e).code) ∧ Lanes u k.wd n (fun e => (cv (c.vlane o.a k.wa (n + e)) e).code) ∧
      s.Completes t s (c.getsAll (s.dueAt t 3) [.vec o.d.toNat v, .vec o.c.toNat u,
        .flags (flagsUpTo n (fun e => (cv (c.vlane o.a k.wa e) e).flags) ||| flagsUpTo n (fun e => (cv (c.vlane o.a k.wa (n + e)) e).flags))]) s') ∧
    (let q := blockShape (f.af.getD .f32) (f.df.getD .e4m3) f.b32 o.m.toNat
     let block := fun j => quantise q.narrow (decide (f.param = 1)) f.rm (fun i => c.srValue f (o.m.toNat * q.count + j * q.size + i))
       ((List.range q.size).map (fun i => c.vsource o.a q.wide (j * q.size + i)))
     let code := fun e => ((block (e / q.size)).codes[e % q.size]?).getD ⟨0, 0⟩
     s.Issues sigVqnt (opndW tail) t o → ∃ s' v g, exec (.vqnt tail) s = .next s' ∧
      (∀ e < q.count, (v.extractLsb' (q.bits * o.m.toNat + q.narrow.width * e) q.narrow.width).toNat = (code e).code % 2 ^ q.narrow.width) ∧
      (∀ j < 512, j < q.bits * o.m.toNat ∨ q.bits * (o.m.toNat + 1) ≤ j → v.getLsbD j = (c.readV o.d.toNat).getLsbD j) ∧
      (∀ j < q.count / q.size, (g.extractLsb' (8 * (q.base + j)) 8).toNat = (block j).scale % 256) ∧
      (∀ j < 64, j < 8 * q.base ∨ 8 * (q.base + q.count / q.size) ≤ j → g.getLsbD j = (c.readG o.c).getLsbD j) ∧
      s.Completes t s (c.getsAll (s.dueAt t 5) [.vec o.d.toNat v, .gen (c.phys o.c) g, .flags (flagsUpTo q.count (fun e => (code e).flags))]) s') ∧
    (let q := blockShape (f.df.getD .f32) (f.af.getD .e4m3) f.b32 o.m.toNat
     let product := fun e => fMul (val q.narrow (((c.readV o.a.toNat).extractLsb' (q.bits * o.m.toNat + q.narrow.width * e) q.narrow.width).toNat))
       (val .sc (((c.readG o.c).extractLsb' (8 * (q.base + e / q.size)) 8).toNat))
     let coded := fun e => enc q.wide (product e).v f.rm 0 f.satf c.fz
     s.Issues sigVdqnt (opndW tail) t o → ∃ s' v, exec (.vdqnt tail) s = .next s' ∧ Lanes v q.wide.width q.count (fun e => (coded e).code) ∧
      s.Completes t s (c.getsAll (s.dueAt t 4) [.vec o.d.toNat v, .flags (flagsUpTo q.count (fun e => (coded e).flags))]) s')) ∧
  (∀ (D A : Fmt) (x : Nat) (rm : RMode) (u : Nat) (satf : Bool), let w := D.width
    let integer := fun (signed : Bool) (v : Int) => (BitVec.ofInt w (clamped w signed v)).toNat
    (∀ sd sa, D.isInt = some sd → A.isInt = some sa → let v := readAs sa (BitVec.ofNat A.width x)
      convert D A x rm u satf false = ⟨integer sd v, if clamped w sd v = v then 0 else statSat⟩) ∧
    (∀ sd, D.isInt = some sd → A.isInt = none →
      (∀ q, val A x = .nan q → convert D A x rm u satf false = ⟨0, fxInvalid⟩) ∧
      (∀ n, val A x = .inf n → convert D A x rm u satf false = ⟨integer sd (if n then -(2 ^ 64) else 2 ^ 64), statSat⟩) ∧
      (∀ q : Rat, (val A x).rat? = some q → rm ≠ .sr → ∃ r : Int, |(r : Rat) - q| < 1 ∧
        (rm = .rne → |(r : Rat) - q| ≤ 1 / 2 ∧ (|(r : Rat) - q| = 1 / 2 → 2 ∣ r)) ∧
        (rm = .rtz → |(r : Rat)| ≤ |q|) ∧ (rm = .rup → q ≤ r) ∧ (rm = .rdn → (r : Rat) ≤ q) ∧
        convert D A x rm u satf false = ⟨integer sd r, (if clamped w sd r = r then 0 else statSat) ||| (if (r : Rat) = q then 0 else fxInexact)⟩)) ∧
    (D.isInt = none → convert D A x rm u satf false = enc D (val A x) rm u satf false) ∧
    (∀ q, A ∈ [Fmt.bf16, .f16, .e4m3, .e5m2, .e3m2, .e2m3, .e2m1, .ds8] → (val A x).rat? = some q →
      (convert .f32 A x rm u satf false).flags = 0 ∧ (val .f32 (convert .f32 A x rm u satf false).code).rat? = some q)) ∧
  (∀ f ∈ [(Fmt.e4m3, (8 : Int), (448 : Rat)), (.e5m2, 15, 57344), (.e3m2, 4, 28), (.e2m3, 2, 15 / 2), (.e2m1, 2, 6), (.ds8, 1, 2)],
    ∀ (fit : Bool) (rm : RMode) (u : Nat → Nat) (xs : List FVal), let q := quantise f.1 fit rm u xs
    ((∃ x ∈ xs, x.rat? = none) → q.scale = 255 ∧ q.codes.length = xs.length ∧ ∀ k ∈ q.codes, (val f.1 k.code).rat? = some 0 ∧ k.flags = fxInvalid) ∧
    (∀ rs : List Rat, xs.map FVal.rat? = rs.map some → (∀ n m, FVal.num n m ∈ xs → 0 ≤ m) → ∃ X : Int, -127 ≤ X ∧ X ≤ 127 ∧ q.scale = (X + 127).toNat ∧
      ((∀ r ∈ rs, r = 0) → X = -127) ∧
      (∀ a, (∃ r ∈ rs, |r| = a) → (∀ r ∈ rs, |r| ≤ a) → 0 < a → ∃ Y : Int, X = max (-127) (min 127 Y) ∧
        (fit = false → (2 : Rat) ^ (Y + f.2.1) ≤ a ∧ a < (2 : Rat) ^ (Y + f.2.1 + 1)) ∧
        (fit = true → a ≤ f.2.2 * (2 : Rat) ^ Y ∧ f.2.2 * (2 : Rat) ^ (Y - 1) < a)) ∧
      ∀ i n m, xs[i]? = some (.num n m) → q.codes[i]? = some (enc f.1 (.num n (m / (2 : Rat) ^ X)) rm (u i) true false)))

/-- R142 to R144, R165 to R168, R173: VRED reduces in the pairwise tree and VSCAN by doubling distances, an integer sum being exact and each integer prefix the reduction of its lanes; VPOPC counts; VDOT takes its blocks of 16 elements in order and rounds once a block; and VTOPK keeps the first-ranked entries in order, its subnormal scores read as zeros under STAT.FZ (log 19). -/
def Obligations.ReductionsFollowTheOrderOfSums : Prop :=
  AddsBlocks blockDot ∧
  (∀ (A B : Fmt) (b32 : Bool) (k xs ys scales : Nat), (dotBlocks A B b32 k xs ys scales).length = k / 16 ∧
    ∀ j < k / 16, ∃ d, (dotBlocks A B b32 k xs ys scales)[j]? = some d ∧ d.At A B xs ys (A.width * (16 * j)) (B.width * (16 * j)) ∧
      let scale := fun base => if A.isWide then FVal.num false 1 else val .sc (scales / 2 ^ (8 * (base + if b32 then j / 2 else j)) % 256)
      d.scaleA = scale 0 ∧ d.scaleB = scale 4) ∧
  (∀ (s : State) (tail : TailW) (t : Nat) (o : Opnd), s.Straight (s.coreAt t) s.mem →
    let c := s.coreAt t
    let f := c.fmt
    let w := o.mtype.width
    let n := 512 / w
    let F := f.elem
    let lane := fun i => Coded.mk (c.vlane o.a F.width i) 0
    (s.Issues (sigRed 0x800 .gw) (opndW tail) t o →
      (o.m.getLsbD 6 = true → ∃ s', exec (.vred tail) s = .next s' ∧ s.Completes t s (c.gets (s.dueAt t 6) (.gen (c.phys o.d)
        (if redOp o = 0 then BitVec.ofInt 64 ((List.range n).map (fun i => readAs o.mtype.signed (c.ilane o.a w i))).sum
          else extended o.mtype.signed (c.reducedTo o.a (redOp o) o.mtype (n - 1))))) s') ∧
      (o.m.getLsbD 6 = false → let r := treeNode (reduceStep (redOp o) F f c.fz) lane (laneLog F.width) 0
        ∃ s', exec (.vred tail) s = .next s' ∧
          s.Completes t s (c.getsAll (s.dueAt t 6) [.gen (c.phys o.d) (BitVec.ofNat 64 r.code), .flags r.flags]) s')) ∧
    (s.Issues (sigRed 0x807 .vw) (opndW tail) t o →
      (o.m.getLsbD 6 = true → ∃ s' v, exec (.vscan tail) s = .next s' ∧
        Lanes v w n (fun i => (c.reducedTo o.a (redOp o) o.mtype i).toNat) ∧ s.Completes t s (c.gets (s.dueAt t 6) (.vec o.d.toNat v)) s') ∧
      (o.m.getLsbD 6 = false → let r := prefixNode (reduceStep (redOp o) F f c.fz) lane (laneLog F.width)
        ∃ s' v, exec (.vscan tail) s = .next s' ∧ Lanes v F.width (512 / F.width) (fun i => (r i).code) ∧
          s.Completes t s (c.getsAll (s.dueAt t 6) [.vec o.d.toNat v, .flags (flagsUpTo (512 / F.width) (fun i => (r i).flags))]) s')) ∧
    (s.Issues sigVpopc (opndW tail) t o → ∃ s' v, exec (.vpopc tail) s = .next s' ∧
      Lanes v w n (fun i => (c.ilane o.a w i).cpop.toNat) ∧ s.Completes t s (c.gets (s.dueAt t 2) (.vec o.d.toNat v)) s') ∧
    (s.Issues sigVdot (opndW tail) t o →
      let d := c.dotFormats
      let r := blockDot ((c.readG o.d).toNat % 2 ^ 32) (dotBlocks d.1 d.2 f.b32 (if d.1.isWide then 512 / d.1.width else 64)
        (c.readV o.a.toNat).toNat (c.readV o.b.toNat).toNat (c.readG o.c).toNat)
      ∃ s', exec (.vdot tail) s = .next s' ∧
        s.Completes t s (c.getsAll (s.dueAt t 8) [.gen (c.phys o.d) (BitVec.ofNat 64 r.code), .flags r.flags]) s') ∧
    (s.Issues sigVtopk (opndW tail) t o →
      let k := o.m.toNat % 32 + 1
      let score := fun x => if c.fz = true ∧ x / 2 ^ 23 % 256 = 0 then x / 2 ^ 31 * 2 ^ 31 else x
      let entries := (c.topList o.d o.c k).map (fun e => (score e.1, e.2)) ++
        (List.range 16).map (fun i => (score (c.vlane o.a 32 i), ((c.readG o.b).toNat + i) % 2 ^ 32))
      ∃ s' vs rest, exec (.vtopk tail) s = .next s' ∧
        s.PendsTo t (if k ≤ 16 then 6 else 9) c
          [.vec o.d.toNat (vs 0), .vec (o.d.toNat + 1) (vs 1), .vec o.c.toNat (vs 2), .vec (o.c.toNat + 1) (vs 3)] false s' ∧
        (((List.range k).map (entryOf vs)) ++ rest).Perm entries ∧
        (((List.range k).map (entryOf vs)) ++ rest).Pairwise (fun x y => ranksBefore (o.m.getLsbD 5) y x = false) ∧
        (∀ i, k ≤ i → i < 32 → entryOf vs i = (0x7FC00000, 0xFFFFFFFF))))

/-- R169 to R172: a gather that passes the checks brings one element to each lane and zero to inactive ones, a scatter stores the lanes in increasing order, and VDIST gives each active lane its distance, which adds the exact terms of 16 elements to a rounding, and the others +∞, each by its time. -/
def Obligations.GathersScattersAndDistances : Prop :=
  (∀ metric < 3, ∀ (blocks : Nat) (qs xs : List FVal) (acc : Coded), distance metric 0 qs xs acc = acc ∧
    (∀ qr xr : List Rat, (qs.take 16).map FVal.rat? = qr.map some → (xs.take 16).map FVal.rat? = xr.map some →
      let p := ((qr.zip xr).map (fun e => termOf metric e.1 e.2)).sum
      let rest := distance metric blocks (qs.drop 16) (xs.drop 16)
      let e := fAdd .rne (val .f32 acc.code) (FVal.ofRat p)
      let r := enc .f32 e.v .rne 0 false false
      (p = 0 → distance metric (blocks + 1) qs xs acc = rest acc) ∧
      (p ≠ 0 → distance metric (blocks + 1) qs xs acc = rest ⟨r.code, acc.flags ||| (e.flags ||| r.flags)⟩)) ∧
    (∀ i < 16, ∀ q x, qs[i]? = some q → xs[i]? = some x → (q.isNan = true ∨ x.isNan = true) → (distance metric 1 qs xs acc).code = 0x7FC00000)) ∧
  (∀ (s : State) (t : Nat) (o : Opnd),
    let c := s.coreAt t
    let w := o.mtype.width
    (∀ tail : TailW,
      (s.Issues (sigGather 0x804 .vw 4) (opndW tail) t o → s.Straight c s.mem →
        s.MayAccess t false (w / 8) ((c.activeLanes o (elements w)).map (fun i => (c.laneAddress o i, w / 8))) →
        ∃ s' v, exec (.vgath tail) s = .next s' ∧
          Lanes v w (elements w) (fun i => if c.activeLane o i then Memory.readLE s.mem (sliceKey s.cur (c.laneAddress o i)) (w / 8) else 0) ∧
          s.PendsTo t (4 + (((c.activeLanes o (elements w)).map (fun i => c.laneAddress o i / 64)).toFinset.card - 1))
            (c.takesSlice (max s.now t)) [.vec o.d.toNat v] false s') ∧
      (s.Issues (sigGather 0x805 .vr 0) (opndW tail) t o →
        let xs := (c.activeLanes o (elements w)).map (fun i => (c.laneAddress o i, w / 8, c.vlane o.d w i))
        s.Straight c (storedMem s.mem s.cur xs) →
        s.MayAccess t true (w / 8) ((c.activeLanes o (elements w)).map (fun i => (c.laneAddress o i, w / 8))) →
        (xs ≠ [] → ∃ s', exec (.vscat tail) s = .next s' ∧ s.StoresTo t xs s') ∧
        (xs = [] → ∃ s', exec (.vscat tail) s = .next s' ∧ s.Completes t s c s'))) ∧
    (∀ tail : TailD, s.Issues sigVdist (opndD tail) t o → s.Straight c s.mem →
      let n := tail.imm.toNat
      let A := c.dotFormats.1
      let B := c.dotFormats.2
      let q := (c.readG o.c).toNat
      s.MayAccess t false (A.width / 8) [(q, n * (A.width / 8))] →
      s.MayAccess t false (B.width / 8) ((c.activeLanes o 16).map (fun i => (c.laneAddress o i, n * (B.width / 8)))) →
      let d := fun i => if c.activeLane o i then distance tail.m.toNat ((n + 15) / 16) (s.localValues A q n) (s.localValues B (c.laneAddress o i) n) ⟨0, 0⟩
        else ⟨0x7F800000, 0⟩
      ∃ s' v, exec (.vdist tail) s = .next s' ∧ Lanes v 32 16 (fun i => (d i).code) ∧
        s.PendsTo t (6 + (c.activeLanes o 16).length * ((n * B.width + 511) / 512)) (c.takesSlice (max s.now t))
          [.vec o.d.toNat v, .flags (flagsUpTo 16 (fun i => (d i).flags))] true s'))

/-- R247, R249 to R254, R259, R261, R264, R288: an aligned near or global instruction with fewer than 32 requests outstanding makes its one request, with its address, data and ordering, marks its result pending, sets its TSM bit and completes; it is sent at once when nothing earlier keeps it back, waits at the interface while something does (a release for the earlier writes of its scope), and is held behind a failed access that does; a misaligned one faults, and a 33rd request waits. What keeps a request back is `State.keepsBack` (log 50), and that a release which goes at once prunes its own class bit too is the model's choice (log 45). -/
def Obligations.RequestsAreMade : Prop :=
  ∀ f ∈ requestForms, ∀ (s : State) (tail : TailD) (t : Nat) (o : Opnd), s.Issues f.sig (opndD tail) t o →
    let c := s.coreAt t
    let ea := c.addressD o tail
    let r0 := s.madeBy c f.sig o tail (f.near o) (f.op c o) f.writes
    let r := { r0 with
      result := if f.result then some c.varNext else none
      dst := (f.gens o).head?.bind c.phys
      vec := (f.vecs o).head? }
    let c1 := if f.result then c.pends s.nextId (f.gens o) (f.vecs o) else c
    (¬ f.align o ∣ ea.toNat → c.hm = false → ∃ s', exec (f.instr tail) s = .next s' ∧ s.TrapsAt t ⟨0x08, 0, ea⟩ s') ∧
    (f.align o ∣ ea.toNat → 32 ≤ s.outstanding s.cur → ∃ s', exec (f.instr tail) s = .next s' ∧ s.Stays t (s.core s.cur).run s') ∧
    (f.align o ∣ ea.toNat → s.outstanding s.cur < 32 → s.Straight c s.mem →
      (s.noneHeld r → s.goesAt c r = true → ∃ s', exec (f.instr tail) s = .next s' ∧
        s.Completes t s' (match r.release with | some scope => (c1.asked r).prune s.cur scope c.reqSeq | none => c1.asked r) s' ∧ s'.mem = s.mem ∧
        s'.HasRequest s.nextId r r.leaves) ∧
      (s.noneHeld r → s.goesAt c r = false → ∃ s', exec (f.instr tail) s = .next s' ∧ s.Completes t s' (c1.asked r) s' ∧ s'.mem = s.mem ∧
        s'.HasRequest s.nextId r (.atInterface (s.ahead r))) ∧
      (¬ s.noneHeld r → ∃ s' l, exec (f.instr tail) s = .next s' ∧ l.Perm (⟨s.nextId, none, c.hm⟩ :: c.held) ∧
        s.Completes t s' { c1.asked r with held := l } s' ∧ s'.mem = s.mem ∧ s'.HasRequest s.nextId r .held))

/-- R262 to R269, R272, R288: FENCE clears TSM; WAITC goes on when its counter has reached its value, and sleeps until then; INBOX takes the oldest message, gives zeros without one, as late as a message (log 18), or sleeps; WAITA, FLUSH and CAPGIVE make their requests, WAITA sleeping at its place; no byte of memory changes. -/
def Obligations.WaitsFencesAndTheInbox : Prop :=
  ∀ (s : State) (t : Nat) (o : Opnd),
    let c := s.coreAt t
    let k : Core := { c with tsm := 0 }
    let due := max s.now t + 2 * c.clock.pipePeriod
    (∀ tail : TailW,
      (s.Issues sigFence (opndW tail) t o → s.Straight c s.mem → ∃ s', exec (.fence tail) s = .next s' ∧ s.Completes t s k s') ∧
      (let x := ((c.readG o.a).setWidth 32 : BitVec 32)
       let v := c.counters[o.b.toNat]?.getD 0
       s.Issues sigWaitc (opndW tail) t o → s.counterMark s.cur o.b.toNat = none →
        (x.toNat ≤ v.toNat → s.Straight c s.mem → ∃ s', exec (.waitc tail) s = .next s' ∧
          s.Completes t { s with agenda := insertTurn ⟨due, s.cur, .event (.varResultArrival s.cur c.varNext)⟩ s.agenda }
            { k with
              counters := if o.m.getLsbD 0 then c.counters.setIfInBounds o.b.toNat (v - x) else c.counters
              var := c.var ++ [⟨c.varNext, .at due, ([o.d].filterMap c.phys), [], [.gen (c.phys o.d) (v.setWidth 64)], false⟩]
              varNext := c.varNext + 1, memReady := max c.memReady due } s') ∧
        (v.toNat < x.toNat → ∃ s', exec (.waitc tail) s = .next s' ∧ s.Stays t (.sleeping .condition) s' ∧
          (s'.core s.cur).counters = c.counters ∧ (s'.core s.cur).tsm = 0)) ∧
      (s.Issues sigInbox (opndW tail) t o →
        (c.inbox = [] → o.m.getLsbD 0 = true → ∃ s', exec (.inbox tail) s = .next s' ∧ s.Stays t (.sleeping .condition) s') ∧
        (∀ m rest, (c.inbox = m :: rest ∨ (c.inbox = [] ∧ rest = [] ∧ o.m.getLsbD 0 = false ∧ m = ⟨0, 0, 0, 0, 0⟩)) → s.Straight c s.mem →
          ∃ s', exec (.inbox tail) s = .next s' ∧ s'.mem = s.mem ∧
            s.Completes t s'
              { k with
                inbox := rest
                var := c.var ++ [⟨c.varNext, .at due, ([o.d, o.c].filterMap c.phys), [],
                  [.gen (c.phys o.d) (m.src ++ m.tag ++ m.status ++ m.kind), .gen (c.phys o.c) m.data], false⟩]
                varNext := c.varNext + 1, memReady := max c.memReady due } s'))) ∧
    (∀ tail : TailD,
      (let ea := c.addressD o tail
       let n := o.mtype.width / 8
       let r := { s.madeBy k sigWaita o tail false (.waita n o.mtype.signed (c.typed o.b o.mtype.width).toNat) false with
        result := some c.varNext, dst := c.phys o.d, dst2 := c.phys o.c }
       s.Issues sigWaita (opndD tail) t o → n ∣ ea.toNat → s.outstanding s.cur < 32 → s.noneHeld r →
        ∃ s', exec (.waita tail) s = .next s' ∧ s.Stays t (.sleeping (.waita s.nextId false)) s' ∧ s'.HasRequest s.nextId r (s.startsAt c r) ∧
          (s'.core s.cur).var = (c.pends s.nextId [o.d, o.c] []).var ∧ (s'.core s.cur).tsm = 0) ∧
      (let n := (c.readG o.b).toNat % 2 ^ 32
       let r := { s.madeBy k sigFlush o tail false (.flush (o.m.toNat % 4) n) false with acquire := false, release := none, blocks := true }
       s.Issues sigFlush (opndD tail) t o → s.Straight c s.mem →
        (n = 0 → ∃ s', exec (.flush tail) s = .next s' ∧ s.Completes t s k s') ∧
        (n ≠ 0 → s.outstanding s.cur < 32 → s.noneHeld r → ∃ s', exec (.flush tail) s = .next s' ∧ s.Completes t s' (k.asked r) s' ∧ s'.mem = s.mem ∧
          s'.HasRequest s.nextId r (s.startsAt c r))) ∧
      (let r := { s.madeBy k sigCapgive o tail false (.capgive ((c.readG o.b).toNat % 65536)) false with blocks := true }
       s.Issues sigCapgive (opndD tail) t o → s.Straight c s.mem → s.outstanding s.cur < 32 → s.noneHeld r →
        ∃ s', exec (.capgive tail) s = .next s' ∧ s.Completes t s' (k.asked r) s' ∧ s'.mem = s.mem ∧ s'.HasRequest s.nextId r (s.startsAt c r)))

/-- R233, R234, R252 to R261, R288, R371, R410, R462: a request that reaches its slice and passes the checks reads or writes there in one step and is answered, and one without the right fails; a release leaves once its writes are acknowledged, and prunes its own class bit too (log 45); a handover changes the holder; a link request times out; host memory answers a read; and a request of a partition that has used its budget of a stack waits there until the next interval, whose beginning sets the counts back and serves it. -/
def Obligations.DestinationsServeRequests : Prop :=
  (∀ (s : State) (id : Nat) (r : Req) (c off : Nat), s.AtSlice id r c off →
    let key := sliceKey c off
    (s.Passes r c off →
      (∀ n sg, r.op = .load n sg → ∃ s', exec (.destinationRequest id) s = .next s' ∧ s'.mem = s.mem ∧
        s.AnswersNear id r c (.ok (Memory.readLE s.mem key n) 0) s') ∧
      (∀ n v, r.op = .store n v → ∃ s', exec (.destinationRequest id) s = .next s' ∧ s'.mem = Memory.writeLE s.mem key n v ∧
        s.AnswersNear id r c (.ok 0 0) s') ∧
      (∀ opn n sg x cmp, r.op = .amo opn n sg x cmp → n = 4 ∨ n = 8 → ∃ s', exec (.destinationRequest id) s = .next s' ∧
        (let old := Memory.readLE s.mem key n
         let w := atomicNew (8 * n) opn (readAs sg (BitVec.ofNat (8 * n) old)) x cmp
         s'.mem = (if w.toNat = old then s.mem else Memory.writeLE s.mem key n w.toNat) ∧ s.AnswersNear id r c (.ok old 0) s'))) ∧
    (r.writes = true → r.op.reads = false → (∃ i < r.op.size, (s.core c).accessible 61 (off + i) = false) →
      ∃ s', exec (.destinationRequest id) s = .next s' ∧ s'.mem = s.mem ∧ s.AnswersNear id r c (.fail 0x0A 0x83) s')) ∧
  (∀ (s : State) (id : Nat) (r : Req) (scope : Nat) (waits : List Nat), s.req id = some r → r.stage = .atInterface waits → r.release = some scope →
    (∀ w ∈ waits, ∀ q, s.req w = some q → s.keepsBack w q r = false) → (s.core r.core).ranges.all (fun g => !g.drain) = true →
    ∃ s', exec (.releaseSend id) s = .next s' ∧ s'.mem = s.mem ∧ s'.core r.core = (s.core r.core).prune r.core scope r.seq ∧
      ∃ q, s'.req id = some q ∧ q.stage = r.leaves ∧ q.op = r.op ∧ q.ea = r.ea) ∧
  (∀ (s : State) (id : Nat) (r : Req) (target key : Nat), s.req id = some r → r.op = .capgive target → r.stage = .handing key → r.near = false →
    ∃ s', exec (.capabilityHandover id) s = .next s' ∧ SMap.find s'.holders (key / 65536) = some target ∧ s'.mem = s.mem ∧
      s'.HasRequest id r (.answered (.ok 0 0)) ∧
      ∃ m ∈ s'.mail, m.2.msg = ⟨0x04, 0, 0, BitVec.ofNat 32 (s.core r.core).rank, r.ea &&& 0xFFFF_FFFF_FFFF_0000⟩) ∧
  (∀ (s : State) (id since : Nat) (r : Req), s.req id = some r → r.stage = .onLink since → r.near = false →
    ∃ s', exec (.linkTimeout id) s = .next s' ∧ s'.mem = s.mem ∧ s'.HasRequest id r (.answered (.fail 0x1D (if r.writes then 0x81 else 0x01)))) ∧
  (∀ (s : State) (id n key : Nat) (sg : Bool) (r : Req), s.req id = some r → (∀ e ∈ s.reqs, e.1 = id → e.2 = r) → r.stage = .atHost key → r.op = .load n sg →
    r.near = false → hostKey 0 ≤ key → 0 < n → key % 64 + n ≤ 64 → (∀ e ∈ s.reqs, ∀ k, e.2.stage = .behind k → e.2.core ≠ r.core) →
    ∃ s', exec (.hostPcieCompletion id) s = .next s' ∧ s'.mem = s.mem ∧ s'.HasRequest id r (.answered (.ok (Memory.readLE s.mem key n) 0))) ∧
  (∀ (s : State) (id va p : Nat) (r : Req), s.req id = some r → r.stage = .sent → s.drops (s.pidFor r) = false → s.placeOf r = .hbm va →
    s.partOf (s.core r.core) = some p →
    let interval := 1000 * tickUnits
    let limit := 4096 * bitsOf (s.page p 0x18) 31 0
    let used := if s.now / interval = s.budgetEpoch then SMap.get (fun _ => 0) s.budgetUsed (128 * (channelOf va / 32) + p) else 0
    (id ∉ s.budgetHeld → limit ≠ 0 → limit ≤ used → ∃ s', exec (.destinationRequest id) s = .next s' ∧ s'.budgetHeld = s.budgetHeld ++ [id] ∧ s'.mem = s.mem ∧
      s'.cores = s.cores ∧ s'.reqs = s.reqs ∧ s'.Posted ((s.now / interval + 1) * interval) .budgetInterval) ∧
    (s.budgetHeld = [id] → exec .budgetInterval s = exec (.destinationRequest id) { s with budgetHeld := [] })) ∧
  (∀ s : State, s.budgetHeld = [] → ∃ s', exec .budgetInterval s = .next s' ∧ s'.mem = s.mem ∧ s'.cores = s.cores ∧
    (s.now / (1000 * tickUnits) ≠ s.budgetEpoch → s'.budgetUsed = []))

/-- R51, R245, R255, R257, R265, R268: a successful response writes the registers it was to write, frees them and is counted; a failed one is held; a result due is written; a message enters an inbox with room and waits for one without; and a withdrawn WAITA stops waiting: its registers leave the scoreboard, and its core stands at it again. -/
def Obligations.ResponsesAndMessagesArrive : Prop :=
  (∀ (s : State) (id : Nat) (r : Req), s.req id = some r → r.client = .core →
    (∀ k wd, (s.core r.core).run ≠ .sleeping (.waita k wd)) →
    let c := (s.core r.core).account s.now r.cls (s.delayOf r)
    (∀ value status, r.stage = .answered (.ok value status) → ∃ s', exec (.responseArrival id) s = .next s' ∧ s'.req id = none ∧ s'.mem = s.mem ∧
      (∀ m, m ≠ r.core → s'.core m = s.core m) ∧
      s'.core r.core = match r.result with | some k => c.finishVar k (r.results value status) | none => c) ∧
    (∀ code qual, r.stage = .answered (.fail code qual) → ∃ s', exec (.responseArrival id) s = .next s' ∧ s'.mem = s.mem ∧
      (∀ m, m ≠ r.core → s'.core m = s.core m) ∧ s'.HasRequest id r .held ∧
      ∃ l, l.Perm (⟨id, some (code, qual), r.handler⟩ :: c.held) ∧ s'.core r.core = { c with held := l })) ∧
  (∀ (s : State) (core k due : Nat) (v : VarResult), (s.core core).var.find? (fun v => v.id = k && v.arrived s.now) = some v → v.source = .at due →
    ∃ s', exec (.varResultArrival core k) s = .next s' ∧ s'.outside = s.outside ∧ (∀ m, m ≠ core → s'.core m = s.core m) ∧
      s'.core core = ((s.core core).settle s.now).finishVar k v.writes) ∧
  (∀ (s : State) (id : Nat) (m : Mail), SMap.find s.mail id = some m →
    (s.mail.any (fun e => decide (e.1 < id) && decide (e.2.core = m.core) && decide (e.2.sender = m.sender)) = false → (s.core m.core).inbox.length < 64 →
      ∃ s', exec (.inboxMessageArrival id) s = .next s' ∧ s'.core m.core = { s.core m.core with inbox := (s.core m.core).inbox ++ [m.msg] } ∧
        SMap.find s'.mail id = none ∧ s'.mem = s.mem) ∧
    (64 ≤ (s.core m.core).inbox.length → ∃ s', exec (.inboxMessageArrival id) s = .next s' ∧ s'.core m.core = s.core m.core ∧
      SMap.find s'.mail id = some { m with waits := true })) ∧
  (∀ (s : State) (id k order : Nat) (wd : Bool) (r : Req), (s.core s.cur).run = .sleeping (.waita id wd) → s.req id = some r → r.withdrawn = true →
    (r.stage = .sent ∨ r.stage = .armed k order) →
    ∃ s', exec .waitaWithdrawal s = .next s' ∧ s'.req id = none ∧ s'.mem = s.mem ∧ (∀ m, m ≠ s.cur → s'.core m = s.core m) ∧
      s'.core s.cur = { s.core s.cur with
        run := if s.forcedStop s.cur then .stopped .withdrawn else .running
        var := (s.core s.cur).var.filter (fun v => decide (some v.id ≠ r.result)) })

/-- R219 to R223: SEND puts its word on the way to every core of its route, each arriving D network cycles later; a word takes its slot unless a lower sender's word of the same edge holds it; MUXSEL sets the route or faults; RECV and RECVM read a slot. -/
def Obligations.ExchangeMovesWordsByTheClock : Prop :=
  (∀ (s : State) (t : Nat) (o : Opnd), let c := s.coreAt t
    (∀ tail : TailH, s.Issues sigSend (opndH tail) t o → s.Straight c s.mem → ∃ s', exec (.send tail) s = .next s' ∧ s.Completes t s' c s' ∧ s'.mem = s.mem ∧
      ∀ i < 64, c.routeMask.getLsbD i = true → ∃ id,
        let target := s.cur / 1024 * 1024 + 64 * c.routeSg.toNat + i
        let due := max s.now t + exchangeDelay (s.cur / 64 % 16) (c.routeSg.toNat % 16) * s.netPeriod
        SMap.find s'.xwords id = some ⟨s.cur, target, o.f.toNat % 8, c.readG o.a, due⟩ ∧
        ⟨due, target, .event (.exchangeWordArrival id)⟩ ∈ s'.agenda) ∧
    (∀ tail : TailI,
      (s.Issues sigRecv (opndI tail) t o → s.Straight c s.mem → ∃ s', exec (.recv tail) s = .next s' ∧
        s.Completes t s (c.gets (s.dueAt t 1) (.gen (c.phys o.d) (c.slots[tail.imm.toNat % 8]?.getD XSlot.empty).value)) s') ∧
      (s.Issues sigRecvm (opndI tail) t o → s.Straight c s.mem → ∃ s', exec (.recvm tail) s = .next s' ∧
        s.Completes t s (c.gets (s.dueAt t 1) (.lane o.d.toNat (tail.imm.toNat % 8) (c.slots[tail.imm.toNat / 8 % 8]?.getD XSlot.empty).value)) s') ∧
      (let target : Int := (s.cur / 64 % 16 : Nat) + tail.imm.toInt
       s.Issues sigMuxsel (opndI tail) t o →
        (target < 0 ∨ 15 < target → c.hm = false → ∃ s', exec (.muxsel tail) s = .next s' ∧ s.TrapsAt t ⟨0x12, 0x02, BitVec.ofInt 64 target⟩ s') ∧
        (0 ≤ target → target ≤ 15 → s.Straight c s.mem →
          (∀ i < 64, (c.readG o.a).getLsbD i = true → s.sharesRange s.cur (s.cur / 1024 * 1024 + 64 * target.toNat + i) = true) →
          ∃ s', exec (.muxsel tail) s = .next s' ∧ s.Completes t s { c with routeSg := BitVec.ofInt 4 target, routeMask := c.readG o.a } s')))) ∧
  (∀ (s : State) (word : Nat) (w : XWord), SMap.find s.xwords word = some w →
    ∃ s', exec (.exchangeWordArrival word) s = .next s' ∧ SMap.find s'.xwords word = none ∧ s'.mem = s.mem ∧ (∀ m, m ≠ w.target → s'.core m = s.core m) ∧
      let old := (s.core w.target).slots[w.slot]?.getD XSlot.empty
      s'.core w.target = if old.arrival = w.arrival ∧ old.sender < w.sender % 1024 then s.core w.target
        else { s.core w.target with slots := (s.core w.target).slots.setIfInBounds w.slot ⟨w.value, w.arrival, w.sender % 1024⟩ })

/-- R320 to R336: MGEO gives the edge descriptor; MCLAIM claims the lowest free run or gives all ones; MREL, MLOAD, MSTORE, MZERO and MDRAIN enter the queue once their checks pass, wait while it is full, and fault on a slot that is not the core's; MGANG joins its pod's next gang, which becomes a command with its eighth member, accepted at once unless an earlier command waits for its acceptance. -/
def Obligations.MatrixInstructionsQueueCommands : Prop :=
  ∀ (s : State) (t : Nat) (o : Opnd), let c := s.coreAt t
    let m := s.matrix s.curPod
    let sl := s.cur % 8
    (∀ tail : TailW,
      (s.Issues sigMgeo (opndW tail) t o → s.Straight c s.mem →
        let x := c.readG o.a
        let nr := min 64 (bitsOf c.geom 31 16 + 1 - 64 * bitsOf x 31 16)
        let col0 := 128 * bitsOf x 15 0 + 16 * sl
        let nc := min 16 (bitsOf c.geom 15 0 + 1 - col0)
        ∃ s', exec (.mgeo tail) s = .next s' ∧ s.Completes t s
          (c.gets (s.dueAt t 2) (.gen (c.phys o.d) (BitVec.ofNat 64 (2 ^ nc - 1 + field 16 nr + field 24 col0 + field 48 sl)))) s') ∧
      (s.Issues sigMclaim (opndW tail) t o → s.Straight c s.mem → let n := tail.m.toNat + 1
        ((∀ i, ¬ m.FreeAt n i) → ∃ s', exec (.mclaim tail) s = .next s' ∧ s.PendsGen t 3 c (c.phys o.d) 0xFFFF_FFFF_FFFF_FFFF s' ∧ s'.matrix s.curPod = m) ∧
        (∀ i, m.FreeAt n i → (∀ j < i, ¬ m.FreeAt n j) → ∃ s', exec (.mclaim tail) s = .next s' ∧
          s.PendsGen t 3 c (c.phys o.d) (BitVec.ofNat 64 i) s' ∧ s'.mem = s.mem ∧
          ∀ k, (s'.matrix s.curPod).slot k = if i ≤ k ∧ k < i + n then { m.slot k with claim := some sl } else m.slot k)) ∧
      (s.Issues sigMrel (opndW tail) t o → let n := tail.m.toNat + 1
        let x := c.readG o.a
        let slot := bitsOf x 7 0
        ((bitsOf x 63 8 ≠ 0 ∨ 256 < slot + n) → c.hm = false → ∃ s', exec (.mrel tail) s = .next s' ∧ s.TrapsAt t ⟨0x15, 0x01, x⟩ s') ∧
        (bitsOf x 63 8 = 0 → slot + n ≤ 256 →
          (∀ i < n, (m.slot (slot + i)).claim = some sl ∧ s.boarded s.curPod none (slot + i) = false) → s.Straight c s.mem →
          (s.queueFull = false → ∃ s', exec (.mrel tail) s = .next s' ∧ s.Queues t (.rel slot n) c s') ∧
          (s.queueFull = true → ∃ s', exec (.mrel tail) s = .next s' ∧ s.Stays t (s.core s.cur).run s'))) ∧
      (s.Issues sigMzero (opndW tail) t o → s.Straight c s.mem → s.queueFull = false →
        ∃ s', exec (.mzero tail) s = .next s' ∧ s.Queues t (.zero (tail.m.toNat % 4)) c s') ∧
      (s.Issues sigMgang (opndW tail) t o → s.gangBroken s.cur = none →
        (tail.m.getLsbD 2 = true ∨ (m.bank sl (tail.m.toNat % 4)).mark = none) → s.queueFull = false → SMap.find m.members sl = none →
        let g : GangMember := ⟨c.readG o.a, c.readG o.b, c.fmtTail.a, c.fmtTail.b, tail.m.toNat % 4, tail.m.getLsbD 2⟩
        let members := SMap.put m.members sl g
        (m.members.length < 7 → ∃ s', exec (.mgang tail) s = .next s' ∧ s.Stays t (.sleeping .gang) s' ∧ (s'.matrix s.curPod).members = members) ∧
        (m.members.length = 7 → ∀ first rest, members = first :: rest → m.gangFault first.2 (rest.map Prod.snd) = none →
          let behind := m.cmds.any (fun e => !e.2.accepted)
          ∃ s', exec (.mgang tail) s = .next s' ∧ (s'.matrix s.curPod).members = [] ∧
            SMap.find (s'.matrix s.curPod).cmds m.nextCmd = some ⟨8 * s.curPod,
              .gang first.2.fa first.2.fb (bitsOf first.2.specA 7 0) (bitsOf first.2.specA 8 8) (bitsOf first.2.specB 7 0)
                (members.map (fun e => (e.2.bank, e.2.z))), !behind, false, s.matEdgeAfter s.curPod (max s.now t), none, 0, none⟩ ∧
            (behind = true → s.Stays t (.sleeping .gang) s') ∧
            (behind = false → s.Straight c s.mem → (s'.core s.cur).run = .running ∧
              (s'.core s.cur).pc = (c.advance (s.lastHead s.cur)).next)))) ∧
    (∀ tail : TailD,
      (∀ f ∈ [(Instr.mload, 0xA02#12, true), (Instr.mstore, 0xA03#12, false)], s.Issues (sigMove f.2.1) (opndD tail) t o →
        let ea := c.addressD o tail
        let whole := !tail.m.getLsbD 0
        let glob := tail.m.getLsbD 1
        let b32 := tail.m.getLsbD 2
        let n := imageLength whole b32
        let x := c.readG o.d
        let slot := bitsOf x 7 0
        let counter := if o.c.getLsbD 4 then some (o.c.toNat % 16) else none
        64 ∣ ea.toNat → (glob = false → ∀ i < n, ea.toNat + i < 262144 ∧ (c.hm = true ∨ c.accessible (if f.2.2 then 62 else 61) (ea.toNat + i) = true)) →
        (bitsOf x 63 9 ≠ 0 ∨ (whole = true ∧ x.getLsbD 8 = true) → c.hm = false → ∃ s', exec (f.1 tail) s = .next s' ∧ s.TrapsAt t ⟨0x15, 0x01, x⟩ s') ∧
        (bitsOf x 63 9 = 0 → (whole = true → x.getLsbD 8 = false) →
          ((m.slot slot).claim = none → c.hm = false → ∃ s', exec (f.1 tail) s = .next s' ∧ s.TrapsAt t ⟨0x15, 0x02, BitVec.ofNat 64 slot⟩ s') ∧
          (∀ k, (m.slot slot).claim = some k → k ≠ sl → c.hm = false →
            ∃ s', exec (f.1 tail) s = .next s' ∧ s.TrapsAt t ⟨0x15, 0x03, BitVec.ofNat 64 slot⟩ s') ∧
          ((m.slot slot).claim = some sl → (f.2.2 = true → s.boarded s.curPod none slot = false) → s.queueFull = false →
            (glob = false → c.ranges.length < 16) → s.Straight c s.mem → ∃ s', exec (f.1 tail) s = .next s' ∧
              s.Queues t (.move f.2.2 slot (bitsOf x 8 8) whole b32 glob ea counter)
                (if glob then c else { c with ranges := c.ranges ++ [⟨ea.toNat, ea.toNat + n - 1, !f.2.2, false, 64 + m.nextCmd⟩] }) s'))) ∧
      (s.Issues sigMdrain (opndD tail) t o →
        let cvt := tail.m.toNat / 4 % 8
        let w := if cvt = 0 then 4 else if cvt = 1 then 2 else 1
        let ea := c.addressD o tail
        let stride := c.readG o.b
        let cmask := if o.c = 0 then 0xFFFF else bitsOf (c.readG o.c) 15 0
        let nr := if o.c = 0 then 64 else min 64 (bitsOf (c.readG o.c) 22 16)
        let runs := drainRuns cvt ea.toNat stride nr cmask (c.readG o.d).toNat
        (¬ (w ∣ ea.toNat ∧ w ∣ stride.toNat) → c.hm = false → ∃ s', exec (.mdrain tail) s = .next s' ∧ s.TrapsAt t ⟨0x08, 0, ea⟩ s') ∧
        (w ∣ ea.toNat → w ∣ stride.toNat → (∀ r ∈ runs, ∀ i < r.2, r.1 + i < 262144 ∧ (c.hm = true ∨ c.accessible 61 (r.1 + i) = true)) →
          (m.bank sl (tail.m.toNat % 4)).mark = none → s.queueFull = false → c.ranges.length < 16 → s.Straight c s.mem →
          ∃ s' range, exec (.mdrain tail) s = .next s' ∧ range.dest = true ∧ range.drain = true ∧ range.owner = 64 + m.nextCmd ∧
            (∀ r ∈ runs, range.lo ≤ r.1 ∧ r.1 + r.2 ≤ range.hi + 1) ∧
            s.Queues t (.drain (tail.m.toNat % 4) cvt (tail.m.getLsbD 5) ea.toNat stride nr cmask (c.readG o.d).toNat)
              { c with ranges := c.ranges ++ [range] } s')))

/-- R321, R324 to R328, R332 to R335: the engine accepts its oldest command at its edge; a gang that is due writes each element of its banks by the order of sums, over the elements and scales that the slots hold, and ORs the flags, invalid for a sum that is NaN from operands none of which is NaN; a local move carries its image and bumps its counter; a drain stores the valid elements and gives its flags to STAT; and released slots are free. -/
def Obligations.MatrixCommandsTakeEffect : Prop :=
  AddsBlocks gangDot ∧
  (∀ (acc : Nat) (k : DotBlock) (p : FVal), k.a.length = k.b.length → k.Sums p → (∀ x ∈ k.scaleA :: k.scaleB :: (k.a ++ k.b), x.isNan = false) → p.isNan = true →
    (gangDot acc [k]).flags &&& fxInvalid = fxInvalid) ∧
  (∀ (s : State) (pod slotA half slotB r n acc : Nat) (A B : Fmt),
    ((A ∈ [Fmt.bf16, .f16] ∧ B ∈ [Fmt.bf16, .f16]) ∨ (A.isNarrow = true ∧ B.isNarrow = true)) → r < 64 → n < 128 →
    let K := if A.isWide then 32 else 64
    let a := slotKey pod slotA
    let b := slotKey pod slotB
    ∃ blocks, s.gangElem pod A B slotA half slotB r n acc = gangDot acc blocks ∧ blocks.length = K / 16 ∧
      ∀ j < K / 16, ∃ d, blocks[j]? = some d ∧
        d.At A B (Memory.readLE s.mem (a + 4096 * half) 4096) (Memory.readLE s.mem b 8192) (A.width * (r * K + 16 * j)) (B.width * (n * K + 16 * j)) ∧
        d.scaleA = (if A.isWide then .num false 1 else val .sc (Memory.read s.mem (a + 8192 + 256 * half + 4 * r + j)).toNat) ∧
        d.scaleB = (if A.isWide then .num false 1 else val .sc (Memory.read s.mem (b + 8192 + 4 * n + j)).toNat)) ∧
  (∀ (s : State) (pod id : Nat) (c : MatCmd), let m := s.matrix pod
    (m.members = [] → (∀ e ∈ m.cmds, ∀ k, e.2.kind ≠ .zero k) → m.cmds.find? (fun e => !e.2.accepted) = some (id, c) → c.kind.isGang = false →
      c.edge ≤ s.now → ∃ s' q, exec (.matrixCommandAccept pod c.core) s = .next s' ∧ s'.mem = s.mem ∧
        SMap.find (s'.matrix pod).cmds id = some q ∧ q.accepted = true ∧ q.kind = c.kind ∧ q.core = c.core) ∧
    (∀ fa fb slotA half slotB banks A B, c.kind = .gang fa fb slotA half slotB banks →
      m.cmds.find? (fun e => e.2.kind.isGang && e.2.started && (match e.2.due with | some d => decide (d ≤ s.now) | none => false)) = some (id, c) →
      Fmt.ofCode fa = some A → Fmt.ofCode fb = some B → s.gangBadSlot pod A B slotA half slotB = none → banks.length = 8 → (∀ x ∈ banks, x.1 < 4) →
      ∃ s', exec (.gangComplete pod) s = .next s' ∧ SMap.find (s'.matrix pod).cmds id = none ∧
        ∀ sl bank z, banks[sl]? = some (bank, z) → (z = true ∨ ((m.bank sl bank).mark = none ∧ s.opBad (bankKey pod sl bank) 4096 = false)) →
          let elem := fun r col => s.gangElem pod A B slotA half slotB r (16 * sl + col) (if z then 0 else s.bankElem pod sl bank r col)
          (∀ r < 64, ∀ col < 16, s'.bankElem pod sl bank r col = (elem r col).code % 2 ^ 32) ∧
          ((s'.matrix pod).bank sl bank).mark = none ∧ ((s'.matrix pod).bank sl bank).flags = (m.bank sl bank).flags ||| (flagsUpTo 1024 (fun i => (elem (i / 16) (i % 16)).flags)).extractLsb' 16 5) ∧
    (∀ load slot half whole b32 ea counter due, SMap.find m.cmds id = some c → c.kind = .move load slot half whole b32 false ea counter →
      c.due = some due → due ≤ s.now → half < 2 → (whole = true → half = 0) → c.core < 8192 → slot < 256 → pod < 1024 → ea.toNat + imageLength whole b32 ≤ 262144 →
      s.badIn (sliceKey c.core ea.toNat) (imageLength whole b32) = none → c.failure = none →
      let data := if whole then 8192 else 4096
      let at' := sliceKey c.core ea.toNat
      let counts := fun s' : State => ∀ k, counter = some k → k < 16 → (s'.core c.core).counters[k]? = ((s.core c.core).counters[k]?).map (· + 1)
      (load = true → ∃ s', exec (.mloadComplete pod id) s = .next s' ∧ SMap.find (s'.matrix pod).cmds id = none ∧ counts s' ∧
        (∀ i < data, Memory.read s'.mem (slotKey pod slot + 4096 * half + i) = Memory.read s.mem (at' + i)) ∧
        (∀ i < data / 16, Memory.read s'.mem (slotKey pod slot + 8192 + 256 * half + i) = Memory.read s.mem (at' + data + (if b32 then i / 2 else i)))) ∧
      (load = false → b32 = false → ∃ s', exec (.mstoreComplete pod id) s = .next s' ∧ SMap.find (s'.matrix pod).cmds id = none ∧ counts s' ∧
        (∀ i < data, Memory.read s'.mem (at' + i) = Memory.read s.mem (slotKey pod slot + 4096 * half + i)) ∧
        (∀ i < data / 16, Memory.read s'.mem (at' + data + i) = Memory.read s.mem (slotKey pod slot + 8192 + 256 * half + i)))) ∧
    (∀ bank ea stride nr cmask scale due, SMap.find m.cmds id = some c → c.kind = .drain bank 0 false ea stride nr cmask scale → c.due = some due →
      due ≤ s.now → c.core < 8192 → s.opBad (bankKey pod (c.core % 8) bank) 4096 = false → (∀ x ∈ s.drainStores pod c.core bank ea stride nr cmask, x.1 + 4 ≤ 262144) →
      ∃ s', exec (.mdrainComplete pod id) s = .next s' ∧ SMap.find (s'.matrix pod).cmds id = none ∧
        s'.mem = storedMem s.mem c.core (s.drainStores pod c.core bank ea stride nr cmask) ∧
        (s'.core c.core).stat = (s.core c.core).stat ||| (((m.bank (c.core % 8) bank).flags.setWidth 64) <<< 16)) ∧
    (∀ slot n, SMap.find m.cmds id = some c → c.kind = .rel slot n → c.started = true →
      ∃ s', exec (.mrelFree pod id) s = .next s' ∧ SMap.find (s'.matrix pod).cmds id = none ∧ s'.mem = s.mem ∧
        ∀ i < n, (s'.matrix pod).slot (slot + i) = ⟨none, false⟩))

/-- R296 to R299, R306, R308: COPY puts its descriptor's order into its pod's queue and waits there; JTEST gives the result of the test of its handle two cycles later, and JWAIT too once that result is not 0 (for JWAIT, log 18); no byte of memory changes. -/
def Obligations.CopyInstructionsQueueAndTest : Prop :=
  ∀ (s : State) (t : Nat) (o : Opnd), let c := s.coreAt t
    (∀ tail : TailD, s.Issues sigCopy (opndD tail) t o → let ea := (c.addressD o tail).toNat
      s.MayAccess t false 64 [(ea, 64)] → ∃ s', exec (.copy tail) s = .next s' ∧ s.Stays t (.sleeping .copy) s' ∧
        (s'.copyUnit s.curPod).waiting = (s.copyUnit s.curPod).waiting.filter (fun x => x.core != s.cur) ++
          [⟨s.cur, Memory.readBytes s.mem (sliceKey s.cur ea) 64, o.m.toNat % 8, o.c.toNat % 16, o.c.getLsbD 4,
            o.m.getLsbD 4, o.m.getLsbD 3, c.phys o.d, c.clock.vec.edge (c.clock.vec.index (max s.now t) + 2)⟩] ∧
        ∃ due, s'.Posted due (.copyAccept s.curPod)) ∧
    (∀ f ∈ [(Instr.jtest, 0xB01#12, false), (Instr.jwait, 0xB02#12, true)], ∀ tail : TailW, s.Issues (sigJtest f.2.1) (opndW tail) t o →
      let r := (s.copyUnit s.curPod).test (c.readG o.a)
      let due := max s.now t + 2 * c.clock.pipePeriod
      (r = 0 → f.2.2 = true → ∃ s', exec (f.1 tail) s = .next s' ∧ s.Stays t (.sleeping .condition) s') ∧
      ((r = 0 → f.2.2 = false) → s.Straight c s.mem → ∃ s', exec (f.1 tail) s = .next s' ∧
        s.Completes t { s with agenda := insertTurn ⟨due, s.cur, .event (.varResultArrival s.cur c.varNext)⟩ s.agenda }
          { c with
            var := c.var ++ [⟨c.varNext, .at due, [o.d].filterMap c.phys, [], [.gen (c.phys o.d) (BitVec.ofNat 64 r)], false⟩]
            varNext := c.varNext + 1, memReady := if r % 256 = 1 then max c.memReady due else c.memReady } s'))

/-- R296, R299, R303 to R307, R466: the copy unit accepts the first waiting COPY into its lowest free entry, starts its next job with the descriptor's check, sends the writes whose data has arrived, takes in the responses of a piece, and completes a job with its counters, its status, its generation and its message; a device status other than 0 fails a storage job, and a controller's block lands in memory. The time of a handle whose COPY has waited, and that a write whose data is there goes before the next read, are the model's choices (log 27), as is the place of the completion doorbell (log 51). -/
def Obligations.CopyJobsRunAndComplete : Prop :=
  ∀ (s : State) (pod e : Nat), let u := s.copyUnit pod
    let x := u.entry e
    (∀ (i : Nat) (o : CopyOrder), let c := s.core o.core
      let rs := s.copyRanges o e
      (∀ q ∈ u.jobs, q.2.recorded = true) → e < 64 → x.job = none → (∀ k < e, (u.entry k).job ≠ none) →
      cyclicFirst 8 u.aptr (fun i => u.waiting.any (fun o => o.core % 8 = i)) = some i → u.waiting.find? (fun o => o.core % 8 = i) = some o →
      c.ranges.length + rs.length ≤ 16 → c.run = .sleeping .copy → (∀ p, s.partOf c = some p → s.traces p 1 = false) →
      (c.advance (s.lastHead o.core)).back = false →
      ∃ s' q, exec (.copyAccept pod) s = .next s' ∧ s'.mem = s.mem ∧ (∀ m, m ≠ o.core → s'.core m = s.core m) ∧
        (s'.copyUnit pod).waiting = u.waiting.filter (fun x => x.core != o.core) ∧ (s'.copyUnit pod).aptr = i ∧
        ((s'.copyUnit pod).entry e).job = some q ∧ q.order = o ∧ q.stage = .queued ∧ q.recorded = true ∧
        (s'.core o.core).ranges = c.ranges ++ rs ∧ (s'.core o.core).run = .running ∧ (s'.core o.core).pc = (c.advance (s.lastHead o.core)).next ∧
        (s'.core o.core).var = c.var ++ [⟨c.varNext, .at (max o.due (c.clock.vec.ceil s.now)), o.dst.toList, [],
          [.gen o.dst (jobHandle x.gen e)], false⟩]) ∧
    (∀ (i : Nat) (j : CopyJob), (u.entries.map Prod.fst).Pairwise (· < ·) → (∀ q ∈ u.jobs, ∀ k, q.2.stage ≠ .posting k) → u.active < 4 →
      s.copyHeld pod < 8 → s.podStopping pod = false → s.nextJob pod = some (i, e, j) → s.copyRegion j.order = none →
      ∃ s' q, exec (.copyJobStart pod) s = .next s' ∧ s'.mem = s.mem ∧ s'.cores = s.cores ∧ ((s'.copyUnit pod).entry e).job = some q ∧
        q.order = j.order ∧ q.stage = .active ∧ q.failure = match s.copyError j.order with | some x => some (0x19, x, 0) | none => j.failure) ∧
    (∀ (j : CopyJob) (p : Nat) (rest : List Nat) (y : CopyPiece), x.job = some j → s.copyCredit pod = true →
      cyclicFirst 64 u.iptr (fun i => (u.jobs.filter (fun q => s.mayRequest q.2)).any (fun q => q.1 = i)) = some e →
      j.order.form ≠ 3 → j.order.form ≠ 4 → j.ready = p :: rest → SMap.find j.pieces p = some y → badAddress false y.dst = false →
      ∃ s' q, exec (.copyRequestIssue pod) s = .next s' ∧ s'.mem = s.mem ∧ ((s'.copyUnit pod).entry e).job = some q ∧ q.ready = rest ∧
        q.out = j.out + 1 ∧ (s'.copyUnit pod).iptr = e ∧
        s'.HasRequest s.nextId (engineReq j.order.core (.copy pod e p 0 true) (.store y.bytes y.value) y.dst true) .sent) ∧
    (∀ (j : CopyJob) (p id off : Nat) (write : Bool) (a : Answer) (y : CopyPiece) (r : Req), x.job = some j → SMap.find j.pieces p = some y →
      s.reqs = [(id, r)] → r.client = .copy pod e p off write → r.stage = .returned a → (∀ q, s.partOf (s.core j.order.core) = some q → s.traces q 1 = false) →
      ∃ s' q, exec (.copyPieceWrite pod e p) s = .next s' ∧ s'.mem = s.mem ∧ s'.reqs = [] ∧ ((s'.copyUnit pod).entry e).job = some q ∧
        q.out = j.out - 1 ∧
        (∀ v st, a = .ok v st → write = true → q.written = j.written + y.bytes ∧ q.flags = j.flags ||| st) ∧
        (∀ v st, a = .ok v st → write = false → SMap.find q.pieces p = some { y with value := y.value + v * 256 ^ off, left := y.left - 1 } ∧
          q.ready = if y.left - 1 = 0 ∧ j.failure = none then j.ready ++ [p] else j.ready) ∧
        (∀ code qual, a = .fail code qual → q.ready = [] ∧ q.reads = [] ∧ q.cursor = none ∧
          q.failure = match j.failure with | some f => some f | none => some (code, qual, if write then 2 else 1))) ∧
    (∀ j : CopyJob, x.job = some j → j.stage = .active → j.recorded = true → (∀ q ∈ u.jobs, ∀ k, q.2.stage ≠ .posting k) → s.copyHeld pod < 8 →
      (j.order.dcnt = false) → j.region = none → (∀ q, s.partOf (s.core j.order.core) = some q → s.traces q 1 = false) →
      let c := s.core j.order.core
      ∃ s', exec (.copyJobComplete pod e) s = .next s' ∧ s'.mem = s.mem ∧
        ((s'.copyUnit pod).entry e) = ⟨(x.gen + 1) % 2 ^ 24, (j.failure.map Prod.fst).getD 0, none⟩ ∧
        (s'.core j.order.core).ranges = c.ranges.filter (fun r => r.owner != e) ∧
        (s'.core j.order.core).counters = (if j.order.cen then c.counters.setIfInBounds j.order.n (c.counters[j.order.n]?.getD 0 + 1) else c.counters) ∧
        (j.order.quiet = false → ∃ id, SMap.find s'.mail id = some ⟨j.order.core, copySender pod, s.copyMessage e x j, false⟩)) ∧
    (∀ (j : CopyJob) (status : BitVec 16), x.job = some j → j.stage = .active → j.command = true → j.order.form = 4 → j.device = none → j.failure = none →
      status ≠ 0 → (∀ n l, s.launchOf j.order.core = some (n, l) → l.replay = false ∧ l.flag 1 = false) → ∃ s' q, exec (.nvmeCompletion pod e status) s = .next s' ∧
        (let bell := hostKey ((s.storageWord (j.order.u 48 2) 24).toNat % 2 ^ 60)
         ∀ key, key < bell ∨ bell + 4 ≤ key → Memory.read s'.mem key = Memory.read s.mem key) ∧ ((s'.copyUnit pod).entry e).job = some q ∧
        q.device = some status ∧ q.failure = some (0x19, 0x07, 3) ∧ s'.Posted s.now (.copyJobComplete pod e)) ∧
    (∀ (j : CopyJob) (block : Nat) (data : List Byte) (w : State), x.job = some j → j.stage = .active → j.command = true → j.order.form = 4 → j.device = none →
      let size := s.blockSize (j.order.u 48 2)
      block * size < j.order.len → data.length = size →
      s.unitWrite (j.order.core / 1024) (s.vfOf j.order.core) (s.partOf (s.core j.order.core)) (BitVec.ofNat 64 (j.order.dest + block * size)) size (leValue data) none (some j.order.core) = (none, w) →
      ∃ s' q, exec (.bar2PeerWrite pod e block data) s = .next s' ∧ s'.mem = w.mem ∧ ((s'.copyUnit pod).entry e).job = some q ∧
        SMap.find q.blocks block = some data ∧ q.written = if (SMap.find j.blocks block).isSome then j.written else j.written + size)

/-- R347 to R354: BOARD arms its context for a run of its own slots and faults on a run that leaves the engine's slots; the arming takes effect 16 network cycles after its edge; BSTAT reads the context or reports its corruption; an armed context catches the first frame of its segment at its station; and the tap writes a wanted good frame into its slot, counts it and bumps the counter, or marks the slot of a bad one. -/
def Obligations.BoardingCatchesFrames : Prop :=
  (∀ (s : State) (t : Nat) (o : Opnd), let c := s.coreAt t
    (∀ tail : TailD, s.Issues sigBoard (opndD tail) t o →
      let x := c.readG o.b
      let n := tail.imm.toNat
      let slot := bitsOf x 7 0
      let k := 2 * s.cur + o.m.toNat % 2
      let due := s.net.ceil (max s.now t) + 16 * s.netPeriod
      ((bitsOf x 63 8 ≠ 0 ∨ 256 < slot + n) → c.hm = false → ∃ s', exec (.board tail) s = .next s' ∧ s.TrapsAt t ⟨0x15, 0x01, x⟩ s') ∧
      (bitsOf x 63 8 = 0 → slot + n ≤ 256 →
        (∀ i < n, ((s.matrix s.curPod).slot (slot + i)).claim = some (s.cur % 8) ∧ s.boarded s.curPod (some k) (slot + i) = false) →
        ((s.ctx k).state = 2 → ∃ s', exec (.board tail) s = .next s' ∧ s.Stays t (s.core s.cur).run s' ∧ s'.ring = s.ring) ∧
        ((s.ctx k).state ≠ 2 → s.Straight c s.mem → ∃ s', exec (.board tail) s = .next s' ∧ s.Completes t s' c s' ∧ s'.mem = s.mem ∧
          s'.Posted due (.boardArmEffect s.curPod (k % 16)) ∧
          s'.ctx k = { BoardCtx.idle with
            layer := bitsOf (c.readG o.a) 15 0, f0 := bitsOf (c.readG o.a) 39 16, n := n, slot := slot, counter := o.c.toNat
            auto := o.m.getLsbD 1, state := 1, effectAt := due }))) ∧
    (∀ tail : TailW, s.Issues sigBstat (opndW tail) t o →
      let x := o.m.toNat % 2
      let due := max s.now t + 4 * c.clock.pipePeriod
      (∀ r, s.corruptMark s.cur x = some r → c.hm = false → ∃ s', exec (.bstat tail) s = .next s' ∧ s.TrapsAt t r s') ∧
      (s.corruptMark s.cur x = none → s.Straight c s.mem → ∃ s', exec (.bstat tail) s = .next s' ∧
        s.Completes t { s with agenda := insertTurn ⟨due, s.cur, .event (.varResultArrival s.cur c.varNext)⟩ s.agenda }
          { c with
            var := c.var ++ [⟨c.varNext, .at due, [o.d].filterMap c.phys, [], [.gen (c.phys o.d) (s.ctx (2 * s.cur + x)).status], false⟩]
            varNext := c.varNext + 1 } s'))) ∧
  (∀ (s : State) (pod i : Nat), i < 16 → let k := 16 * pod + i
    let x := s.ctx k
    x.state = 1 → x.effectAt ≤ s.now → x.effectLap = none →
    ∃ s', exec (.boardArmEffect pod i) s = .next s' ∧ s'.mem = s.mem ∧
      s'.ctx k = { x with effectLap := some ((if s.ring.inLap then s.ring.laps - 1 else s.ring.laps) % 2 ^ 32) }) ∧
  (∀ (s : State) (station k no n crc : Nat) (x : BoardCtx) (f : RingFrame) (l : Launch), station < 8 → s.ring.arrived[station]? = some no →
    SMap.find s.ring.frames no = some f → f.head = f.want.header crc → let w := f.want
    w.seg.layer < 65536 → w.seg.count < 2 ^ 24 → w.findex = 0 →
    s.ring.ctxs = [(k, x)] → k / 2048 = station → x.state = 1 → x.effectAt ≤ s.now → x.fromLap ≤ w.lap → x.layer = w.seg.layer →
    bitsOf (s.core (k / 2)).part 55 48 = w.seg.pid.toNat → s.launchOf (k / 2) = some (n, l) → l.replay = false → l.flag 1 = false →
    (∀ p, s.partOf (s.core (k / 2)) = some p → (s.partition p).stopped = false) →
    ∃ s', exec (.segmentHeaderArrival station 0) s = .next s' ∧ s'.mem = s.mem ∧ s'.ring.arrived[station]? = some (no + 1) ∧
      (s'.ctx k).state = 2 ∧ (s'.ctx k).base = no ∧ (s'.ctx k).count = w.seg.count ∧ (s'.ctx k).lap = w.lap % 2 ^ 32 ∧ (s'.ctx k).fmtc = w.seg.fmtc ∧
      (∀ e, x.effectLap = some e → let later := (w.lap + 2 ^ 32 - e % 2 ^ 32) % 2 ^ 32
        ((s'.ctx k).missed = true ↔ 0 < later ∧ later < 2 ^ 31)) ∧
      (x.f0 = 0 → 0 < x.n → 0 < w.seg.count → s'.Posted (s.now + 14 * s.netPeriod) (.tapFrameAct (k / 16) (k % 16) 0))) ∧
  (∀ (s : State) (pod i no : Nat) (rest : List (Nat × Bool)) (f : RingFrame), i < 16 → let k := 16 * pod + i
    let x := s.ctx k
    let slot := x.slot + (no - x.base - x.f0)
    x.acts = (no, true) :: rest → x.wants (no - x.base) = true → SMap.find s.ring.frames no = some f →
    (∀ n l, s.launchOf (k / 2) = some (n, l) → l.replay = false ∧ l.flag 1 = false) →
    (crc32c f.bytes = fieldAt f.head 24 4 → f.bytes.length = 8704 → ∃ s', exec (.tapFrameAct pod i 0) s = .next s' ∧
      (∀ j < 8704, f.bytes[j]? = some (Memory.read s'.mem (slotKey pod slot + j))) ∧
      (∀ key, key < slotKey pod slot ∨ slotKey pod slot + 8704 ≤ key → Memory.read s'.mem key = Memory.read s.mem key) ∧
      ((s'.matrix pod).slot slot).err = false ∧ (s'.ctx k).written = x.written + 1 ∧
      (s'.core (k / 2)).counters = (s.core (k / 2)).counters.setIfInBounds x.counter ((s.core (k / 2)).counters[x.counter]?.getD 0 + 1)) ∧
    (∀ flips, crc32c (flipped f.bytes flips) ≠ fieldAt f.head 24 4 → ∃ s', exec (.tapFrameAct pod i flips) s = .next s' ∧ s'.mem = s.mem ∧ s'.cores = s.cores ∧ ((s'.matrix pod).slot slot).err = true ∧
      (no - x.base, false) ∈ (s'.ctx k).bad))

/-- R341, R342, R344, R345: a feeder's read makes a frame with its header and its CRCs, which is then ready at the stations; a lap starts with the image, RINGCTL and counts of its start, once the ring stands at an edge and station 0 has the first frame, and an empty image ends the laps; and a frame injected reaches station d 8d network cycles later, the next following three cycles behind. -/
def Obligations.LapsAndFramesRun : Prop :=
  ∀ s : State, let r := s.ring
    (∀ (die : Nat) (w : FeedWant) (f : RingFrame), SMap.find r.reads die = some ⟨w, some f, none⟩ → s.feedWant die = some w →
      ∃ s', exec (.feederFrameDelivery die) s = .next s' ∧ s'.mem = s.mem ∧ SMap.find s'.ring.fed die = some f) ∧
    (∀ (die : Nat) (w : FeedWant) (old : Option (Byte × Byte)) (bs : List Byte) (s1 : State), SMap.find r.reads die = some ⟨w, none, old⟩ →
      s.unitReadRun die (s.part w.seg.part).vf (some w.seg.part) (w.seg.addr + BitVec.ofNat 64 (8704 * w.findex)) 136 = (.ok bs, s1) → s1.ring = r →
      ∃ f : RingFrame, SMap.find (s.feedRead die).ring.reads die = some ⟨w, some f, none⟩ ∧ f.want = w ∧ f.bytes = bs ∧ f.head.length = 64 ∧
        fieldAt f.head 0 4 = 0x474E4952 ∧ fieldAt f.head 24 4 = crc32c bs ∧ fieldAt f.head 28 4 = crc32c (f.head.take 28)) ∧
    (s.net.on s.now = true → r.nextAt ≤ s.now → (r.inLap = true → r.ctl.getLsbD 32 = true → r.lapDue ≤ s.now) →
      (r.inLap = true → imageFrames r.image ≤ r.next) →
      (s.lapImage = [] → r.inLap = true → ∃ s', exec .lapStart s = .next s' ∧ s'.mem = s.mem ∧ s'.ring.inLap = false ∧ s'.ring.laps = r.laps) ∧
      (∀ w, s.lapImage ≠ [] → s.feedWant 0 = some w → s.fedReady 0 w = true → w.findex = 0 → w.segIdx = 0 →
        ∃ s', exec .lapStart s = .next s' ∧ s'.ring.inLap = true ∧ s'.ring.laps = r.laps + 1 ∧ s'.ring.next = 0 ∧ s'.ring.image = s.lapImage ∧
          s'.ring.ctl = s.reg 0x108 ∧ s'.ring.lapDue = s.now + bitsOf (s.reg 0x108) 31 0 * s.netPeriod ∧ s'.Posted s.now .frameInject)) ∧
    (∀ (w : FeedWant) (f : RingFrame), s.net.on s.now = true → r.nextAt ≤ s.now → r.inLap = true → s.feedWant (r.next % 8) = some w →
      SMap.find r.fed (r.next % 8) = some f → w.lap = r.laps - 1 → w.frame = r.next → s.fedReady (r.next % 8) w = true →
      ∃ s', exec .frameInject s = .next s' ∧ s'.mem = s.mem ∧ s'.ring.next = r.next + 1 ∧ s'.ring.injected = r.injected + 1 ∧
        s'.ring.nextAt = s.now + 3 * s.netPeriod ∧ SMap.find s'.ring.frames r.injected = some f ∧ s'.ring.arrived = r.arrived ∧
        ∀ d < 8, s'.Posted (s.now + 8 * d * s.netPeriod) (.segmentHeaderArrival d 0))

/-- R187, R190, R191, R384, R386, R387, R392, R393: the walker hands out its own points in chunks, passing over what the pattern leaves out; COVQ.next takes the next point's identifier as result and WID, or all ones; .rank, .info and .keep tell of the walker and the pattern; and the Axolotl run writes the stream's state, with the mean relative error and the next rung, and is done. -/
def Obligations.CoverageWalksAndMeasures : Prop :=
  (∀ (l : Launch) (w : Walker) (r fuel : Nat), w.rank = some r →
    (l.points ≤ w.next → Walker.take l (fuel + 1) w = ⟨w, none, none⟩) ∧
    (w.next < l.points →
      let w' := { w with next := if (w.next + 1) % l.chunk = 0 then w.next + 1 + (w.count - 1) * l.chunk else w.next + 1 }
      (l.kept (l.idOf w.next) = true → Walker.take l (fuel + 1) w = ⟨{ w' with taken := w.taken + 1, last := some w.next, lastKind := .plain }, some w.next, none⟩) ∧
      (l.kept (l.idOf w.next) = false → l.every = 0 →
        Walker.take l (fuel + 1) w = Walker.take l fuel { w' with skipIdx := w.skipIdx + 1, skipped := w.skipped + 1 }))) ∧
  (∀ (s : State) (t : Nat) (o : Opnd) (tail : TailW), let c := s.coreAt t
    let due := max s.now t + 2 * c.clock.pipePeriod
    let gives := fun (k : Core) (v : Word) (more : List Dest) (s' : State) =>
      s.Completes t s' { k with var := c.var ++ [⟨c.varNext, .at due, [o.d].filterMap c.phys, [], [.gen (c.phys o.d) v] ++ more, false⟩], varNext := c.varNext + 1 } s' ∧
        s'.Posted due (.varResultArrival s.cur c.varNext)
    (s.Issues (sigCovq false) (opndW tail) t o → s.Straight c s.mem →
      (let x := fun l => Walker.take l (l.points + 1) c.walkerDue
       let gone := 0xFFFF_FFFF_FFFF_FFFF
       (s.launchOf s.cur = none → ∃ s', exec (.covqNext tail) s = .next s' ∧ s'.mem = s.mem ∧ gives c gone [.walker c.walkerDue gone] s') ∧
       (∀ n l, s.launchOf s.cur = some (n, l) →
        ((x l).point = none → ∃ s', exec (.covqNext tail) s = .next s' ∧ s'.mem = s.mem ∧
          gives c gone [.walker { (x l).walker with last := none, lastKind := .none } gone] s') ∧
        (∀ p, (x l).point = some p → let id := BitVec.ofNat 64 (l.idOf p)
          ∃ s', exec (.covqNext tail) s = .next s' ∧ ((x l).slot = none → s'.mem = s.mem) ∧ gives c id [.walker (x l).walker id] s'))) ∧
      (∃ s', exec (.covqRank tail) s = .next s' ∧ s'.mem = s.mem ∧
        gives c (BitVec.ofNat 64 (c.walker.count * 2 ^ 32 + (match c.walker.rank with | some r => r | none => 2 ^ 32 - 1))) [] s') ∧
      (∃ s', exec (.covqInfo tail) s = .next s' ∧ s'.mem = s.mem ∧
        gives c (match s.launchOf s.cur, c.walkerDue.lastKind, c.walkerDue.rank with
          | some (_, l), .sample k, some r => BitVec.ofNat 64 (2 ^ 63 + (BitVec.ofNat 64 (l.cov 32 8 + 16 * (r + c.walkerDue.count * k)) + 8).toNat % 2 ^ 48)
          | _, _, _ => 0) [] s')) ∧
    (s.Issues (sigCovq true) (opndW tail) t o → s.Straight c s.mem →
      ∃ s', exec (.covqKeep tail) s = .next s' ∧ s'.mem = s.mem ∧
        gives c (match s.launchOf s.cur with | some (_, l) => if l.kept (c.readG o.a).toNat then 1 else 0 | none => 1) [] s')) ∧
  (∀ (s s1 : State) (n : Nat) (l : Launch), SMap.find s.launches n = some l → l.stage = .draining → l.flag 2 = true → l.axolotlDone = false → l.replay = false →
    s.allRetired n l = true → s.quiet n l = true → s.Unbudgeted l.part → let rs := s.axResults l
    let errors := rs.flatMap (·.errors)
    rs.foldl (fun (a : Bool × State) r => let x := a.2.axWrite l r.writes; (a.1 && x.1, x.2)) (true, s.readRuns l (s.axReads l)) = (true, s1) → (∀ r ∈ rs, r.failed = false) →
    let err := if errors = [] then 0xFFFF_FFFF else (65536 * errors.foldl (· + ·) 0 / ((errors.length : Nat) : Rat)).floor.toNat
    let target := l.cov 8 4
    let rung := if l.flag 0 = true ∨ errors = [] ∨ s1.statusOf n { l with axolotlDone := true } ≠ 0 then l.rung
      else if 5 * target < 4 * err then l.rung - 1 else if 2 * err < target then min (l.rung + 1) (l.cov 0 1 - 1) else l.rung
    let bytes := bytesOf 1 rung ++ bytesOf 1 l.rung ++ bytesOf 2 0 ++ bytesOf 4 err ++ bytesOf 4 errors.length ++ bytesOf 4 0
    let u := s1.unitWrite (s.part l.part).die (s.part l.part).vf (some l.part) (BitVec.ofNat 64 (l.cov 40 8)) 16 (leValue bytes)
    l.axolotlFailed = false → s1.parts = s.parts →
    ∃ s' l', exec (.axolotlRun n) s = .next s' ∧ s'.mem = u.2.mem ∧ SMap.find s'.launches n = some l' ∧ l'.axolotlDone = true ∧
      l'.axolotlFailed = u.1.isSome ∧ s'.Posted s.now (.launchCompletion n))

/-- R178 to R182, R184, R193, R463, R464: a doorbell within the queue's size moves TAIL; a block fetched moves HEAD and enters as a waiting launch, or completes with its refusal; a launch that may start does, and its wake message goes out; the message clears and wakes the cores of its super-group; an image arrives in its core's slice; a core with its tree served starts at ENTRY; and a launch at rest completes with its STATUS. CYC and REFT count from the wake (log 25), and an image is read from its container when it arrives (log 33). -/
def Obligations.LaunchesStartAndComplete : Prop :=
  (∀ (s : State) (vf queue q : Nat) (value : Word), (s.queuesOf vf)[queue]? = some q → let e := s.queueEntry q
    let t := bitsOf value 31 0
    ((t + 2 ^ 32 - e.head) % 2 ^ 32 ≤ 2 ^ e.log2n → ∃ s', exec (.workQueueDoorbell vf queue value) s = .next s' ∧ s'.mem = s.mem ∧ s'.cores = s.cores ∧
      (s'.queueEntry q).tail = t ∧ (s'.queueEntry q).head = e.head ∧ (t ≠ e.head → ∃ due, s'.Posted due (.launchBlockFetch q))) ∧
    (2 ^ e.log2n < (t + 2 ^ 32 - e.head) % 2 ^ 32 → exec (.workQueueDoorbell vf queue value) s = .next s)) ∧
  (∀ (s : State) (q : Nat), let e := s.queueEntry q
    let part := ((s.parts.find? (fun p => p.2.valid && p.2.pid == e.pid && p.2.vf == e.vf)).map Prod.fst).getD 128
    let block := Memory.readBytes s.mem (hostKey (e.base + 128 * (e.head % 2 ^ e.log2n))) 128
    let s1 := s.setQueue q (e.head + 1) e.tail
    let n := SMap.fresh s.launches
    e.valid = true → e.head ≠ e.tail → part < 128 → s.Unbudgeted part →
    (∀ l, s1.checkLaunch (Launch.fresh block part e.vf q false) = (0, l) → ∃ s', exec (.launchBlockFetch q) s = .next s' ∧ s'.mem = (s1.readRuns l (State.checkRuns l)).mem ∧
      SMap.find s'.launches n = some l ∧ (s'.queueEntry q).head = (e.head + 1) % 2 ^ 32) ∧
    (∀ k l, s1.checkLaunch (Launch.fresh block part e.vf q false) = (k, l) → k ≠ 0 → ∃ s' l', exec (.launchBlockFetch q) s = .next s' ∧
      SMap.find s'.launches n = some l' ∧ l'.stage = .completed (BitVec.ofNat 8 k))) ∧
  (∀ (s : State) (n : Nat) (l : Launch), SMap.find s.launches n = some l →
    (l.stage = .waiting → s.mayStart n l = true → ∃ s' l', exec (.launchStart n) s = .next s' ∧ SMap.find s'.launches n = some l' ∧ l'.stage = .started ∧
      l'.startedAt = s.now ∧ ∃ id p, SMap.find s'.packets id = some p ∧ p.body = .wake n ∧ p.vc = 3) ∧
    (∀ router < 128, l.stage = .started → (∀ k ∈ s.rangeCores l, k / 64 = router → s.inLaunch n k = false) →
      ∃ s', exec (.wakeMessage n router) s = .next s' ∧ SMap.find s'.launches n = some l ∧
      ∀ k ∈ s.rangeCores l, k / 64 = router →
        let p := s.partition l.part
        let vec : Grid := ⟨p.vecBase, periodOf p.vec⟩
        s'.core k = { Core.unlisted k with
          part := s.partReg l.part k, clock := ⟨s.now, 0, 0, 0, vec, vec, true⟩, ready := s.now, run := .booting, launch := some n
          grantPend := !l.replay && l.noticeSeq == some s.chameleon.seq && !(s.chameleon.settled && p.grantSeq == s.chameleon.seq)
          walker := s.freshWalker l k, grantReplay := l.replayGrant }) ∧
    (∀ k h, l.header (s.roleOfCore l k) = some h → s.inLaunch n k = true → (s.core k).run = .booting → s.parentOf l k = none → s.Unbudgeted l.part →
      let bytes := s.containerImage l h
      ∃ s', exec (.bootImageArrival n k) s = .next s' ∧ s'.mem = Memory.writeBytes (s.readRuns l (imageRuns l h)).mem (sliceKey k 0) bytes ∧
        s'.core k = { s.core k with run := .ready } ∧ (∀ m, m ≠ k → s'.core m = s.core m) ∧
        (s'.childrenOf l k = [] → s'.Posted s.now .coreStart)) ∧
    (∀ h, s.launchOf s.cur = some (n, l) → l.header (s.roleOfCore l s.cur) = some h → (s.core s.cur).run = .ready →
      s.forwarded n (s.childrenOf l s.cur) = true → let c := s.core s.cur
      ∃ s', exec .coreStart s = .next s' ∧ s'.outside = s.outside ∧ (∀ m, m ≠ s.cur → s'.core m = s.core m) ∧
        { s'.core s.cur with fbuf := [], fetchFree := 0 } = { c with
          fbuf := [], fetchFree := 0, tvec := BitVec.ofNat 64 h.tvec &&& 0x3_FFC0, wstk := BitVec.ofNat 64 h.wstk &&& 0x3_FFF8, rasb := BitVec.ofNat 64 h.rasb &&& 0x3_FFF8
          pc := h.entry, run := .running, ready := c.clock.pipe.ceil s.now }) ∧
    ((l.stage = .started ∨ l.stage = .draining) → s.allRetired n l = true →
      (s.quiet n l = true → l.flag 2 = false → l.replay = false → s.Unbudgeted l.part → ∃ s' l', exec (.launchCompletion n) s = .next s' ∧
        SMap.find s'.launches n = some l' ∧ l'.stage = .completed (s.statusOf n l)) ∧
      (s.quiet n l = false → ∃ s' l', exec (.launchCompletion n) s = .next s' ∧ s'.mem = s.mem ∧ SMap.find s'.launches n = some l' ∧ l'.stage = .draining)))

/-- R198 to R212: a unit of a live launch starts its sequencer, which feeds a mask of its own, ends at END and stops at a malformed record; a mask all of whose members wait fires, and reports to the unit above, 4 or 16 network cycles later where no packet is on its way (log 13), or has its release 2, 12 or 40 network cycles later; a report is assigned to the oldest mask that lacks it; a release lets every waiting core of a level-0 mask go on with SSC counted up, into an exchange phase if the mask asks for it; and cores that belong to no mask fault when the stream has ended or the watchdog has counted its limit. -/
def Obligations.BarriersFireAndRelease : Prop :=
  ∀ (s : State) (n unit : Nat) (l : Launch), s.liveLaunch n = some l → unit < 256 →
    (∀ level < 3, let c := s.unitOf n level unit
      (c.started = false → ∃ s', exec (.chorusStart n level unit) s = .next s' ∧ s'.mem = s.mem ∧ s'.cores = s.cores ∧
        s'.unitOf n level unit = { Chorus.empty with started := true, incoming := c.incoming, loose := c.loose } ∧
        s'.Posted (s.netEdgeAfter s.now) (.chorusRecordRead n level unit)) ∧
      (let s1 := s.readRuns l [(BitVec.ofNat 64 (l.field 16 8 + (l.stream.1 + 16 * c.pos)), 16)]
       ∀ r, c.started = true → c.done = none → c.hold = none → s.Unbudgeted l.part → s1.streamRecord l c.pos = some r →
        (natBits r 127 120 = 1 → s1.goodMask l r = true → level = 0 → natBits r 73 72 = 0 → (s.part l.part).unitAt 0 (natBits r 71 64) = some unit →
          c.buf.length < 64 → ∃ s', exec (.chorusRecordRead n level unit) s = .next s' ∧ s'.mem = s1.mem ∧ s'.cores = s.cores ∧
            (s'.unitOf n level unit).buf = c.buf ++ [⟨c.expanded, BitVec.ofNat 64 r, r.testBit 80, r.testBit 81, r.testBit 82, r.testBit 83, .unfired, []⟩] ∧
            s'.Posted s.now (.maskFire n level unit c.expanded)) ∧
        (natBits r 127 120 = 3 → natBits r 119 0 = 0 → ∃ s', exec (.chorusRecordRead n level unit) s = .next s' ∧ s'.mem = s1.mem ∧
          (s'.unitOf n level unit).done = some (0, 16 * c.pos)) ∧
        (natBits r 127 120 = 0 ∨ 3 < natBits r 127 120 → ∃ s', exec (.chorusRecordRead n level unit) s = .next s' ∧ s'.mem = s1.mem ∧
          (s'.unitOf n level unit).done = some (2, 16 * c.pos))) ∧
      (∀ idx m, s.maskAt n level unit idx = some m → s.canFire n level unit m = true →
        (m.up = false → ∃ s' id, exec (.maskFire n level unit idx) s = .next s' ∧ s'.mem = s.mem ∧ s'.cores = s.cores ∧
          SMap.find s'.releases id = some ⟨n, level, unit, m.idx⟩ ∧
          s'.Posted (s.now + (if level = 0 then 2 else if level = 1 then 12 else 40) * s.netPeriod) (.chorusRelease id)) ∧
        (m.up = true → level < 2 → let above := if level = 0 then unit / 16 else 0
          ∃ s' wait, exec (.maskFire n level unit idx) s = .next s' ∧ s'.mem = s.mem ∧ s'.cores = s.cores ∧ (s.packets = [] → wait = 0) ∧
            (s'.unitOf n (level + 1) above).incoming = (s.unitOf n (level + 1) above).incoming ++ [(unit, m.idx)] ∧
            s'.Posted (s.now + ((if level = 0 then 4 else 16) + wait) * s.netPeriod) (.chorusReportArrival n (level + 1) above unit))) ∧
      (∀ r m, c.incoming.find? (fun x => x.1 = r.1) = some r → c.loose = [] →
        c.buf.find? (fun m => m.hasSender r.1 && !m.reports.any (fun x => x.1 = r.1)) = some m →
        ∃ s', exec (.chorusReportArrival n level unit r.1) s = .next s' ∧ s'.mem = s.mem ∧ s'.cores = s.cores ∧
          (s'.unitOf n level unit).loose = [] ∧ (s'.unitOf n level unit).incoming = c.incoming.eraseP (fun x => x.1 = r.1) ∧
          (s'.unitOf n level unit).buf = c.buf.map (fun x => if x.idx = m.idx then { x with reports := x.reports ++ [r] } else x))) ∧
    (∀ id idx m, SMap.find s.releases id = some ⟨n, 0, unit, idx⟩ → SMap.find s.launches n = some l → s.maskAt n 0 unit idx = some m →
      m.ratio = false → m.yields = false → l.replay = false →
      (∀ k ∈ m.cores unit, let c := s.core k
        (∃ w, c.run = .waiting w) ∧ c.hm = false ∧ (c.advance (s.lastHead k)).back = false) →
      ∃ s', exec (.chorusRelease id) s = .next s' ∧ s'.mem = s.mem ∧ SMap.find s'.releases id = none ∧ (s'.unitOf n 0 unit).buf = (s.unitOf n 0 unit).buf.filter (fun x => x.idx != m.idx) ∧
        (∀ k, k ∉ m.cores unit → s'.core k = s.core k) ∧
        ∀ k ∈ m.cores unit, let c := s.core k
          (s'.core k).ssc = c.ssc + 1 ∧ (s'.core k).run = .running ∧ (s'.core k).pc = (c.advance (s.lastHead k)).next ∧
            (m.exch = true → (s'.core k).xm = true ∧ (s'.core k).phase = some s.now) ∧ (m.exch = false → (s'.core k).xm = c.xm)) ∧
    (∀ r : Raise, (∀ k ∈ s.strays n unit, (s.core k).hm = false ∧ (s.core k).runStart = none) →
      (∀ q point, (s.unitOf n 0 unit).done = some (q, point) → r = ⟨0x11, q, BitVec.ofNat 64 point⟩ →
        ∃ s', exec (.orphanWait n 0 unit) s = .next s' ∧ s'.mem = s.mem ∧ (∀ k, k ∉ s.strays n unit → s'.core k = s.core k) ∧
          ∀ k ∈ s.strays n unit, (s.core k).EnteredFor r (s'.core k)) ∧
      (∀ since, (s.unitOf n 0 unit).stuck = some since → since + 2 ^ bitsOf (s.page l.part 0x10) 5 0 * tickUnits ≤ s.now → r = ⟨0x1C, 0, 0⟩ →
        ∃ s', exec (.chorusWatchdog n 0 unit) s = .next s' ∧ s'.mem = s.mem ∧ (∀ k, k ∉ s.strays n unit → s'.core k = s.core k) ∧
          ∀ k ∈ s.strays n unit, (s.core k).EnteredFor r (s'.core k)))

/-- R33, R119, R209, R265, R367: an expired timer starts the withdrawal of a core that waits, and a core that sleeps on a condition enters for the interrupt at the end of its cycle; a core that stands at an instruction, and not between two prefixes, enters at the first boundary after the interrupt became pending, for the timer if both are; the entry for a grant event clears it; and a core withdrawn from a mask that does not fire stands at its WAIT again. -/
def Obligations.InterruptsEnterTheHandler : Prop :=
  ∀ s : State, let c := s.core s.cur
    let enters (i : Instr) (r : Raise) : Prop := ∃ s', exec i s = .next s' ∧ s'.mem = s.mem ∧ c.EnteredFor r (s'.core s.cur) ∧
      (r.code = 0x1B → (s'.core s.cur).grantIrq = none) ∧ (r.code ≠ 0x1B → (s'.core s.cur).grantIrq = c.grantIrq) ∧ ∀ m, m ≠ s.cur → s'.core m = s.core m
    (∀ p q, c.interrupt = some (p, q) →
      (c.run = .waiting false → ∃ s', exec .timerExpiry s = .next s' ∧ s'.mem = s.mem ∧ (s'.core s.cur).run = .waiting true ∧ (s'.core s.cur).pc = c.pc ∧
        (∃ due, s'.Posted due .waitWithdrawal) ∧ ∀ m, m ≠ s.cur → s'.core m = s.core m) ∧
      (c.run = .sleeping .condition → ∀ r, c.interruptBefore (c.clock.vec.after (max p s.now)) = some r → enters .timerExpiry r)) ∧
    (∀ f ∈ [(Instr.timerInterrupt, 0x1A#8), (Instr.grantEventInterrupt, 0x1B#8)], c.run = .running → s.midPrefix s.cur = false → s.forcedStop s.cur = false →
      ∀ r, c.interruptBefore (max c.ready (c.clock.pipe.ceil s.now)) = some r → r.code = f.2 → enters f.1 r) ∧
    (c.run = .waiting true → (∀ n m, c.launch = some n → (s.unitOf n 0 (s.cur / 64)).maskOf s.cur = some m → m.stage = .unfired ∧ s.canFire n 0 (s.cur / 64) m = false) →
      ∃ s', exec .waitWithdrawal s = .next s' ∧ s'.mem = s.mem ∧ s'.core s.cur = { c with run := .running } ∧ ∀ m, m ≠ s.cur → s'.core m = s.core m)

/-- R362, R363, R366, R368 to R370, R457, R470: a cap token is answered 2 when malformed, 1 when not newer, and else sets the cap between 1200 and 3000 W, its number and its lease; an expired lease drops the cap to 1200 W; an alarm cuts the clocks within 300 W below the cap and keeps the network's, pausing for at most 200 ref ticks, after which all goes on; the package's part of a grant comes into force once every running partition has taken its own; and a performance entry takes the value written. -/
def Obligations.ClocksFollowTheCap : Prop :=
  ∀ s : State, let ch := s.chameleon
    (∀ token : BitVec 128, let bs := bytesOf 16 token.toNat
      let seq := fieldAt bs 0 4
      let ahead := (seq + 2 ^ 32 - ch.tokenSeq) % 2 ^ 32
      let bad := fieldAt bs 12 4 ≠ crc32c (bs.take 12) ∨ fieldAt bs 8 4 ≠ 0 ∨ fieldAt bs 6 2 = 0
      (bad → exec (.capToken token) s = .next { s with chameleon := { ch with answers := 2 :: ch.answers } }) ∧
      (¬ bad → (ahead = 0 ∨ 2 ^ 31 ≤ ahead) → exec (.capToken token) s = .next { s with chameleon := { ch with answers := 1 :: ch.answers } }) ∧
      (¬ bad → 0 < ahead → ahead < 2 ^ 31 → ∃ s', exec (.capToken token) s = .next s' ∧ s'.chameleon.cap = max 1200 (min 3000 (fieldAt bs 4 2)) ∧
        s'.chameleon.tokenSeq = seq ∧ s'.chameleon.leaseEnd = some (s.now + fieldAt bs 6 2 * 100000 * tickUnits) ∧ s'.chameleon.answers = 0 :: ch.answers)) ∧
    (∀ t, ch.leaseEnd = some t → t ≤ s.now → ∃ s', exec .leaseExpiry s = .next s' ∧ s'.chameleon.cap = 1200 ∧ s'.chameleon.leaseEnd = none) ∧
    (∀ c, searchSet s.packageRequest s.inForce (ch.cutCap - 300) (some ch.netNow) = some c → ch.pauseEnd = none →
      ∃ s' till, exec .moduleAlarm s = .next s' ∧ s'.chameleon.set = c ∧ s'.chameleon.netNow = ch.netNow ∧ s'.chameleon.memNow = c.mem ∧
        s'.chameleon.pauseEnd = some till ∧ s.now ≤ till ∧ till ≤ s.now + 200 * tickUnits ∧ s'.chameleon.cap = ch.cap) ∧
    (∀ t, ch.pauseEnd = some t → t ≤ s.now → ∃ s', exec .pauseEnd s = .next s' ∧ s'.chameleon.pauseEnd = none ∧
      (ch.whole = false → s' = { s with chameleon := { ch with pauseEnd := none } })) ∧
    (ch.settled = false → (∀ e ∈ s.launches, s.runs e.2 = true → (s.partition e.2.part).grantSeq = ch.seq) →
      (∀ e ∈ s.cores, e.2.xm = true → e.2.phase = some s.now) →
      ∃ s', exec .netMemSwitch s = .next s' ∧ s'.chameleon.netNow = ch.net ∧ s'.chameleon.memNow = ch.mem) ∧
    (∀ (vf entry : Nat) (value : BitVec 32), vf < 192 → entry < 8 →
      s.launches.any (fun e => s.runs e.2 && e.2.vf == vf && e.2.flag 4 && e.2.field 60 1 == entry) = false →
      let off := 0x12000 + 32 * vf + 4 * entry
      ∃ s', exec (.vptWrite vf entry value) s = .next s' ∧ s'.mem = s.mem ∧ s'.cores = s.cores ∧ s'.chameleon = ch ∧
        natBits (s'.reg (off / 8 * 8)).toNat (8 * (off % 8) + 31) (8 * (off % 8)) = value.toNat)

/-- R403 to R409, R437 to R439, R443, R453: a stop of a partition is requested with its deadline, or at once complete where nothing runs; at the deadline a core asleep on a condition is withdrawn and one at WAIT stops there; the stop completes at a ref tick once the partition rests; a core left in an exchange phase past the grace fails the stop and resets the partition; a resume runs every stopped core again at a network edge; a reset turns every core of the partition off and completes its launches; a scrub leaves zeros; and a replay of a bad log is refused, with STATUS 2 (log 35). The debug window reads a field of the register record where `Config.recordField` places it (log 40). -/
def Obligations.PartitionsStopAndResume : Prop :=
  ∀ (s : State) (part : Nat), part < 128 → let p := s.partition part
    let limit := s.yieldLimit part
    (p.stop = .none → s.runsLaunch part = false → ∃ s' k tick, exec (.partitionStop part) s = .next s' ∧ (s'.partition part).stop = .stopped 0 k tick) ∧
    (p.stop = .none → s.runsLaunch part = true → ∃ s', exec (.partitionStop part) s = .next s' ∧ s'.mem = s.mem ∧ s'.cores = s.cores ∧
      (s'.partition part).stop = .requested s.now none ∧ s'.Posted (s.now + limit) (.yieldDeadline part)) ∧
    (∀ since, p.stop = .requested since none → since + limit ≤ s.now → ∃ s', exec (.yieldDeadline part) s = .next s' ∧ s'.mem = s.mem ∧
      (s'.partition part).stop = .requested since (some s.now) ∧ s'.Posted (s.now + limit) (.exchangeGrace part) ∧
      (∀ n ∈ s.runningCores part, ((s.core n).run = .sleeping .condition → s'.core n = { s.core n with run := .stopped .withdrawn }) ∧
        (∀ w, (s.core n).run = .waiting w → s'.core n = { s.core n with run := .stopped .waiting }) ∧
        ((s.core n).run = .running → s'.core n = s.core n)) ∧
      ∀ n, n ∉ s.runningCores part → s'.core n = s.core n) ∧
    (∀ since forced, p.stop = .requested since forced → s.now % tickUnits = 0 → s.partitionRests part = true → ∃ s' k tick,
      exec (.stopComplete part) s = .next s' ∧ (s'.partition part).stop = .stopped (if forced.isSome then 1 else 0) k tick) ∧
    (∀ since forced, p.stop = .requested since (some forced) → forced + limit ≤ s.now →
      (∃ x ∈ s.launchesOf part, ∃ n ∈ s.rangeCores x.2, s.inLaunch x.1 n = true ∧ (s.core n).xm = true) →
      ∃ s', exec (.exchangeGrace part) s = .next s' ∧ s'.Posted s.now (.partitionReset part) ∧
        ∀ x ∈ s.launchesOf part, ∃ l, SMap.find s'.launches x.1 = some l ∧ l.forced.map Prod.fst = some 0x0A) ∧
    (∀ kind k tick, p.stop = .stopped kind k tick → p.saved = false → p.debug = [] → SMap.find s.savedCtx part = none → s.net.on s.now = true →
      ∃ s', exec (.partitionResume part) s = .next s' ∧ s'.mem = s.mem ∧ (s'.partition part).stop = .none ∧
        ∀ n ∈ s.runningCores part, let c := s.core n
          (s'.core n).pc = c.pc ∧ (s'.core n).clock.running = true ∧ (s'.core n).glob = c.glob ∧ (s'.core n).vec = c.vec ∧
          (∀ e, (c.run = .stopped (.parked e) ∨ c.run = .stopped .boundary ∨ c.run = .stopped .withdrawn) → (s'.core n).run = .running) ∧
          ((c.run = .stopped .waiting ∨ c.run = .stopped .exchange) → (s'.core n).run = .waiting false)) ∧
    (p.resetting = false → (s.part part).valid = true → ∃ s', exec (.partitionReset part) s = .next s' ∧
      (s'.partition part).resetting = !(s.toScrub part (s.part part).list).isEmpty ∧ (s'.partition part).saved = false ∧
      (s'.partition part).stop = .none ∧ (∀ x ∈ s.startedOf part, ∃ l st, SMap.find s'.launches x.1 = some l ∧ l.stage = .completed st) ∧
      ∀ n ∈ SMap.keys s.cores, (s.part part).sgs.getLsbD (n / 64) = true → s.partOf (s.core n) = some part → (s'.core n).run = .off) ∧
    (∀ queue, (s.logWord part 0 4 ≠ 0x474F4C52 ∨ (s.logWord part 8 1).testBit 0 = true) →
      exec (.partitionReplay part queue) s = .next (s.setStatus part false 2)) ∧
    (∀ queue, let e := s.queueEntry queue
      s.Unbudgeted part → s.logWord part 0 4 = 0x474F4C52 → (s.logWord part 8 1).testBit 0 = false → (s.part part).valid = true → e.valid = true → e.pid = (s.part part).pid →
      e.vf = (s.part part).vf → ∃ s' l, exec (.partitionReplay part queue) s = .next s' ∧ SMap.find s'.launches (SMap.fresh s.launches) = some l ∧ l.replay = true) ∧
    (∀ sg < 128, (sg ∈ s.slice.scrubs ∨ ∃ e ∈ s.partitions, sg ∈ e.2.scrubs) → ∃ s', exec (.scrubComplete sg) s = .next s' ∧
      (∀ k, sliceKey (64 * sg) 0 ≤ k → k < sliceKey (64 * sg) 0 + 64 * 262144 → Memory.read s'.mem k = 0) ∧
      ∀ n, n / 64 = sg → s'.core n = Core.unlisted n) ∧
    (∀ n, s.debugCore part (s.page part 0x88) = some n → let sel := s.page part 0x88
      (bitsOf sel 17 16 = 1 → ∃ s', exec (.dbgRead part) s = .next s' ∧ s'.mem = s.mem ∧ s'.cores = s.cores ∧
        s'.page part 0x90 = BitVec.ofNat 64 (Memory.readLE s.mem (sliceKey n (bitsOf sel 63 32)) 8)) ∧
      (bitsOf sel 17 16 = 2 → ∃ s', exec (.dbgRead part) s = .next s' ∧ s'.mem = s.mem ∧ s'.cores = s.cores ∧ s'.page part 0x90 = (s.core n).pc.setWidth 64) ∧
      (bitsOf sel 17 16 = 0 → ∀ x, s.recordRead n (Config.recordField (bitsOf sel 63 32)) = some x →
        ∃ s', exec (.dbgRead part) s = .next s' ∧ s'.mem = s.mem ∧ s'.cores = s.cores ∧ s'.page part 0x90 = x) ∧
      ∀ value, ∃ s', exec (.dbgWrite part value) s = .next s' ∧ s'.mem = s.mem ∧ s'.cores = s.cores ∧
        (s'.partition part).debug = p.debug ++ [(sel, value)])

/-- R421, R428 to R436: a good entry is committed with STATUS 0 and a bad one leaves the table with STATUS 2; a context save keeps a stopped partition and takes its cores out, and a restore brings each core back by its rank; the next quantum of the same function begins where one ends; and an invalidation is posted with its completion word, drops every leaf that it covers, and counts its word up once no access uses one. The saved block is that of log 54, a restore of what was kept that of log 38, and the quantum of the same function without a switch and the idle package are those of log 39. -/
def Obligations.PartitionTableSlicesAndInvalidations : Prop :=
  ∀ s : State,
    (∀ command : Word, let i := bitsOf command 6 0
      let e := s.part i
      let x := s.entryWords i
      (s.goodEntry i = true → (e.valid = true → (x.valid = false ∨ x.sgs ≠ e.sgs) → s.mayResize i (if x.valid then x else PartEntry.empty) = true) →
        ∃ s', exec (.partitionCommit command) s = .next s' ∧ s'.part i = x ∧ (∀ k, k ≠ i → s'.part k = s.part k) ∧ s'.reg 0x128 = 0) ∧
      (s.goodEntry i = false → ∃ s', exec (.partitionCommit command) s = .next s' ∧ s'.parts = s.parts ∧ s'.reg 0x128 = 0x200 ∧ s'.mem = s.mem ∧ s'.cores = s.cores)) ∧
    (∀ part < 128, ∀ kind k tick, (s.partition part).stop = .stopped kind k tick → (s.partition part).saved = false → s.runsLaunch part = true →
      s.inTransit (s.runningCores part) ((s.launchesOf part).map Prod.fst) = false → s.chameleon.whole = true →
      ∃ s', exec (.contextSaveComplete part) s = .next s' ∧ ((∀ e ∈ s.launches, e.2.part = part → e.2.noticed = []) → s'.mem = (s.writeSave part).mem) ∧
        (s'.partition part).saved = true ∧ SMap.find s'.savedCtx part = some (s.saveContext part) ∧ ∀ n, (s.part part).sgs.getLsbD (n / 64) = true → s'.core n = Core.unlisted n) ∧
    (∀ part < 128, ∀ x, SMap.find s.savedCtx part = some x → (s.partition part).saved = true → x.part = part → s.toScrub part (s.part part).list = (s.part part).list →
      s.scrubPending (s.part part).list = false →
      let p := s.partition part
      ∃ s', exec (.contextRestoreComplete part) s = .next s' ∧ (s'.partition part).saved = false ∧
      ∀ r n, r < (s.part part).cores → (s.part part).flat r = some n → s'.core n = ((SMap.find x.cores r).getD (Core.unlisted n)).restored ⟨p.vecBase, periodOf p.vec⟩) ∧
    (s.slice.on = true → s.slice.stage = .none → (∀ e, s.slice.entry = some e → s.slice.quantumEnd ≤ s.now) → (s.reg 0x100).getLsbD 0 = true →
      (s.nextEntry s.slice.entry = none → exec .quantumEnd s =
        .next { s with slice := { s.slice with entry := none, vf := s.slice.vf.filter (fun vf => s.launches.any (fun e => e.2.vf == vf && s.runs e.2)) } }) ∧
      (∀ next o p, s.nextEntry s.slice.entry = some next → s.slice.out ≠ some (s.entryVf next) → s.slice.vf = some o → p ∈ s.partsOf o → s.runsLaunch p = true →
        (s.partition p).stop = .none → ∃ s', exec .quantumEnd s = .next s' ∧ s'.slice.target = some (next, s.entryVf next) ∧ s'.slice.stage = .stopping ∧
          s'.Posted s.now (.partitionStop p) ∧ s'.mem = s.mem ∧ s'.cores = s.cores) ∧
      (∀ next, s.nextEntry s.slice.entry = some next → s.slice.out = some (s.entryVf next) →
        let vf := s.entryVf next
        let due := s.now + max 200000 (bitsOf (s.quantumWord next) 31 0) * tickUnits
        ∃ s', exec .quantumEnd s = .next s' ∧ s'.slice = ⟨true, some next, some vf, some vf, none, .none, [], due⟩ ∧ s'.Posted due .quantumEnd ∧ s'.cores = s.cores ∧ s'.mem = s.mem)) ∧
    (∀ vf < 192, ∀ (space : Nat) (x : Word),
      ∀ f ∈ [(Instr.invStage1Page vf space x, true, 1, space, x.toNat), (Instr.invStage1All vf, true, 2, 0, 0), (Instr.invStage2Frame vf space x, false, 3, space, x.toNat),
        (Instr.invStage2All vf, false, 4, 0, 0)],
      let done := if f.2.1 then SMap.get (fun _ => (0 : Word)) s.vfPages (4096 * vf + 0x30) else s.invDone
      ∃ s', exec f.1 s = .next s' ∧ s'.mem = s.mem ∧ s'.cores = s.cores ∧ s'.tcache = s.tcache ∧
        SMap.find s'.invs s.nextId = some ⟨f.2.2.1, f.2.2.2.1, vf, f.2.2.2.2, done, f.2.1, false, []⟩ ∧ ∃ due, s'.Posted due (.invalidationComplete s.nextId)) ∧
    (∀ inv x, SMap.find s.invs inv = some x → x.dropped = false → x.guest = false → (∀ e ∈ s.reqs, s.usesEntry x e.2 = false) →
      let key := hbmKey x.done.toNat
      ∃ s', exec (.invalidationComplete inv) s = .next s' ∧ SMap.find s'.invs inv = none ∧ s'.tcache = s.tcache.filter (fun e => !x.covers e) ∧
        s'.mem = Memory.writeLE s.mem key 8 ((Memory.readLE s.mem key 8 + 1) % 2 ^ 64))

/-- R10, R405, R410, R440, R452, R457, R460, R461, R467: a function becomes ready or not by its bit; a register write stores its value, and one that is misaligned or names a read-only queue head nothing; a spare takes over a unit at a boundary and not otherwise; a host write lands in a window that no launch holds and is kept otherwise; a response over a link reaches its request, one over a link that is down nothing; and a package reset puts everything but the memories, the package's number and time back to reset. That a misaligned register write does nothing is log 41, what a package reset keeps log 43, and the order of held window writes log 44. -/
def Obligations.PackageRegistersAndLinks : Prop :=
  ∀ s : State,
    (∀ reg bit, (reg < 2 ∧ bit < 64) ∨ (reg = 2 ∧ bit < 50) →
      let settles (up : Bool) (s' : State) : Prop := s'.mem = s.mem ∧ s'.cores = s.cores ∧
        (reg < 2 → s'.reg 0x10 = s.reg 0x10 ∧ ∀ g < 128, s'.sgUp.getLsbD g = if g = 64 * reg + bit then up else s.sgUp.getLsbD g) ∧
        (reg = 2 → s'.sgUp = s.sgUp ∧ ∀ b < 64, (s'.reg 0x10).getLsbD b = if b = bit then up else (s.reg 0x10).getLsbD b) ∧
        ∀ g < 128, (s'.reg (8 * (g / 64))).getLsbD (g % 64) = s'.groupReady g
      (∃ s', exec (.unitReady reg bit) s = .next s' ∧ settles true s') ∧
      (reg < 2 ∨ bit < 26 → ∃ s', exec (.unitNotReady reg bit) s = .next s' ∧ settles false s')) ∧
    (∀ (off : Nat) (value : Word), off % 8 = 0 →
      ((0x14000 ≤ off ∧ off < 0x14C00) ∨ (0x400000 ≤ off ∧ off < 0x440000) ∨ (0x450000 ≤ off ∧ off < 0x452000) ∨ (0x200000 ≤ off ∧ off < 0x400000 ∧ off % 32 ≠ 16) →
        exec (.registerWrite 0 off value) s = .next (s.setReg off value)) ∧
      (0x440000 ≤ off → off < 0x450000 → exec (.registerWrite 0 off value) s = .next (s.setReg off (value &&& 0x007F_007F_007F_007F))) ∧
      (0x200000 ≤ off → off < 0x400000 → off % 32 = 16 → exec (.registerWrite 0 off value) s = .next s) ∧
      (∀ pid < 255, let a := 0x1000000 + 0x4000 * pid
        let x := max 0x400 (bitsOf value 26 0)
        (s.pagePart pid = none → exec (.registerWrite 0 a value) s = .next (s.setReg a (BitVec.ofNat 64 x))) ∧
        (∀ p, s.pagePart pid = some p → ∃ s', exec (.registerWrite 0 a value) s = .next s' ∧ s'.mem = s.mem ∧ s'.cores = s.cores ∧ s'.reg a = BitVec.ofNat 64 x ∧
          ∀ since, (s.partition p).stop = .requested since none → s'.Posted (max s.now (since + s'.yieldLimit p)) (.yieldDeadline p))) ∧
      (∀ block < 193, exec (.registerWrite block (off + 4) value) s = .next s)) ∧
    (∀ unit < 8192, ∀ f ∈ [(0, 64, 64, 67), (1, 8, 8, 8)], ∀ spare,
      let kind := f.1
      let used := ∃ e ∈ s.spares ++ s.ring.lanes, e.1 / 2 ^ 20 = kind ∧ e.1 % 2 ^ 20 / f.2.1 = unit / f.2.1 ∧ e.2 = spare
      (f.2.2.1 ≤ spare → spare ≤ f.2.2.2 → s.atBoundary (unit / 64) = true → ¬ used →
        exec (.spareSwap kind unit spare) s = .next { s with spares := SMap.put s.spares (2 ^ 20 * kind + unit) spare }) ∧
      (spare < f.2.2.1 ∨ f.2.2.2 < spare ∨ s.atBoundary (unit / 64) = false ∨ used → exec (.spareSwap kind unit spare) s = .next s)) ∧
    (∀ (die off : Nat) (mask : Byte) (value : Word), die < 8 → off < 2 ^ 20 → 8 ∣ off →
      (s.holdersOf die ≠ [] → (∀ w ∈ s.heldWrites, w.holders ≠ []) →
        exec (.hostWindowWrite die off mask value) s = .next { s with heldWrites := s.heldWrites ++ [⟨s.holdersOf die, die, off, mask, value⟩] }) ∧
      (s.launches = [] → s.heldWrites = [] → ∃ s', exec (.hostWindowWrite die off mask value) s = .next s' ∧
        (∀ i < 8, Memory.read s'.mem (windowKey die (off + i)) = if mask.getLsbD i then value.extractLsb' (8 * i) 8 else Memory.read s.mem (windowKey die (off + i))) ∧
        ∀ k, k < windowKey die off ∨ windowKey die off + 8 ≤ k → Memory.read s'.mem k = Memory.read s.mem k)) ∧
    (∀ port < 24,
      ((s.reg 0x10).getLsbD (26 + port) = false → ∀ ok msg, exec (.linkFlitArrival port ok msg) s = .next s) ∧
      (∀ r since q value status, s.req r = some q → q.stage = .onLink since →
        ∃ s', exec (.linkFlitArrival (32 + port) true (.response s.pkg r value status)) s = .next s' ∧ s'.mem = s.mem ∧
          s'.cores = s.cores ∧ s'.HasRequest r q (.answered (.ok value status)) ∧ s'.Posted s.now (.responseArrival r)) ∧
      (∀ r since q code qual, s.req r = some q → q.stage = .onLink since →
        ∃ s', exec (.linkFlitArrival (32 + port) true (.failure s.pkg r code qual)) s = .next s' ∧ s'.mem = s.mem ∧
          s'.cores = s.cores ∧ s'.HasRequest r q (.answered (.fail code qual)) ∧ s'.Posted s.now (.responseArrival r))) ∧
    exec .packageReset s = .next { State.reset with now := s.now, free := s.free, mem := s.mem, badWords := s.badWords, pkg := s.pkg }

/-- R237 to R240: a packet whose head comes to a router's input has arrived there; an output that is free grants the oldest urgent packet, or else the first pair after the one granted last whose count is above 0, the counts being set back to the weights when none is; the packet granted takes the link for as many cycles as it has flits and comes to the next router after the link's; and a head packet that has not been granted for 64 cycles carries that age on. -/
def Obligations.RoutersGrantAndForward : Prop :=
  ∀ s : State,
    (∀ id p, SMap.find s.packets id = some p → (s.buf p.buf).queue.contains id = true → p.arrived = false → p.forks = false →
      ∃ s' q, exec (.packetArrival id) s = .next s' ∧ s'.mem = s.mem ∧ s'.cores = s.cores ∧ SMap.find s'.packets id = some q ∧
        { q with since := p.since } = { p with arrived := true, branches := [] } ∧ s'.bufs = s.bufs) ∧
    (∀ router out, let o := s.outPort router out
      let E := s.Contends router out
      let age := fun p : Packet => p.ageAt s.now s.netPeriod
      (s.now < o.free → s.arbitrate router out = (none, o)) ∧
      (o.free ≤ s.now →
        ((∀ q id p, ¬ E q id p) → s.arbitrate router out = (none, o)) ∧
        (∀ q id p, E q id p → 64 ≤ age p → (∀ q' id' p', E q' id' p' → age p' < age p ∨ (age p' = age p ∧ q ≤ q')) →
          s.arbitrate router out = (some (id, p), o)) ∧
        (∀ cnt q id p, (∀ q' id' p', E q' id' p' → age p' < 64) → s.Counts router out cnt → o.ptr < 28 → E q id p → 0 < cnt[q]?.getD 0 →
          (∀ q' id' p', E q' id' p' → 0 < cnt[q']?.getD 0 → (q + 27 - o.ptr) % 28 ≤ (q' + 27 - o.ptr) % 28) →
          s.arbitrate router out = (some (id, p), { o with cnt := cnt.set q (cnt[q]?.getD 0 - 1), ptr := q })))) ∧
    (∀ router port id p o, router < 128 → port < 7 → s.arbitrate router port = (some (id, p), o) → p.forks = false →
      ∃ s', exec (.outputArbitration router port) s = .next s' ∧ s'.mem = s.mem ∧ s'.cores = s.cores ∧
        s'.outPort router port = { o with free := s.now + p.flits * s.netPeriod } ∧ s'.Posted (s.now + p.flits * s.netPeriod) (.outputArbitration router port) ∧
        ∀ r entry cycles, nextHop (p.buf / 28) port = some (r, entry, cycles) → s'.Posted (s.now + cycles * s.netPeriod) (.packetArrival s.nextId)) ∧
    (∀ router port vc id p, router < 128 → port < 7 → vc < 4 → s.headOf (bufIdx router port vc) = some (id, p) → p.since.isSome = true →
      64 ≤ p.ageAt s.now s.netPeriod → ∃ s', exec (.ageUrgent router port vc) s = .next s' ∧ s'.mem = s.mem ∧ s'.cores = s.cores ∧
        SMap.find s'.packets id = some { p with age := p.ageAt s.now s.netPeriod, since := some s.now })
end

