-- ==== Sys2Proof/Laws/Bits.lean ====
section
/-! SUPPORT. The bits of words with fields replaced. -/

namespace Sys2Proof.Machine

/-- The bits of a word with a field replaced. -/
theorem getLsbD_setBits (x : Word) (hi lo v i : Nat) (h : lo ≤ hi) :
    (setBits x hi lo v).getLsbD i = (decide (i < 64) && (if lo ≤ i ∧ i ≤ hi then v.testBit (i - lo) else x.getLsbD i)) := by
  unfold setBits
  simp only [BitVec.getLsbD_ofNat]
  congr 1
  have e : x.toNat / 2 ^ (hi + 1) * 2 ^ (hi + 1) + v % 2 ^ (hi + 1 - lo) * 2 ^ lo + x.toNat % 2 ^ lo
      = 2 ^ (hi + 1) * (x.toNat / 2 ^ (hi + 1)) + (2 ^ lo * (v % 2 ^ (hi + 1 - lo)) + x.toNat % 2 ^ lo) := by ring
  have h1 : x.toNat % 2 ^ lo < 2 ^ lo := Nat.mod_lt _ (by positivity)
  have h2 : v % 2 ^ (hi + 1 - lo) < 2 ^ (hi + 1 - lo) := Nat.mod_lt _ (by positivity)
  have h3 : 2 ^ lo * (v % 2 ^ (hi + 1 - lo)) + x.toNat % 2 ^ lo < 2 ^ (hi + 1) := by
    have : 2 ^ (hi + 1) = 2 ^ lo * 2 ^ (hi + 1 - lo) := by rw [← pow_add]; congr 1; omega
    have h4 := Nat.mul_le_mul_left (2 ^ lo) (Nat.succ_le_of_lt h2)
    rw [Nat.mul_succ] at h4
    rw [this]; omega
  rw [e, Nat.testBit_two_pow_mul_add _ h3, Nat.testBit_two_pow_mul_add _ h1]
  by_cases c1 : i < hi + 1
  · by_cases c2 : i < lo
    · simp [c1, c2, show ¬ lo ≤ i by omega, BitVec.getLsbD, Nat.testBit_mod_two_pow]
    · simp [c1, c2, show lo ≤ i by omega, show i ≤ hi by omega, Nat.testBit_mod_two_pow]
      intro; omega
  · simp [c1, show ¬ i ≤ hi by omega, BitVec.getLsbD, Nat.testBit_div_two_pow]
    congr 1; omega

/-- STAT with no prefix pending has its bits 2 to 0 clear and every other bit as it was (R26). -/
theorem getLsbD_statNoPrefix (st : Word) (i : Nat) : (statNoPrefix st).getLsbD i = (if i ≤ 2 then false else st.getLsbD i) := by
  rw [statNoPrefix, getLsbD_setBits _ _ _ _ _ (by omega)]
  by_cases h : i ≤ 2
  · simp [h]
  · by_cases h64 : i < 64
    · simp [h, h64]
    · simp [h, h64, BitVec.getLsbD_of_ge st i (by omega)]

/-- Taking the prefixes away twice is taking them away once. -/
@[simp] theorem statNoPrefix_idem (st : Word) : statNoPrefix (statNoPrefix st) = statNoPrefix st := by
  apply BitVec.eq_of_getLsbD_eq
  intro i _
  simp only [getLsbD_statNoPrefix]
  split <;> rfl

/-! ### CRC-32C -/

theorem crcBit_lt {c : Nat} (h : c < 2 ^ 32) : crcBit c < 2 ^ 32 := by
  unfold crcBit
  split
  · exact Nat.xor_lt_two_pow (by omega) (by decide)
  · omega

theorem crcByte_lt {c b : Nat} (hc : c < 2 ^ 32) (hb : b < 2 ^ 32) : crcByte c b < 2 ^ 32 := by
  unfold crcByte
  have h := Nat.xor_lt_two_pow hc hb
  iterate 8 apply crcBit_lt
  exact h

/-- A CRC has 32 bits. -/
theorem crc32c_lt (bs : List Byte) : crc32c bs < 2 ^ 32 := by
  have h : ∀ (bs : List Byte) (c : Nat), c < 2 ^ 32 → bs.foldl (fun c b => crcByte c b.toNat) c < 2 ^ 32 := by
    intro bs
    induction bs with
    | nil => exact fun _ h => h
    | cons b bs ih => exact fun c hc => ih _ (crcByte_lt hc (Nat.lt_trans b.isLt (by decide)))
  exact Nat.xor_lt_two_pow (h bs _ (by decide)) (by decide)

end Sys2Proof.Machine
end

