-- ==== Sys2Proof/Laws/Map.lean ====
section
/-! SUPPORT. Sparse maps: what a key reads as after an update, and the canonical form of memory. -/

namespace Sys2Proof.Machine

variable {α : Type}

@[simp] theorem SMap.find_nil (n : Nat) : SMap.find ([] : SMap α) n = none := rfl

theorem SMap.find_cons (k : Nat) (v : α) (r : SMap α) (n : Nat) :
    SMap.find ((k, v) :: r) n = if k = n then some v else SMap.find r n := rfl

@[simp] theorem SMap.find_insert_self (m : SMap α) (n : Nat) (x : α) (h : SMap.find m n = none) :
    SMap.find (SMap.insert m n x) n = some x := by
  induction m with
  | nil => simp [SMap.insert, SMap.find_cons]
  | cons e r ih =>
    obtain ⟨k, v⟩ := e
    rw [SMap.find_cons] at h
    split at h
    · cases h
    · rename_i hk
      simp only [SMap.insert]
      split
      · simp [SMap.find_cons]
      · simp [SMap.find_cons, hk, ih h]

theorem SMap.find_insert_ne (m : SMap α) (n k : Nat) (x : α) (h : k ≠ n) :
    SMap.find (SMap.insert m n x) k = SMap.find m k := by
  induction m with
  | nil => simp [SMap.insert, SMap.find_cons, Ne.symm h]
  | cons e r ih =>
    obtain ⟨j, v⟩ := e
    simp only [SMap.insert]
    split
    · simp [SMap.find_cons, Ne.symm h]
    · simp [SMap.find_cons, ih]

@[simp] theorem SMap.find_erase_self (m : SMap α) (n : Nat) : SMap.find (SMap.erase m n) n = none := by
  induction m with
  | nil => rfl
  | cons e r ih =>
    obtain ⟨k, v⟩ := e
    by_cases hk : k = n <;> simp_all [SMap.erase, SMap.find_cons]

theorem SMap.find_erase_ne (m : SMap α) (n k : Nat) (h : k ≠ n) : SMap.find (SMap.erase m n) k = SMap.find m k := by
  induction m with
  | nil => rfl
  | cons e r ih =>
    obtain ⟨j, v⟩ := e
    by_cases hj : j = n
    · subst hj
      have : SMap.erase ((j, v) :: r) j = SMap.erase r j := by simp [SMap.erase]
      rw [this, ih, SMap.find_cons, if_neg (Ne.symm h)]
    · have : SMap.erase ((j, v) :: r) n = (j, v) :: SMap.erase r n := by simp [SMap.erase, hj]
      rw [this, SMap.find_cons, SMap.find_cons, ih]

/-- A key reads as what was last set. -/
@[simp] theorem SMap.get_set_self [DecidableEq α] (d : Nat → α) (m : SMap α) (n : Nat) (x : α) :
    SMap.get d (SMap.set d m n x) n = x := by
  unfold SMap.get SMap.set
  split
  · simp_all
  · simp

/-- Setting a key leaves every other key as it read. -/
theorem SMap.get_set_ne [DecidableEq α] (d : Nat → α) (m : SMap α) (n k : Nat) (x : α) (h : k ≠ n) :
    SMap.get d (SMap.set d m n x) k = SMap.get d m k := by
  unfold SMap.get SMap.set
  split
  · rw [SMap.find_erase_ne _ _ _ h]
  · rw [SMap.find_insert_ne _ _ _ _ h, SMap.find_erase_ne _ _ _ h]

/-- A key put reads as what was put. -/
@[simp] theorem SMap.find_put_self (m : SMap α) (n : Nat) (x : α) : SMap.find (SMap.put m n x) n = some x := by
  simp [SMap.put]

/-- Putting a key leaves every other key as it read. -/
theorem SMap.find_put_ne (m : SMap α) (n k : Nat) (x : α) (h : k ≠ n) : SMap.find (SMap.put m n x) k = SMap.find m k := by
  rw [SMap.put, SMap.find_insert_ne _ _ _ _ h, SMap.find_erase_ne _ _ _ h]

/-! ### Memory -/

/-- A byte reads as what was last written to it. -/
@[simp] theorem Memory.read_write_self (m : Memory) (a : Nat) (b : Byte) : Memory.read (Memory.write m a b) a = b :=
  SMap.get_set_self _ _ _ _

/-- A write leaves every other byte as it was. -/
theorem Memory.read_write_ne (m : Memory) (a k : Nat) (b : Byte) (h : k ≠ a) :
    Memory.read (Memory.write m a b) k = Memory.read m k := SMap.get_set_ne _ _ _ _ _ h

theorem Memory.wf_cons (a : Nat) (b : Byte) (r : Memory) :
    Memory.wf ((a, b) :: r) = true ↔ b ≠ Memory.unwritten a ∧ (∀ e ∈ r, a < e.1) ∧ Memory.wf r = true := by
  simp [Memory.wf, and_assoc]

/-- Memory stays in canonical form when entries are left out. -/
theorem Memory.wf_filter (p : Host.Cell → Bool) (m : Memory) (h : Memory.wf m = true) : Memory.wf (m.filter p) = true := by
  induction m with
  | nil => rfl
  | cons e r ih =>
    obtain ⟨a, b⟩ := e
    obtain ⟨hb, hr, hw⟩ := (Memory.wf_cons a b r).1 h
    by_cases hp : p (a, b) = true
    · rw [List.filter_cons_of_pos hp, Memory.wf_cons]
      exact ⟨hb, fun e he => hr e (List.mem_of_mem_filter he), ih hw⟩
    · rw [List.filter_cons_of_neg hp]
      exact ih hw

theorem Memory.mem_insert (m : Memory) (n : Nat) (x : Byte) (e : Host.Cell) (h : e ∈ SMap.insert m n x) :
    e = (n, x) ∨ e ∈ m := by
  induction m with
  | nil => simpa [SMap.insert] using h
  | cons f r ih =>
    obtain ⟨k, v⟩ := f
    simp only [SMap.insert] at h
    split at h
    · simpa using h
    · rcases List.mem_cons.1 h with h | h
      · exact .inr (h ▸ List.mem_cons_self)
      · exact (ih h).imp_right (List.mem_cons_of_mem _)

/-- An entry that is not what its address reads as unlisted may be listed at an address not listed yet. -/
theorem Memory.wf_insert (m : Memory) (n : Nat) (x : Byte) (hx : x ≠ Memory.unwritten n)
    (hn : ∀ e ∈ m, e.1 ≠ n) (h : Memory.wf m = true) : Memory.wf (SMap.insert m n x) = true := by
  induction m with
  | nil => simpa [SMap.insert, Memory.wf] using hx
  | cons f r ih =>
    obtain ⟨k, v⟩ := f
    obtain ⟨hv, hr, hw⟩ := (Memory.wf_cons k v r).1 h
    have hk : k ≠ n := hn (k, v) List.mem_cons_self
    simp only [SMap.insert]
    split
    · rename_i hlt
      refine (Memory.wf_cons n x _).2 ⟨hx, fun e he => ?_, h⟩
      rcases List.mem_cons.1 he with he | he
      · exact he ▸ hlt
      · exact lt_trans hlt (hr e he)
    · rename_i hlt
      refine (Memory.wf_cons k v _).2 ⟨hv, fun e he => ?_, ih (fun e he => hn e (List.mem_cons_of_mem _ he)) hw⟩
      rcases Memory.mem_insert r n x e he with he | he
      · subst he; show k < n; omega
      · exact hr e he

/-- A write keeps the canonical form. -/
theorem Memory.wf_write (m : Memory) (a : Nat) (b : Byte) (h : Memory.wf m = true) : Memory.wf (Memory.write m a b) = true := by
  unfold Memory.write SMap.set
  split
  · exact Memory.wf_filter _ _ h
  · rename_i hb
    refine Memory.wf_insert _ _ _ hb (fun e he => ?_) (Memory.wf_filter _ _ h)
    simpa using (List.mem_filter.1 he).2

/-- Writing a value of several bytes keeps the canonical form. -/
theorem Memory.wf_writeLE (m : Memory) (a n v : Nat) (h : Memory.wf m = true) : Memory.wf (Memory.writeLE m a n v) = true := by
  induction n generalizing m a v with
  | zero => exact h
  | succ n ih => exact ih _ _ _ (Memory.wf_write _ _ _ h)

/-- Writing a run of bytes keeps the canonical form. -/
theorem Memory.wf_writeBytes (m : Memory) (a : Nat) (bs : List Byte) (h : Memory.wf m = true) :
    Memory.wf (Memory.writeBytes m a bs) = true := by
  induction bs generalizing m a with
  | nil => exact h
  | cons b bs ih => exact ih _ _ (Memory.wf_write _ _ _ h)

/-- A value written leaves every byte outside it as it was. -/
theorem Memory.read_writeLE_outside (m : Memory) (a n v k : Nat) (h : k < a ∨ a + n ≤ k) :
    Memory.read (Memory.writeLE m a n v) k = Memory.read m k := by
  induction n generalizing m a v with
  | zero => rfl
  | succ n ih => rw [Memory.writeLE, ih _ _ _ (by omega), Memory.read_write_ne _ _ _ _ (by omega)]

/-- Bytes written leave every byte outside them as it was. -/
theorem Memory.read_writeBytes_outside (m : Memory) (a k : Nat) (bs : List Byte) (h : k < a ∨ a + bs.length ≤ k) :
    Memory.read (Memory.writeBytes m a bs) k = Memory.read m k := by
  induction bs generalizing m a with
  | nil => rfl
  | cons b bs ih =>
    rw [List.length_cons] at h
    rw [Memory.writeBytes, ih _ _ (by omega), Memory.read_write_ne _ _ _ _ (by omega)]

/-- The byte of a value that a write of several bytes leaves at an address (R7). -/
theorem Memory.read_writeLE_inside (m : Memory) (a n v i : Nat) (h : i < n) :
    Memory.read (Memory.writeLE m a n v) (a + i) = BitVec.ofNat 8 (v / 256 ^ i) := by
  induction n generalizing m a v i with
  | zero => omega
  | succ n ih =>
    cases i with
    | zero => rw [Memory.writeLE, Memory.read_writeLE_outside _ _ _ _ _ (by omega)]; simp
    | succ i =>
      rw [Memory.writeLE, show a + (i + 1) = a + 1 + i by omega, ih _ _ _ _ (by omega), Nat.div_div_eq_div_mul, pow_succ']

theorem Memory.readLE_congr (m m' : Memory) (a n : Nat) (h : ∀ i < n, Memory.read m (a + i) = Memory.read m' (a + i)) :
    Memory.readLE m a n = Memory.readLE m' a n := by
  induction n generalizing a with
  | zero => rfl
  | succ n ih =>
    rw [Memory.readLE, Memory.readLE, show Memory.read m a = Memory.read m' a from h 0 (by omega),
      ih (a + 1) (fun i hi => by rw [show a + 1 + i = a + (i + 1) by omega]; exact h (i + 1) (by omega))]

/-- A value reads back as it was written, its low bytes (R7). -/
theorem Memory.readLE_writeLE (m : Memory) (a n v : Nat) : Memory.readLE (Memory.writeLE m a n v) a n = v % 256 ^ n := by
  induction n generalizing m a v with
  | zero => simp [Memory.readLE, Nat.mod_one]
  | succ n ih =>
    rw [Memory.readLE, Memory.writeLE, ih, Memory.read_writeLE_outside _ _ _ _ _ (by omega), Memory.read_write_self,
      BitVec.toNat_ofNat, show 256 ^ (n + 1) = 256 * 256 ^ n from pow_succ' 256 n, Nat.mod_mul]

theorem Memory.readLE_lt (m : Memory) (a n : Nat) : Memory.readLE m a n < 256 ^ n := by
  induction n generalizing a with
  | zero => simp [Memory.readLE]
  | succ n ih =>
    have h1 := ih (a + 1)
    have h2 := (Memory.read m a).isLt
    rw [Memory.readLE, pow_succ]
    omega

end Sys2Proof.Machine
end

