-- ==== Sys2Proof/Laws/State.lean ====
section
/-! SUPPORT. What the updates of State leave as it was: one lemma for each field and update. -/

namespace Sys2Proof.Machine

/-! ### A core replaced -/

@[simp] theorem State.setCore_now (s : State) (n : Nat) (c : Core) : (s.setCore n c).now = s.now := rfl
@[simp] theorem State.setCore_agenda (s : State) (n : Nat) (c : Core) : (s.setCore n c).agenda = s.agenda := rfl
@[simp] theorem State.setCore_cur (s : State) (n : Nat) (c : Core) : (s.setCore n c).cur = s.cur := rfl
@[simp] theorem State.setCore_free (s : State) (n : Nat) (c : Core) : (s.setCore n c).free = s.free := rfl
@[simp] theorem State.setCore_nextId (s : State) (n : Nat) (c : Core) : (s.setCore n c).nextId = s.nextId := rfl
@[simp] theorem State.setCore_mem (s : State) (n : Nat) (c : Core) : (s.setCore n c).mem = s.mem := rfl
@[simp] theorem State.setCore_badWords (s : State) (n : Nat) (c : Core) : (s.setCore n c).badWords = s.badWords := rfl
@[simp] theorem State.setCore_xwords (s : State) (n : Nat) (c : Core) : (s.setCore n c).xwords = s.xwords := rfl
@[simp] theorem State.setCore_launches (s : State) (n : Nat) (c : Core) : (s.setCore n c).launches = s.launches := rfl
@[simp] theorem State.setCore_parts (s : State) (n : Nat) (c : Core) : (s.setCore n c).parts = s.parts := rfl
@[simp] theorem State.setCore_partitions (s : State) (n : Nat) (c : Core) : (s.setCore n c).partitions = s.partitions := rfl
@[simp] theorem State.setCore_bar0 (s : State) (n : Nat) (c : Core) : (s.setCore n c).bar0 = s.bar0 := rfl
@[simp] theorem State.setCore_vfPages (s : State) (n : Nat) (c : Core) : (s.setCore n c).vfPages = s.vfPages := rfl
@[simp] theorem State.setCore_chameleon (s : State) (n : Nat) (c : Core) : (s.setCore n c).chameleon = s.chameleon := rfl
@[simp] theorem State.setCore_traceOut (s : State) (n : Nat) (c : Core) : (s.setCore n c).traceOut = s.traceOut := rfl
@[simp] theorem State.setCore_reqs (s : State) (n : Nat) (c : Core) : (s.setCore n c).reqs = s.reqs := rfl
@[simp] theorem State.setCore_packets (s : State) (n : Nat) (c : Core) : (s.setCore n c).packets = s.packets := rfl
@[simp] theorem State.setCore_bufs (s : State) (n : Nat) (c : Core) : (s.setCore n c).bufs = s.bufs := rfl
@[simp] theorem State.setCore_outs (s : State) (n : Nat) (c : Core) : (s.setCore n c).outs = s.outs := rfl
@[simp] theorem State.setCore_mail (s : State) (n : Nat) (c : Core) : (s.setCore n c).mail = s.mail := rfl
@[simp] theorem State.setCore_monitors (s : State) (n : Nat) (c : Core) : (s.setCore n c).monitors = s.monitors := rfl
@[simp] theorem State.setCore_hostCache (s : State) (n : Nat) (c : Core) : (s.setCore n c).hostCache = s.hostCache := rfl
@[simp] theorem State.setCore_tcache (s : State) (n : Nat) (c : Core) : (s.setCore n c).tcache = s.tcache := rfl
@[simp] theorem State.setCore_invs (s : State) (n : Nat) (c : Core) : (s.setCore n c).invs = s.invs := rfl
@[simp] theorem State.setCore_pkg (s : State) (n : Nat) (c : Core) : (s.setCore n c).pkg = s.pkg := rfl
@[simp] theorem State.setCore_budgetUsed (s : State) (n : Nat) (c : Core) : (s.setCore n c).budgetUsed = s.budgetUsed := rfl
@[simp] theorem State.setCore_budgetEpoch (s : State) (n : Nat) (c : Core) : (s.setCore n c).budgetEpoch = s.budgetEpoch := rfl
@[simp] theorem State.setCore_budgetHeld (s : State) (n : Nat) (c : Core) : (s.setCore n c).budgetHeld = s.budgetHeld := rfl
@[simp] theorem State.setCore_holders (s : State) (n : Nat) (c : Core) : (s.setCore n c).holders = s.holders := rfl
@[simp] theorem State.setCore_copyUnits (s : State) (n : Nat) (c : Core) : (s.setCore n c).copyUnits = s.copyUnits := rfl
@[simp] theorem State.setCore_reduceNext (s : State) (n : Nat) (c : Core) : (s.setCore n c).reduceNext = s.reduceNext := rfl
@[simp] theorem State.setCore_matrices (s : State) (n : Nat) (c : Core) : (s.setCore n c).matrices = s.matrices := rfl
@[simp] theorem State.setCore_ring (s : State) (n : Nat) (c : Core) : (s.setCore n c).ring = s.ring := rfl
@[simp] theorem State.setCore_chorus (s : State) (n : Nat) (c : Core) : (s.setCore n c).chorus = s.chorus := rfl
@[simp] theorem State.setCore_releases (s : State) (n : Nat) (c : Core) : (s.setCore n c).releases = s.releases := rfl
@[simp] theorem State.setCore_heldWrites (s : State) (n : Nat) (c : Core) : (s.setCore n c).heldWrites = s.heldWrites := rfl
@[simp] theorem State.setCore_savedCtx (s : State) (n : Nat) (c : Core) : (s.setCore n c).savedCtx = s.savedCtx := rfl
@[simp] theorem State.setCore_slice (s : State) (n : Nat) (c : Core) : (s.setCore n c).slice = s.slice := rfl
@[simp] theorem State.setCore_spares (s : State) (n : Nat) (c : Core) : (s.setCore n c).spares = s.spares := rfl
@[simp] theorem State.setCore_linkOut (s : State) (n : Nat) (c : Core) : (s.setCore n c).linkOut = s.linkOut := rfl
@[simp] theorem State.setCore_linkTries (s : State) (n : Nat) (c : Core) : (s.setCore n c).linkTries = s.linkTries := rfl
@[simp] theorem State.setCore_invDone (s : State) (n : Nat) (c : Core) : (s.setCore n c).invDone = s.invDone := rfl
@[simp] theorem State.setCore_cmdLow (s : State) (n : Nat) (c : Core) : (s.setCore n c).cmdLow = s.cmdLow := rfl
@[simp] theorem State.setCore_ins (s : State) (n : Nat) (c : Core) : (s.setCore n c).ins = s.ins := rfl
@[simp] theorem State.setCore_nvme (s : State) (n : Nat) (c : Core) : (s.setCore n c).nvme = s.nvme := rfl
@[simp] theorem State.setCore_nvmeTail (s : State) (n : Nat) (c : Core) : (s.setCore n c).nvmeTail = s.nvmeTail := rfl
@[simp] theorem State.setCore_sgUp (s : State) (n : Nat) (c : Core) : (s.setCore n c).sgUp = s.sgUp := rfl

/-! ### A turn posted -/

@[simp] theorem State.post_now (s : State) (due n : Nat) (a : Act) : (s.post due n a).now = s.now := rfl
@[simp] theorem State.post_cur (s : State) (due n : Nat) (a : Act) : (s.post due n a).cur = s.cur := rfl
@[simp] theorem State.post_free (s : State) (due n : Nat) (a : Act) : (s.post due n a).free = s.free := rfl
@[simp] theorem State.post_nextId (s : State) (due n : Nat) (a : Act) : (s.post due n a).nextId = s.nextId := rfl
@[simp] theorem State.post_cores (s : State) (due n : Nat) (a : Act) : (s.post due n a).cores = s.cores := rfl
@[simp] theorem State.post_mem (s : State) (due n : Nat) (a : Act) : (s.post due n a).mem = s.mem := rfl
@[simp] theorem State.post_badWords (s : State) (due n : Nat) (a : Act) : (s.post due n a).badWords = s.badWords := rfl
@[simp] theorem State.post_xwords (s : State) (due n : Nat) (a : Act) : (s.post due n a).xwords = s.xwords := rfl
@[simp] theorem State.post_launches (s : State) (due n : Nat) (a : Act) : (s.post due n a).launches = s.launches := rfl
@[simp] theorem State.post_parts (s : State) (due n : Nat) (a : Act) : (s.post due n a).parts = s.parts := rfl
@[simp] theorem State.post_partitions (s : State) (due n : Nat) (a : Act) : (s.post due n a).partitions = s.partitions := rfl
@[simp] theorem State.post_bar0 (s : State) (due n : Nat) (a : Act) : (s.post due n a).bar0 = s.bar0 := rfl
@[simp] theorem State.post_vfPages (s : State) (due n : Nat) (a : Act) : (s.post due n a).vfPages = s.vfPages := rfl
@[simp] theorem State.post_chameleon (s : State) (due n : Nat) (a : Act) : (s.post due n a).chameleon = s.chameleon := rfl
@[simp] theorem State.post_traceOut (s : State) (due n : Nat) (a : Act) : (s.post due n a).traceOut = s.traceOut := rfl
@[simp] theorem State.post_reqs (s : State) (due n : Nat) (a : Act) : (s.post due n a).reqs = s.reqs := rfl
@[simp] theorem State.post_packets (s : State) (due n : Nat) (a : Act) : (s.post due n a).packets = s.packets := rfl
@[simp] theorem State.post_bufs (s : State) (due n : Nat) (a : Act) : (s.post due n a).bufs = s.bufs := rfl
@[simp] theorem State.post_outs (s : State) (due n : Nat) (a : Act) : (s.post due n a).outs = s.outs := rfl
@[simp] theorem State.post_mail (s : State) (due n : Nat) (a : Act) : (s.post due n a).mail = s.mail := rfl
@[simp] theorem State.post_monitors (s : State) (due n : Nat) (a : Act) : (s.post due n a).monitors = s.monitors := rfl
@[simp] theorem State.post_hostCache (s : State) (due n : Nat) (a : Act) : (s.post due n a).hostCache = s.hostCache := rfl
@[simp] theorem State.post_tcache (s : State) (due n : Nat) (a : Act) : (s.post due n a).tcache = s.tcache := rfl
@[simp] theorem State.post_invs (s : State) (due n : Nat) (a : Act) : (s.post due n a).invs = s.invs := rfl
@[simp] theorem State.post_pkg (s : State) (due n : Nat) (a : Act) : (s.post due n a).pkg = s.pkg := rfl
@[simp] theorem State.post_budgetUsed (s : State) (due n : Nat) (a : Act) : (s.post due n a).budgetUsed = s.budgetUsed := rfl
@[simp] theorem State.post_budgetEpoch (s : State) (due n : Nat) (a : Act) : (s.post due n a).budgetEpoch = s.budgetEpoch := rfl
@[simp] theorem State.post_budgetHeld (s : State) (due n : Nat) (a : Act) : (s.post due n a).budgetHeld = s.budgetHeld := rfl
@[simp] theorem State.post_holders (s : State) (due n : Nat) (a : Act) : (s.post due n a).holders = s.holders := rfl
@[simp] theorem State.post_copyUnits (s : State) (due n : Nat) (a : Act) : (s.post due n a).copyUnits = s.copyUnits := rfl
@[simp] theorem State.post_reduceNext (s : State) (due n : Nat) (a : Act) : (s.post due n a).reduceNext = s.reduceNext := rfl
@[simp] theorem State.post_matrices (s : State) (due n : Nat) (a : Act) : (s.post due n a).matrices = s.matrices := rfl
@[simp] theorem State.post_ring (s : State) (due n : Nat) (a : Act) : (s.post due n a).ring = s.ring := rfl
@[simp] theorem State.post_chorus (s : State) (due n : Nat) (a : Act) : (s.post due n a).chorus = s.chorus := rfl
@[simp] theorem State.post_releases (s : State) (due n : Nat) (a : Act) : (s.post due n a).releases = s.releases := rfl
@[simp] theorem State.post_heldWrites (s : State) (due n : Nat) (a : Act) : (s.post due n a).heldWrites = s.heldWrites := rfl
@[simp] theorem State.post_savedCtx (s : State) (due n : Nat) (a : Act) : (s.post due n a).savedCtx = s.savedCtx := rfl
@[simp] theorem State.post_slice (s : State) (due n : Nat) (a : Act) : (s.post due n a).slice = s.slice := rfl
@[simp] theorem State.post_spares (s : State) (due n : Nat) (a : Act) : (s.post due n a).spares = s.spares := rfl
@[simp] theorem State.post_linkOut (s : State) (due n : Nat) (a : Act) : (s.post due n a).linkOut = s.linkOut := rfl
@[simp] theorem State.post_linkTries (s : State) (due n : Nat) (a : Act) : (s.post due n a).linkTries = s.linkTries := rfl
@[simp] theorem State.post_invDone (s : State) (due n : Nat) (a : Act) : (s.post due n a).invDone = s.invDone := rfl
@[simp] theorem State.post_cmdLow (s : State) (due n : Nat) (a : Act) : (s.post due n a).cmdLow = s.cmdLow := rfl
@[simp] theorem State.post_ins (s : State) (due n : Nat) (a : Act) : (s.post due n a).ins = s.ins := rfl
@[simp] theorem State.post_nvme (s : State) (due n : Nat) (a : Act) : (s.post due n a).nvme = s.nvme := rfl
@[simp] theorem State.post_nvmeTail (s : State) (due n : Nat) (a : Act) : (s.post due n a).nvmeTail = s.nvmeTail := rfl
@[simp] theorem State.post_sgUp (s : State) (due n : Nat) (a : Act) : (s.post due n a).sgUp = s.sgUp := rfl

/-! ### Cores and registers of the package read back -/

/-- A core reads as it was last set. -/
@[simp] theorem State.core_setCore_self (s : State) (n : Nat) (c : Core) : (s.setCore n c).core n = c :=
  SMap.get_set_self _ _ _ _

/-- Setting a core leaves every other core as it was. -/
theorem State.core_setCore_ne (s : State) (n m : Nat) (c : Core) (h : m ≠ n) : (s.setCore n c).core m = s.core m :=
  SMap.get_set_ne _ _ _ _ _ h

/-- A turn posted leaves every core as it was. -/
@[simp] theorem State.core_post (s : State) (due n m : Nat) (a : Act) : (s.post due n a).core m = s.core m := rfl

/-- A register of BAR0 reads as it was last set. -/
@[simp] theorem State.reg_setReg_self (s : State) (off : Nat) (x : Word) : (s.setReg off x).reg off = x :=
  SMap.get_set_self _ _ _ _

/-- Setting a register of BAR0 leaves every other one as it was. -/
theorem State.reg_setReg_ne (s : State) (off k : Nat) (x : Word) (h : k ≠ off) : (s.setReg off x).reg k = s.reg k :=
  SMap.get_set_ne _ _ _ _ _ h

/-- A partition's run-time state reads as it was last set. -/
@[simp] theorem State.partition_setPartition_self (s : State) (i : Nat) (p : Partition) :
    (s.setPartition i p).partition i = p := SMap.get_set_self _ _ _ _

/-- Setting a partition's run-time state leaves every other partition's as it was. -/
theorem State.partition_setPartition_ne (s : State) (i k : Nat) (p : Partition) (h : k ≠ i) :
    (s.setPartition i p).partition k = s.partition k := SMap.get_set_ne _ _ _ _ _ h

/-- A Chorus context reads as it was last set. -/
@[simp] theorem State.unitOf_setUnit_self (s : State) (l v u : Nat) (c : Chorus) : (s.setUnit l v u c).unitOf l v u = c :=
  SMap.get_set_self _ _ _ _

/-- A boarding context reads as it was last set. -/
@[simp] theorem State.ctx_setCtx_self (s : State) (k : Nat) (x : BoardCtx) : (s.setCtx k x).ctx k = x :=
  SMap.get_set_self _ _ _ _

end Sys2Proof.Machine
end

