-- ==== Sys2Proof/Laws/Issue.lean ====
section
/-! SUPPORT. What issue, completion and a transfer can do: one lemma for each shared operation. -/

namespace Sys2Proof.Machine

@[simp] theorem State.outside_setCore (s : State) (n : Nat) (c : Core) : (s.setCore n c).outside = s.outside := rfl

/-! ### Issue leaves every other field as it was -/

@[simp] theorem Core.glob_issued (c : Core) (t : Nat) : (c.issued t).glob = c.glob := rfl
@[simp] theorem Core.stack_issued (c : Core) (t : Nat) : (c.issued t).stack = c.stack := rfl
@[simp] theorem Core.hbank_issued (c : Core) (t : Nat) : (c.issued t).hbank = c.hbank := rfl
@[simp] theorem Core.vec_issued (c : Core) (t : Nat) : (c.issued t).vec = c.vec := rfl
@[simp] theorem Core.pc_issued (c : Core) (t : Nat) : (c.issued t).pc = c.pc := rfl
@[simp] theorem Core.fbuf_issued (c : Core) (t : Nat) : (c.issued t).fbuf = c.fbuf := rfl
@[simp] theorem Core.estat_issued (c : Core) (t : Nat) : (c.issued t).estat = c.estat := rfl
@[simp] theorem Core.epc_issued (c : Core) (t : Nat) : (c.issued t).epc = c.epc := rfl
@[simp] theorem Core.ecause_issued (c : Core) (t : Nat) : (c.issued t).ecause = c.ecause := rfl
@[simp] theorem Core.eaddr_issued (c : Core) (t : Nat) : (c.issued t).eaddr = c.eaddr := rfl
@[simp] theorem Core.tvec_issued (c : Core) (t : Nat) : (c.issued t).tvec = c.tvec := rfl
@[simp] theorem Core.px_issued (c : Core) (t : Nat) : (c.issued t).px = c.px := rfl
@[simp] theorem Core.res_issued (c : Core) (t : Nat) : (c.issued t).res = c.res := rfl
@[simp] theorem Core.slot_issued (c : Core) (t : Nat) : (c.issued t).slot = c.slot := rfl
@[simp] theorem Core.wstk_issued (c : Core) (t : Nat) : (c.issued t).wstk = c.wstk := rfl
@[simp] theorem Core.rasb_issued (c : Core) (t : Nat) : (c.issued t).rasb = c.rasb := rfl
@[simp] theorem Core.ras_issued (c : Core) (t : Nat) : (c.issued t).ras = c.ras := rfl
@[simp] theorem Core.rasSaved_issued (c : Core) (t : Nat) : (c.issued t).rasSaved = c.rasSaved := rfl
@[simp] theorem Core.reps_issued (c : Core) (t : Nat) : (c.issued t).reps = c.reps := rfl
@[simp] theorem Core.tcmp_issued (c : Core) (t : Nat) : (c.issued t).tcmp = c.tcmp := rfl
@[simp] theorem Core.lc0_issued (c : Core) (t : Nat) : (c.issued t).lc0 = c.lc0 := rfl
@[simp] theorem Core.ls0_issued (c : Core) (t : Nat) : (c.issued t).ls0 = c.ls0 := rfl
@[simp] theorem Core.le0_issued (c : Core) (t : Nat) : (c.issued t).le0 = c.le0 := rfl
@[simp] theorem Core.lc1_issued (c : Core) (t : Nat) : (c.issued t).lc1 = c.lc1 := rfl
@[simp] theorem Core.ls1_issued (c : Core) (t : Nat) : (c.issued t).ls1 = c.ls1 := rfl
@[simp] theorem Core.le1_issued (c : Core) (t : Nat) : (c.issued t).le1 = c.le1 := rfl
@[simp] theorem Core.prot_issued (c : Core) (t : Nat) : (c.issued t).prot = c.prot := rfl
@[simp] theorem Core.part_issued (c : Core) (t : Nat) : (c.issued t).part = c.part := rfl
@[simp] theorem Core.wid_issued (c : Core) (t : Nat) : (c.issued t).wid = c.wid := rfl
@[simp] theorem Core.geom_issued (c : Core) (t : Nat) : (c.issued t).geom = c.geom := rfl
@[simp] theorem Core.ssc_issued (c : Core) (t : Nat) : (c.issued t).ssc = c.ssc := rfl
@[simp] theorem Core.mfr_issued (c : Core) (t : Nat) : (c.issued t).mfr = c.mfr := rfl
@[simp] theorem Core.tsm_issued (c : Core) (t : Nat) : (c.issued t).tsm = c.tsm := rfl
@[simp] theorem Core.lacci_issued (c : Core) (t : Nat) : (c.issued t).lacci = c.lacci := rfl
@[simp] theorem Core.accounts_issued (c : Core) (t : Nat) : (c.issued t).accounts = c.accounts := rfl
@[simp] theorem Core.inbox_issued (c : Core) (t : Nat) : (c.issued t).inbox = c.inbox := rfl
@[simp] theorem Core.gie_issued (c : Core) (t : Nat) : (c.issued t).gie = c.gie := rfl
@[simp] theorem Core.budget_issued (c : Core) (t : Nat) : (c.issued t).budget = c.budget := rfl
@[simp] theorem Core.blk_issued (c : Core) (t : Nat) : (c.issued t).blk = c.blk := rfl
@[simp] theorem Core.charges_issued (c : Core) (t : Nat) : (c.issued t).charges = c.charges := rfl
@[simp] theorem Core.counters_issued (c : Core) (t : Nat) : (c.issued t).counters = c.counters := rfl
@[simp] theorem Core.grantPend_issued (c : Core) (t : Nat) : (c.issued t).grantPend = c.grantPend := rfl
@[simp] theorem Core.grantIrq_issued (c : Core) (t : Nat) : (c.issued t).grantIrq = c.grantIrq := rfl
@[simp] theorem Core.grantReplay_issued (c : Core) (t : Nat) : (c.issued t).grantReplay = c.grantReplay := rfl
@[simp] theorem Core.routeSg_issued (c : Core) (t : Nat) : (c.issued t).routeSg = c.routeSg := rfl
@[simp] theorem Core.routeMask_issued (c : Core) (t : Nat) : (c.issued t).routeMask = c.routeMask := rfl
@[simp] theorem Core.slots_issued (c : Core) (t : Nat) : (c.issued t).slots = c.slots := rfl
@[simp] theorem Core.phase_issued (c : Core) (t : Nat) : (c.issued t).phase = c.phase := rfl
@[simp] theorem Core.clock_issued (c : Core) (t : Nat) : (c.issued t).clock = c.clock := rfl
@[simp] theorem Core.flight_issued (c : Core) (t : Nat) : (c.issued t).flight = c.flight := rfl
@[simp] theorem Core.var_issued (c : Core) (t : Nat) : (c.issued t).var = c.var := rfl
@[simp] theorem Core.varNext_issued (c : Core) (t : Nat) : (c.issued t).varNext = c.varNext := rfl
@[simp] theorem Core.memReady_issued (c : Core) (t : Nat) : (c.issued t).memReady = c.memReady := rfl
@[simp] theorem Core.freeAt_issued (c : Core) (t : Nat) : (c.issued t).freeAt = c.freeAt := rfl
@[simp] theorem Core.launch_issued (c : Core) (t : Nat) : (c.issued t).launch = c.launch := rfl
@[simp] theorem Core.walker_issued (c : Core) (t : Nat) : (c.issued t).walker = c.walker := rfl
@[simp] theorem Core.held_issued (c : Core) (t : Nat) : (c.issued t).held = c.held := rfl
@[simp] theorem Core.reported_issued (c : Core) (t : Nat) : (c.issued t).reported = c.reported := rfl
@[simp] theorem Core.reqSeq_issued (c : Core) (t : Nat) : (c.issued t).reqSeq = c.reqSeq := rfl
@[simp] theorem Core.lastWrite_issued (c : Core) (t : Nat) : (c.issued t).lastWrite = c.lastWrite := rfl
@[simp] theorem Core.sliceFree_issued (c : Core) (t : Nat) : (c.issued t).sliceFree = c.sliceFree := rfl
@[simp] theorem Core.fetchFree_issued (c : Core) (t : Nat) : (c.issued t).fetchFree = c.fetchFree := rfl
@[simp] theorem Core.sliceQueue_issued (c : Core) (t : Nat) : (c.issued t).sliceQueue = c.sliceQueue := rfl
@[simp] theorem Core.sliceTurn_issued (c : Core) (t : Nat) : (c.issued t).sliceTurn = c.sliceTurn := rfl
@[simp] theorem Core.ranges_issued (c : Core) (t : Nat) : (c.issued t).ranges = c.ranges := rfl
@[simp] theorem Core.trace_issued (c : Core) (t : Nat) : (c.issued t).trace = c.trace := rfl

/-! ### Sequencing -/

@[simp] theorem Core.hm_issued (c : Core) (t : Nat) : (c.issued t).hm = c.hm := by
  show (statNoPrefix c.stat).getLsbD 5 = c.stat.getLsbD 5
  rw [getLsbD_statNoPrefix]
  rfl

@[simp] theorem Core.inRep_issued (c : Core) (t : Nat) : (c.issued t).inRep = c.inRep := by
  simp only [Core.inRep, Core.repLeft, Core.hm_issued, Core.reps_issued]

theorem Core.loopEnd_issued (c : Core) (t : Nat) (r : Word) (p q : LAddr) : (c.issued t).loopEnd r p q = c.loopEnd r p q := by
  simp only [Core.loopEnd, Core.hm_issued, Core.lc0_issued, Core.ls0_issued, Core.le0_issued, Core.lc1_issued, Core.ls1_issued, Core.le1_issued]

/-- Issue changes nothing that the loop and repetition rules read (R26, R109, R112). -/
theorem Core.advance_issued (c : Core) (t : Nat) (last : Bool) : (c.issued t).advance last = c.advance last := by
  have hp : (c.issued t).repPos = c.repPos := by simp only [Core.repPos, Core.reps_issued]
  have hl : (c.issued t).repLen = c.repLen := by simp only [Core.repLen, Core.reps_issued]
  have hf : (c.issued t).repLeft = c.repLeft := by simp only [Core.repLeft, Core.reps_issued]
  have hb : (c.issued t).repBase = c.repBase := by simp only [Core.repBase, Core.reps_issued]
  unfold Core.advance
  simp only [Core.loopEnd_issued]
  rw [Core.inRep_issued, hp, hl, hf, hb, Core.pc_issued, Core.reps_issued, Core.lc0_issued, Core.lc1_issued]

/-! ### What completion and transfers do -/

/-- The bytes of a line as a core would fetch it depend on its fetch buffer and on memory only (R21). -/
theorem State.viewLine_line_congr {s s' : State} {n : Nat} (hf : (s'.core n).fbuf = (s.core n).fbuf) (hm : s'.mem = s.mem) (num : Nat) :
    (s'.viewLine n num).line = (s.viewLine n num).line := by
  have hb : (s'.core n).buffered num = (s.core n).buffered num := by rw [Core.buffered, Core.buffered, hf]
  simp only [State.viewLine, hb]
  cases (s.core n).buffered num with
  | some l => rfl
  | none => simp only [State.readLine, hm]

theorem State.slotAt_congr {s s' : State} {n : Nat} (hf : (s'.core n).fbuf = (s.core n).fbuf) (hm : s'.mem = s.mem) (p : LAddr) :
    s'.slotAt n p = s.slotAt n p := by
  rw [State.slotAt, State.slotAt, State.viewLine_line_congr hf hm]

/-- Whether a target is bad depends on the core's fetch buffer and on memory only (R45). -/
theorem State.badTarget_congr {s s' : State} {n : Nat} (hf : (s'.core n).fbuf = (s.core n).fbuf) (hm : s'.mem = s.mem) (p : LAddr) :
    s'.badTarget n p = s.badTarget n p := by
  rw [State.badTarget, State.badTarget, State.slotAt_congr hf hm]

@[simp] theorem Core.fbuf_advanceTo (c : Core) (a : Advance) (p : LAddr) : (c.advanceTo a p).fbuf = c.fbuf := rfl

/-- Going to an address sets PC, the delay and the fetch buffer of that core, and nothing else of it. -/
theorem State.core_goto (s : State) (n : Nat) (p : LAddr) (d : Nat) :
    (s.goto n p d).core n = (s.core n).placed p (s.linesFrom n p) d ((s.core n).fetchUntil s.now p) := State.core_setCore_self _ _ _

theorem State.core_goto_ne (s : State) (n m : Nat) (p : LAddr) (d : Nat) (h : m ≠ n) : (s.goto n p d).core m = s.core m :=
  State.core_setCore_ne _ _ _ _ h

/-- A state whose core `n` is `c`, with PC placed, and that is otherwise as `s` is. -/
structure State.PlacedFrom (s : State) (n : Nat) (c : Core) (p : LAddr) (s' : State) : Prop where
  core : ∃ b d f, s'.core n = c.placed p b d f
  outside : s'.outside = s.outside
  now : s'.now = s.now
  others : ∀ m, m ≠ n → s'.core m = s.core m

theorem State.placedFrom_goto (s : State) (n : Nat) (c : Core) (p : LAddr) (d : Nat) :
    s.PlacedFrom n c p ((s.setCore n c).goto n p d) where
  core := ⟨_, _, _, by rw [State.core_goto, State.core_setCore_self]⟩
  outside := State.outside_setCore _ _ _
  now := State.setCore_now _ _ _
  others m hm := by rw [State.core_goto_ne _ _ _ _ _ hm, State.core_setCore_ne _ _ _ _ hm]

/-- Completion without a bad loop-back: the core moves on by the loop and repetition rules, and nothing else of the machine changes (R43, R109, R112). -/
theorem State.complete_straight (s : State) (n t : Nat) (last : Bool)
    (h : ((s.core n).advance last).back = true → s.badTarget n ((s.core n).advance last).next = false) :
    s.PlacedFrom n (((s.core n).issued t).advanceTo ((s.core n).advance last) ((s.core n).advance last).next)
      ((s.core n).advance last).next (s.complete n t last) := by
  have hb : ∀ x, (s.setCore n (((s.core n).issued t).advanceTo ((s.core n).advance last) ((s.core n).advance last).next)).badTarget n x
      = s.badTarget n x := by
    intro x
    apply State.badTarget_congr
    · rw [State.core_setCore_self, Core.fbuf_advanceTo, Core.fbuf_issued]
    · rw [State.setCore_mem]
  have hc : (((s.core n).advance last).back && s.badTarget n ((s.core n).advance last).next) = false := by
    cases hk : ((s.core n).advance last).back with
    | false => rfl
    | true => rw [h hk]; rfl
  unfold State.complete
  simp only [hb, hc, Bool.false_eq_true, if_false]
  exact State.placedFrom_goto _ _ _ _ _

/-- A taken transfer: PC is at the target, and neither a loop nor a repetition moves on (R107). -/
theorem State.transfer_spec (s : State) (n t : Nat) (p : LAddr) : s.PlacedFrom n ((s.core n).issued t) p (s.transfer n t p) :=
  State.placedFrom_goto _ _ _ _ _

/-- PC set by an instruction's own rule: as for a transfer, but for the delay (R108, R111). -/
theorem State.moveTo_spec (s : State) (n t : Nat) (p : LAddr) : s.PlacedFrom n ((s.core n).issued t) p (s.moveTo n t p) :=
  State.placedFrom_goto _ _ _ _ _

/-! ### Completion as claims say it -/

/-- A core that differs from another in the governor's record only. -/
def Core.Noted (c x : Core) : Prop := ∃ ch hist, x = { c with charged := ch, charges := hist }

theorem Core.Noted.kept {c x : Core} (h : c.Noted x) : x.kept = c.kept := by
  obtain ⟨_, _, rfl⟩ := h; rfl
theorem Core.Noted.flight {c x : Core} (h : c.Noted x) : x.flight = c.flight := by
  obtain ⟨_, _, rfl⟩ := h; rfl
theorem Core.Noted.readG {c x : Core} (h : c.Noted x) (n : Field) : x.readG n = c.readG n := by
  obtain ⟨_, _, rfl⟩ := h; rfl
theorem Core.Noted.readV {c x : Core} (h : c.Noted x) (n : Nat) : x.readV n = c.readV n := by
  obtain ⟨_, _, rfl⟩ := h; rfl
theorem Core.Noted.phys {c x : Core} (h : c.Noted x) (n : Field) : x.phys n = c.phys n := by
  obtain ⟨_, _, rfl⟩ := h; rfl
theorem Core.Noted.advance {c x : Core} (h : c.Noted x) (l : Bool) : x.advance l = c.advance l := by
  obtain ⟨_, _, rfl⟩ := h; rfl
theorem Core.Noted.clock {c x : Core} (h : c.Noted x) : x.clock = c.clock := by
  obtain ⟨_, _, rfl⟩ := h; rfl

theorem Core.kept_placed (c : Core) (t : Nat) (a : Advance) (p q : LAddr) (b : List FetchedLine) (d f : Nat) :
    (((c.issued t).advanceTo a p).placed q b d f).kept = c.kept := by
  simp only [Core.kept, Core.placed, Core.advanceTo, Core.issued, Core.consume, statNoPrefix_idem]

theorem Core.kept_placed' (c : Core) (t : Nat) (q : LAddr) (b : List FetchedLine) (d f : Nat) :
    ((c.issued t).placed q b d f).kept = c.kept := by
  simp only [Core.kept, Core.placed, Core.issued, Core.consume, statNoPrefix_idem]
theorem Core.pp_issued (c : Core) (t : Nat) : (c.issued t).pp = false := by
  show (statNoPrefix c.stat).getLsbD 0 = false
  rw [getLsbD_statNoPrefix]
  rfl

/-- An effect that ends in completion leaves the machine as `State.Completes` says. -/
theorem State.completes_complete (s w : State) (t : Nat) (c : Core) (hnow : w.now = max s.now t)
    (hoth : ∀ m, m ≠ s.cur → w.core m = s.core m) (hc : c.Noted (w.core s.cur))
    (hst : (c.advance (s.lastHead s.cur)).back = true → w.badTarget s.cur (c.advance (s.lastHead s.cur)).next = false) :
    s.Completes t w c (w.complete s.cur t (s.lastHead s.cur)) := by
  have hP := State.complete_straight w s.cur t (s.lastHead s.cur) (by rw [hc.advance]; exact hst)
  rw [hc.advance] at hP
  obtain ⟨b, d, f, hcore⟩ := hP.core
  constructor
  · rw [hP.now, hnow]
  · exact hP.outside
  · exact fun m hm => (hP.others m hm).trans (hoth m hm)
  · rw [hcore, Core.kept_placed, hc.kept]
  · rw [hcore, ← hc.flight]; rfl
  · rw [hcore]; rfl
  · rw [hcore]; rfl
  · rw [hcore]; rfl
  · rw [hcore]; rfl
  · rw [hcore]; exact Core.pp_issued _ t
  · rw [hcore]; rfl

/-- An effect that ends in a transfer leaves the machine as `State.Transfers` says. -/
theorem State.transfers_of_placed (s w s' : State) (t : Nat) (c : Core) (p : LAddr) (hnow : w.now = max s.now t)
    (hoth : ∀ m, m ≠ s.cur → w.core m = s.core m) (hc : c.Noted (w.core s.cur))
    (hP : w.PlacedFrom s.cur ((w.core s.cur).issued t) p s') : s.Transfers t w c p s' := by
  obtain ⟨b, d, f, hcore⟩ := hP.core
  constructor
  · rw [hP.now, hnow]
  · exact hP.outside
  · exact fun m hm => (hP.others m hm).trans (hoth m hm)
  · rw [hcore, Core.kept_placed', hc.kept]
  · rw [hcore, ← hc.flight]; rfl
  · rw [hcore]; rfl
  · rw [hcore, show c.reps = (w.core s.cur).reps from by obtain ⟨_, _, h⟩ := hc; rw [h]]; rfl
  · rw [hcore, show c.lc0 = (w.core s.cur).lc0 from by obtain ⟨_, _, h⟩ := hc; rw [h]]; rfl
  · rw [hcore, show c.lc1 = (w.core s.cur).lc1 from by obtain ⟨_, _, h⟩ := hc; rw [h]]; rfl
  · rw [hcore]; exact Core.pp_issued _ t
  · rw [hcore]; rfl

/-! ### The machine at an instruction's issue -/

@[simp] theorem State.atIssue_cur (s : State) (g : Sig) (t : Nat) : (s.atIssue g t).cur = s.cur := rfl

@[simp] theorem State.atIssue_now (s : State) (g : Sig) (t : Nat) : (s.atIssue g t).now = max s.now t := rfl

@[simp] theorem State.atIssue_outside (s : State) (g : Sig) (t : Nat) : (s.atIssue g t).outside = s.outside := rfl

@[simp] theorem State.atIssue_mem (s : State) (g : Sig) (t : Nat) : (s.atIssue g t).mem = s.mem := rfl

theorem Core.noted_charge (c : Core) (t w : Nat) : c.Noted (c.charge t w) := by
  unfold Core.charge
  simp only
  split
  · exact ⟨_, _, rfl⟩
  · exact ⟨_, _, rfl⟩

/-- At issue the core is as it stands at that time, but for the governor's record. -/
theorem State.noted_atIssue (s : State) (g : Sig) (t : Nat) : (s.coreAt t).Noted ((s.atIssue g t).core s.cur) := by
  unfold State.atIssue State.chargeCore State.arrive
  rw [State.core_setCore_self, State.core_setCore_self]
  exact Core.noted_charge _ _ _

theorem State.core_atIssue_ne (s : State) (g : Sig) (t m : Nat) (h : m ≠ s.cur) : (s.atIssue g t).core m = s.core m := by
  unfold State.atIssue State.chargeCore State.arrive
  rw [State.core_setCore_ne _ _ _ _ h, State.core_setCore_ne _ _ _ _ h]
  rfl

/-- An instruction that issues does what its effect comes to. -/
theorem issue_go {s : State} {g : Sig} {raw o : Opnd} {t : Nat} (h : s.Issues g raw t o) (effect : Opnd → State → Result) :
    issue g raw s effect =
      .next (State.finish (s.arrive s.cur t) (s.atIssue g t) s.cur t (s.lastHead s.cur) (effect o (s.atIssue g t))) := by
  have hr : s.interruptIn s.cur g.op (.go t o) = none := by
    unfold State.interruptIn
    simp only [Gate.time, Option.getD_some]
    rcases h.noInterrupt with h1 | h1 | h1 <;> simp [h1]
  unfold issue
  simp only [h.issues, h.go, hr, h.notHeld, Bool.not_true, Bool.false_eq_true, if_false]
  rfl

/-! ### Register results -/

/-- Results of the instruction that issues now are on their way, and nothing else changes (R49). -/
theorem State.core_after (s : State) (lat : Nat) (ds : List Dest) :
    (s.after lat ds).core s.cur = (s.core s.cur).getsAll (s.now + lat * (s.core s.cur).clock.pipePeriod) ds :=
  State.core_setCore_self _ _ _

theorem State.core_after_ne (s : State) (lat : Nat) (ds : List Dest) (m : Nat) (h : m ≠ s.cur) : (s.after lat ds).core m = s.core m :=
  State.core_setCore_ne _ _ _ _ h

@[simp] theorem State.after_outside (s : State) (lat : Nat) (ds : List Dest) : (s.after lat ds).outside = s.outside := rfl

@[simp] theorem State.after_now (s : State) (lat : Nat) (ds : List Dest) : (s.after lat ds).now = s.now := rfl

@[simp] theorem State.after_mem (s : State) (lat : Nat) (ds : List Dest) : (s.after lat ds).mem = s.mem := rfl

theorem Core.Noted.getsAll {c x : Core} (h : c.Noted x) (due : Nat) (ds : List Dest) : (c.getsAll due ds).Noted (x.getsAll due ds) := by
  obtain ⟨a, b, rfl⟩ := h
  exact ⟨a, b, rfl⟩

theorem Core.advance_getsAll (c : Core) (due : Nat) (ds : List Dest) (l : Bool) : (c.getsAll due ds).advance l = c.advance l := rfl

/-- Writing results changes nothing but registers, flags and WID. -/
theorem Core.fbuf_apply (c : Core) (d : Dest) : (c.apply d).fbuf = c.fbuf := by
  rcases d with ⟨_ | r, x⟩ | _ | _ | _ | _ <;> first | rfl | (cases r <;> rfl)

theorem Core.fbuf_foldl_apply (ds : List Dest) (c : Core) : (ds.foldl Core.apply c).fbuf = c.fbuf := by
  induction ds generalizing c with
  | nil => rfl
  | cons d ds ih => rw [List.foldl_cons, ih, Core.fbuf_apply]

/-- Results that arrive change nothing but registers, flags and WID. -/
theorem Core.at_fbuf (c : Core) (t : Nat) : (c.at t).fbuf = c.fbuf := by
  have h1 : ∀ (fs : List Flight) (c : Core), (fs.foldl (fun k f => k.apply f.dest) c).fbuf = c.fbuf := by
    intro fs
    induction fs with
    | nil => intro c; rfl
    | cons f fs ih => intro c; rw [List.foldl_cons, ih, Core.fbuf_apply]
  have h2 : ∀ (vs : List VarResult) (c : Core), (vs.foldl (fun k v => v.writes.foldl Core.apply k) c).fbuf = c.fbuf := by
    intro vs
    induction vs with
    | nil => intro c; rfl
    | cons v vs ih => intro c; rw [List.foldl_cons, ih, Core.fbuf_foldl_apply]
  show (((c.settle t).var.filter (fun v => v.arrived t)).foldl (fun k v => v.writes.foldl Core.apply k) (c.settle t)).fbuf = c.fbuf
  rw [h2]
  exact h1 _ _

/-- Whether a target is bad at an instruction's issue (R45). -/
theorem State.badTarget_atIssue (s w : State) (t : Nat) (mem : Memory) (hm : w.mem = mem) (hc : (w.core s.cur).fbuf = (s.coreAt t).fbuf) (p : LAddr) :
    w.badTarget s.cur p = { s with mem := mem }.badTarget s.cur p := by
  apply State.badTarget_congr
  · rw [hc]; exact Core.at_fbuf _ _
  · exact hm

theorem State.completes_congr {s w w' s' : State} {t : Nat} {c : Core} (h : s.Completes t w c s') (e : w'.outside = w.outside) :
    s.Completes t w' c s' := { h with outside := h.outside.trans e.symm }

/-- An instruction whose effect is register results completes with them on their way. -/
theorem issue_after {s : State} {g : Sig} {raw o : Opnd} {t : Nat} (h : s.Issues g raw t o) (effect : Opnd → State → Result)
    (lat : Nat) (ds : List Dest) (he : effect o (s.atIssue g t) = .done ((s.atIssue g t).after lat ds))
    (hst : s.Straight (s.coreAt t) s.mem) :
    ∃ s', issue g raw s effect = .next s' ∧
      s.Completes t s ((s.coreAt t).getsAll (max s.now t + lat * (s.coreAt t).clock.pipePeriod) ds) s' := by
  have hn := s.noted_atIssue g t
  have hk : ((s.atIssue g t).after lat ds).core s.cur =
      ((s.atIssue g t).core s.cur).getsAll (max s.now t + lat * (s.coreAt t).clock.pipePeriod) ds := by
    have hx := State.core_after (s.atIssue g t) lat ds
    rw [State.atIssue_cur, State.atIssue_now, hn.clock] at hx
    exact hx
  have hg := issue_go h effect
  rw [he, State.finish] at hg
  refine ⟨_, hg, State.completes_congr (State.completes_complete s ((s.atIssue g t).after lat ds) t
    ((s.coreAt t).getsAll (max s.now t + lat * (s.coreAt t).clock.pipePeriod) ds) ?_ ?_ ?_ ?_) ?_⟩
  · rw [State.after_now, State.atIssue_now]
  · intro m hm
    rw [State.core_after_ne _ _ _ _ (by rw [State.atIssue_cur]; exact hm), State.core_atIssue_ne _ _ _ _ hm]
  · rw [hk]; exact hn.getsAll _ _
  · intro hb
    rw [Core.advance_getsAll] at hb ⊢
    rw [State.badTarget_atIssue s ((s.atIssue g t).after lat ds) t s.mem (by rw [State.after_mem, State.atIssue_mem])]
    · exact hst hb
    · rw [hk]
      obtain ⟨_, _, e⟩ := hn
      rw [e]; rfl
  · rw [State.after_outside, State.atIssue_outside]

end Sys2Proof.Machine
end

