-- ==== Sys2Proof/Laws/Integer.lean ====
section
/-! SUPPORT. Integer operands and results as patterns of bits (R35, R88). -/

namespace Sys2Proof.Machine

theorem signExt_eq (x n : Nat) : signExt x n = (BitVec.ofNat n x).toInt := by
  unfold signExt
  rw [BitVec.toInt_eq_toNat_cond, BitVec.toNat_ofNat]
  rcases n with _ | n
  · simp [Nat.mod_one]
  · have h : x % 2 ^ (n + 1) < 2 ^ (n + 1) := Nat.mod_lt _ (by positivity)
    have e : 2 ^ (n + 1) = 2 * 2 ^ n := by ring
    simp only [Nat.add_sub_cancel]
    by_cases hc : 2 ^ n ≤ x % 2 ^ (n + 1)
    · rw [if_pos ⟨by omega, hc⟩, if_neg (by omega)]; push_cast; ring
    · rw [if_neg (by tauto), if_pos (by omega)]

/-- ReadT is the pattern read as its type says (R88). -/
theorem readGT_eq (c : Core) (r : Field) (t : IType) : c.readGT r t = readAs t.signed (c.typed r t.width) := by
  unfold Core.readGT readT readAs Core.typed
  split
  · rw [signExt_eq, BitVec.ofNat_toNat]
  · simp [zeroExt, BitVec.toNat_setWidth]

theorem truncI_eq (v : Int) (n : Nat) : truncI v n = (BitVec.ofInt n v).toNat := by
  simp [truncI, BitVec.toNat_ofInt]

/-- WriteT stores the low bits of a value, extended (R88). -/
theorem writeT_eq (v : Int) (t : IType) : writeT v t = extended t.signed (BitVec.ofInt t.width v) := by
  unfold writeT extended
  simp only [truncI_eq]
  split
  · rw [signExt_eq, wordOf, BitVec.ofNat_toNat, BitVec.setWidth_eq]; rfl
  · apply BitVec.eq_of_toNat_eq; simp

theorem ofInt_readAs {n : Nat} (s : Bool) (x : BitVec n) : BitVec.ofInt n (readAs s x) = x := by
  unfold readAs; split <;> simp
theorem pat_readAs {n : Nat} (s : Bool) (x : BitVec n) : pat (readAs s x) n = x.toNat := by
  rw [pat, truncI_eq, ofInt_readAs]

end Sys2Proof.Machine
end

