-- ==== Sys2Proof/Laws/PerInstr.lean ====
section
/-! SUPPORT. Each constructor's encoding is decoded back to it: the family of lemmas that the statement about decoding rests on. -/

namespace Sys2Proof.Laws

/-- The bits of a field within a joined pair: those of the low part. -/
theorem extract_low {n m : Nat} (x : BitVec n) (y : BitVec m) (s w : Nat) (h : s + w ≤ m) : (x ++ y).extractLsb' s w = y.extractLsb' s w := by
  apply BitVec.eq_of_getLsbD_eq
  intro i hi
  rw [BitVec.getLsbD_extractLsb', BitVec.getLsbD_extractLsb', BitVec.getLsbD_append, if_pos (by omega)]

/-- The bits of a field within a joined pair: those of the high part. -/
theorem extract_high {n m : Nat} (x : BitVec n) (y : BitVec m) (s w : Nat) (h : m ≤ s) : (x ++ y).extractLsb' s w = x.extractLsb' (s - m) w := by
  apply BitVec.eq_of_getLsbD_eq
  intro i hi
  rw [BitVec.getLsbD_extractLsb', BitVec.getLsbD_extractLsb', BitVec.getLsbD_append, if_neg (by omega), show s + i - m = s - m + i by omega]

/-- The bits of a field within a widened tail. -/
theorem extract_wide {n k : Nat} (x : BitVec n) (h : n = k) (s w : Nat) (hk : s + w ≤ k) (h64 : k ≤ 64) :
    ((x.cast h).setWidth 64).extractLsb' s w = x.extractLsb' s w := by
  subst h
  apply BitVec.eq_of_getLsbD_eq
  intro i hi
  rw [BitVec.getLsbD_extractLsb', BitVec.getLsbD_extractLsb', BitVec.getLsbD_setWidth, BitVec.getLsbD_cast]
  simp only [hi, decide_true, Bool.true_and]
  rw [decide_eq_true (by omega), Bool.true_and]

/-- All bits of a field. -/
theorem extract_all {n : Nat} (x : BitVec n) : x.extractLsb' 0 n = x := by
  apply BitVec.eq_of_getLsbD_eq
  intro i hi
  rw [BitVec.getLsbD_extractLsb', decide_eq_true hi, Bool.true_and, Nat.zero_add]

/-- A tail of form H survives its integer. -/
theorem ofBits_H (t : TailH) : TailH.ofBits (t.toBits.setWidth 64) = t := by
  obtain ⟨a, b, f⟩ := t
  unfold TailH.ofBits TailH.toBits
  refine TailH.mk.injEq .. |>.mpr ⟨?_, ?_, ?_⟩
  · rw [extract_wide _ _ 0 6 (by omega) (by omega), extract_low _ _ 0 6 (by omega)]; exact extract_all a
  · rw [extract_wide _ _ 6 6 (by omega) (by omega), extract_high _ _ 6 6 (by omega), extract_low _ _ _ 6 (by omega)]; exact extract_all b
  · rw [extract_wide _ _ 12 4 (by omega) (by omega), extract_high _ _ 12 4 (by omega), extract_high _ _ _ 4 (by omega)]; exact extract_all f

/-- A tail of form W survives its integer. -/
theorem ofBits_W (t : TailW) : TailW.ofBits (t.toBits.setWidth 64) = t := by
  obtain ⟨d, a, b, c, m⟩ := t
  unfold TailW.ofBits TailW.toBits
  refine TailW.mk.injEq .. |>.mpr ⟨?_, ?_, ?_, ?_, ?_⟩
  · rw [extract_wide _ _ 0 6 (by omega) (by omega), extract_low _ _ 0 6 (by omega)]; exact extract_all d
  · rw [extract_wide _ _ 6 6 (by omega) (by omega), extract_high _ _ 6 6 (by omega), extract_low _ _ _ 6 (by omega)]; exact extract_all a
  · rw [extract_wide _ _ 12 6 (by omega) (by omega), extract_high _ _ 12 6 (by omega), extract_high _ _ _ 6 (by omega), extract_low _ _ _ 6 (by omega)]; exact extract_all b
  · rw [extract_wide _ _ 18 6 (by omega) (by omega), extract_high _ _ 18 6 (by omega), extract_high _ _ _ 6 (by omega), extract_high _ _ _ 6 (by omega), extract_low _ _ _ 6 (by omega)]; exact extract_all c
  · rw [extract_wide _ _ 24 8 (by omega) (by omega), extract_high _ _ 24 8 (by omega), extract_high _ _ _ 8 (by omega), extract_high _ _ _ 8 (by omega), extract_high _ _ _ 8 (by omega)]; exact extract_all m

/-- A tail of form I survives its integer. -/
theorem ofBits_I (t : TailI) : TailI.ofBits (t.toBits.setWidth 64) = t := by
  obtain ⟨d, a, imm⟩ := t
  unfold TailI.ofBits TailI.toBits
  refine TailI.mk.injEq .. |>.mpr ⟨?_, ?_, ?_⟩
  · rw [extract_wide _ _ 0 6 (by omega) (by omega), extract_low _ _ 0 6 (by omega)]; exact extract_all d
  · rw [extract_wide _ _ 6 6 (by omega) (by omega), extract_high _ _ 6 6 (by omega), extract_low _ _ _ 6 (by omega)]; exact extract_all a
  · rw [extract_wide _ _ 12 20 (by omega) (by omega), extract_high _ _ 12 20 (by omega), extract_high _ _ _ 20 (by omega)]; exact extract_all imm

/-- A tail of form L survives its integer. -/
theorem ofBits_L (t : TailL) : TailL.ofBits (t.toBits.setWidth 64) = t := by
  obtain ⟨d, a, b, imm⟩ := t
  unfold TailL.ofBits TailL.toBits
  refine TailL.mk.injEq .. |>.mpr ⟨?_, ?_, ?_, ?_⟩
  · rw [extract_wide _ _ 0 6 (by omega) (by omega), extract_low _ _ 0 6 (by omega)]; exact extract_all d
  · rw [extract_wide _ _ 6 6 (by omega) (by omega), extract_high _ _ 6 6 (by omega), extract_low _ _ _ 6 (by omega)]; exact extract_all a
  · rw [extract_wide _ _ 12 6 (by omega) (by omega), extract_high _ _ 12 6 (by omega), extract_high _ _ _ 6 (by omega), extract_low _ _ _ 6 (by omega)]; exact extract_all b
  · rw [extract_wide _ _ 18 30 (by omega) (by omega), extract_high _ _ 18 30 (by omega), extract_high _ _ _ 30 (by omega), extract_high _ _ _ 30 (by omega)]; exact extract_all imm

/-- A tail of form D survives its integer. -/
theorem ofBits_D (t : TailD) : TailD.ofBits (t.toBits.setWidth 64) = t := by
  obtain ⟨d, a, b, c, m, imm⟩ := t
  unfold TailD.ofBits TailD.toBits
  refine TailD.mk.injEq .. |>.mpr ⟨?_, ?_, ?_, ?_, ?_, ?_⟩
  · rw [extract_wide _ _ 0 6 (by omega) (by omega), extract_low _ _ 0 6 (by omega)]; exact extract_all d
  · rw [extract_wide _ _ 6 6 (by omega) (by omega), extract_high _ _ 6 6 (by omega), extract_low _ _ _ 6 (by omega)]; exact extract_all a
  · rw [extract_wide _ _ 12 6 (by omega) (by omega), extract_high _ _ 12 6 (by omega), extract_high _ _ _ 6 (by omega), extract_low _ _ _ 6 (by omega)]; exact extract_all b
  · rw [extract_wide _ _ 18 6 (by omega) (by omega), extract_high _ _ 18 6 (by omega), extract_high _ _ _ 6 (by omega), extract_high _ _ _ 6 (by omega), extract_low _ _ _ 6 (by omega)]; exact extract_all c
  · rw [extract_wide _ _ 24 8 (by omega) (by omega), extract_high _ _ 24 8 (by omega), extract_high _ _ _ 8 (by omega), extract_high _ _ _ 8 (by omega), extract_high _ _ _ 8 (by omega), extract_low _ _ _ 8 (by omega)]; exact extract_all m
  · rw [extract_wide _ _ 32 32 (by omega) (by omega), extract_high _ _ 32 32 (by omega), extract_high _ _ _ 32 (by omega), extract_high _ _ _ 32 (by omega), extract_high _ _ _ 32 (by omega), extract_high _ _ _ 32 (by omega)]; exact extract_all imm

/-- A tail's integer fits in its form. -/
theorem toBits_lt {n : Nat} (x : BitVec n) (h : n ≤ 64) : (x.setWidth 64).toNat < 2 ^ n := by
  rw [BitVec.toNat_setWidth, Nat.mod_eq_of_lt (Nat.lt_of_lt_of_le x.isLt (Nat.pow_le_pow_right (by decide) h))]
  exact x.isLt

/-- An instruction that has an encoding is what its opcode and its tail decode to, and its tail fits in the bytes that its opcode fixes (R40, R55 to R68). -/
def Coding.Statement (i : Instr) : Prop :=
  ∀ (op : Opcode) (bits : BitVec 64), i.wf = true → i.code = some (op, bits) → decodeInstr op bits = i ∧ bits.toNat < 2 ^ (8 * tailBytes op)

/-- An event has no encoding. -/
theorem Coding.event {i : Instr} (h : i.code = none) : Coding.Statement i := fun op bits _ hc => by rw [h] at hc; cases hc

/-- An instruction whose opcode and tail are known. -/
theorem Coding.coded {i : Instr} {o : Opcode} {b : BitVec 64} (h : i.code = some (o, b)) (hd : i.wf = true → decodeInstr o b = i)
    (hb : i.wf = true → b.toNat < 2 ^ (8 * tailBytes o)) : Coding.Statement i := fun op bits hw hc => by
  rw [h] at hc
  cases hc
  exact ⟨hd hw, hb hw⟩

theorem Coding.j (t : TailI) : Coding.Statement (.j t) := Coding.coded rfl (fun _ => congrArg Instr.j (ofBits_I t)) (fun _ => toBits_lt t.toBits (by decide))
theorem Coding.jr (t : TailH) : Coding.Statement (.jr t) := Coding.coded rfl (fun _ => congrArg Instr.jr (ofBits_H t)) (fun _ => toBits_lt t.toBits (by decide))
theorem Coding.call (t : TailI) : Coding.Statement (.call t) := Coding.coded rfl (fun _ => congrArg Instr.call (ofBits_I t)) (fun _ => toBits_lt t.toBits (by decide))
theorem Coding.callr (t : TailH) : Coding.Statement (.callr t) := Coding.coded rfl (fun _ => congrArg Instr.callr (ofBits_H t)) (fun _ => toBits_lt t.toBits (by decide))
theorem Coding.loop (t : TailL) : Coding.Statement (.loop t) := Coding.coded rfl (fun _ => congrArg Instr.loop (ofBits_L t)) (fun _ => toBits_lt t.toBits (by decide))
theorem Coding.rep (t : TailI) : Coding.Statement (.rep t) := Coding.coded rfl (fun _ => congrArg Instr.rep (ofBits_I t)) (fun _ => toBits_lt t.toBits (by decide))
theorem Coding.trap (t : TailI) : Coding.Statement (.trap t) := Coding.coded rfl (fun _ => congrArg Instr.trap (ofBits_I t)) (fun _ => toBits_lt t.toBits (by decide))
theorem Coding.mfc (t : TailI) : Coding.Statement (.mfc t) :=
  Coding.coded rfl (fun hw => by
    have hw' : (t.crNumber != wseNumber && t.crNumber != raseNumber) = true := hw
    have h : t.crNumber ≠ wseNumber ∧ t.crNumber ≠ raseNumber := by simpa using hw'
    show decodeCr (TailI.ofBits _) _ _ _ = _
    rw [ofBits_I, decodeCr, if_neg h.1, if_neg h.2]) (fun _ => toBits_lt t.toBits (by decide))
theorem Coding.mtc (t : TailI) : Coding.Statement (.mtc t) :=
  Coding.coded rfl (fun hw => by
    have hw' : (t.crNumber != wseNumber && t.crNumber != raseNumber) = true := hw
    have h : t.crNumber ≠ wseNumber ∧ t.crNumber ≠ raseNumber := by simpa using hw'
    show decodeCr (TailI.ofBits _) _ _ _ = _
    rw [ofBits_I, decodeCr, if_neg h.1, if_neg h.2]) (fun _ => toBits_lt t.toBits (by decide))
theorem Coding.gd (t : TailH) : Coding.Statement (.gd t) := Coding.coded rfl (fun _ => congrArg Instr.gd (ofBits_H t)) (fun _ => toBits_lt t.toBits (by decide))
theorem Coding.fmt (t : TailW) : Coding.Statement (.fmt t) := Coding.coded rfl (fun _ => congrArg Instr.fmt (ofBits_W t)) (fun _ => toBits_lt t.toBits (by decide))
theorem Coding.add (t : TailW) : Coding.Statement (.add t) := Coding.coded rfl (fun _ => congrArg Instr.add (ofBits_W t)) (fun _ => toBits_lt t.toBits (by decide))
theorem Coding.sub (t : TailW) : Coding.Statement (.sub t) := Coding.coded rfl (fun _ => congrArg Instr.sub (ofBits_W t)) (fun _ => toBits_lt t.toBits (by decide))
theorem Coding.mul (t : TailW) : Coding.Statement (.mul t) := Coding.coded rfl (fun _ => congrArg Instr.mul (ofBits_W t)) (fun _ => toBits_lt t.toBits (by decide))
theorem Coding.mulh (t : TailW) : Coding.Statement (.mulh t) := Coding.coded rfl (fun _ => congrArg Instr.mulh (ofBits_W t)) (fun _ => toBits_lt t.toBits (by decide))
theorem Coding.div (t : TailW) : Coding.Statement (.div t) := Coding.coded rfl (fun _ => congrArg Instr.div (ofBits_W t)) (fun _ => toBits_lt t.toBits (by decide))
theorem Coding.rem (t : TailW) : Coding.Statement (.rem t) := Coding.coded rfl (fun _ => congrArg Instr.rem (ofBits_W t)) (fun _ => toBits_lt t.toBits (by decide))
theorem Coding.and (t : TailW) : Coding.Statement (.and t) := Coding.coded rfl (fun _ => congrArg Instr.and (ofBits_W t)) (fun _ => toBits_lt t.toBits (by decide))
theorem Coding.or (t : TailW) : Coding.Statement (.or t) := Coding.coded rfl (fun _ => congrArg Instr.or (ofBits_W t)) (fun _ => toBits_lt t.toBits (by decide))
theorem Coding.xor (t : TailW) : Coding.Statement (.xor t) := Coding.coded rfl (fun _ => congrArg Instr.xor (ofBits_W t)) (fun _ => toBits_lt t.toBits (by decide))
theorem Coding.andn (t : TailW) : Coding.Statement (.andn t) := Coding.coded rfl (fun _ => congrArg Instr.andn (ofBits_W t)) (fun _ => toBits_lt t.toBits (by decide))
theorem Coding.orn (t : TailW) : Coding.Statement (.orn t) := Coding.coded rfl (fun _ => congrArg Instr.orn (ofBits_W t)) (fun _ => toBits_lt t.toBits (by decide))
theorem Coding.shl (t : TailW) : Coding.Statement (.shl t) := Coding.coded rfl (fun _ => congrArg Instr.shl (ofBits_W t)) (fun _ => toBits_lt t.toBits (by decide))
theorem Coding.shr (t : TailW) : Coding.Statement (.shr t) := Coding.coded rfl (fun _ => congrArg Instr.shr (ofBits_W t)) (fun _ => toBits_lt t.toBits (by decide))
theorem Coding.sar (t : TailW) : Coding.Statement (.sar t) := Coding.coded rfl (fun _ => congrArg Instr.sar (ofBits_W t)) (fun _ => toBits_lt t.toBits (by decide))
theorem Coding.rol (t : TailW) : Coding.Statement (.rol t) := Coding.coded rfl (fun _ => congrArg Instr.rol (ofBits_W t)) (fun _ => toBits_lt t.toBits (by decide))
theorem Coding.ror (t : TailW) : Coding.Statement (.ror t) := Coding.coded rfl (fun _ => congrArg Instr.ror (ofBits_W t)) (fun _ => toBits_lt t.toBits (by decide))
theorem Coding.min (t : TailW) : Coding.Statement (.min t) := Coding.coded rfl (fun _ => congrArg Instr.min (ofBits_W t)) (fun _ => toBits_lt t.toBits (by decide))
theorem Coding.max (t : TailW) : Coding.Statement (.max t) := Coding.coded rfl (fun _ => congrArg Instr.max (ofBits_W t)) (fun _ => toBits_lt t.toBits (by decide))
theorem Coding.adds (t : TailW) : Coding.Statement (.adds t) := Coding.coded rfl (fun _ => congrArg Instr.adds (ofBits_W t)) (fun _ => toBits_lt t.toBits (by decide))
theorem Coding.subs (t : TailW) : Coding.Statement (.subs t) := Coding.coded rfl (fun _ => congrArg Instr.subs (ofBits_W t)) (fun _ => toBits_lt t.toBits (by decide))
theorem Coding.abs (t : TailW) : Coding.Statement (.abs t) := Coding.coded rfl (fun _ => congrArg Instr.abs (ofBits_W t)) (fun _ => toBits_lt t.toBits (by decide))
theorem Coding.neg (t : TailW) : Coding.Statement (.neg t) := Coding.coded rfl (fun _ => congrArg Instr.neg (ofBits_W t)) (fun _ => toBits_lt t.toBits (by decide))
theorem Coding.clz (t : TailW) : Coding.Statement (.clz t) := Coding.coded rfl (fun _ => congrArg Instr.clz (ofBits_W t)) (fun _ => toBits_lt t.toBits (by decide))
theorem Coding.ctz (t : TailW) : Coding.Statement (.ctz t) := Coding.coded rfl (fun _ => congrArg Instr.ctz (ofBits_W t)) (fun _ => toBits_lt t.toBits (by decide))
theorem Coding.popc (t : TailW) : Coding.Statement (.popc t) := Coding.coded rfl (fun _ => congrArg Instr.popc (ofBits_W t)) (fun _ => toBits_lt t.toBits (by decide))
theorem Coding.brev (t : TailW) : Coding.Statement (.brev t) := Coding.coded rfl (fun _ => congrArg Instr.brev (ofBits_W t)) (fun _ => toBits_lt t.toBits (by decide))
theorem Coding.bswap (t : TailW) : Coding.Statement (.bswap t) := Coding.coded rfl (fun _ => congrArg Instr.bswap (ofBits_W t)) (fun _ => toBits_lt t.toBits (by decide))
theorem Coding.cmp (t : TailW) : Coding.Statement (.cmp t) := Coding.coded rfl (fun _ => congrArg Instr.cmp (ofBits_W t)) (fun _ => toBits_lt t.toBits (by decide))
theorem Coding.sel (t : TailW) : Coding.Statement (.sel t) := Coding.coded rfl (fun _ => congrArg Instr.sel (ofBits_W t)) (fun _ => toBits_lt t.toBits (by decide))
theorem Coding.bfx (t : TailW) : Coding.Statement (.bfx t) := Coding.coded rfl (fun _ => congrArg Instr.bfx (ofBits_W t)) (fun _ => toBits_lt t.toBits (by decide))
theorem Coding.bfi (t : TailW) : Coding.Statement (.bfi t) := Coding.coded rfl (fun _ => congrArg Instr.bfi (ofBits_W t)) (fun _ => toBits_lt t.toBits (by decide))
theorem Coding.bset (t : TailW) : Coding.Statement (.bset t) := Coding.coded rfl (fun _ => congrArg Instr.bset (ofBits_W t)) (fun _ => toBits_lt t.toBits (by decide))
theorem Coding.bclr (t : TailW) : Coding.Statement (.bclr t) := Coding.coded rfl (fun _ => congrArg Instr.bclr (ofBits_W t)) (fun _ => toBits_lt t.toBits (by decide))
theorem Coding.btgl (t : TailW) : Coding.Statement (.btgl t) := Coding.coded rfl (fun _ => congrArg Instr.btgl (ofBits_W t)) (fun _ => toBits_lt t.toBits (by decide))
theorem Coding.clmul (t : TailW) : Coding.Statement (.clmul t) := Coding.coded rfl (fun _ => congrArg Instr.clmul (ofBits_W t)) (fun _ => toBits_lt t.toBits (by decide))
theorem Coding.clmulh (t : TailW) : Coding.Statement (.clmulh t) := Coding.coded rfl (fun _ => congrArg Instr.clmulh (ofBits_W t)) (fun _ => toBits_lt t.toBits (by decide))
theorem Coding.addImm (t : TailL) : Coding.Statement (.addImm t) := Coding.coded rfl (fun _ => congrArg Instr.addImm (ofBits_L t)) (fun _ => toBits_lt t.toBits (by decide))
theorem Coding.mulImm (t : TailL) : Coding.Statement (.mulImm t) := Coding.coded rfl (fun _ => congrArg Instr.mulImm (ofBits_L t)) (fun _ => toBits_lt t.toBits (by decide))
theorem Coding.andImm (t : TailL) : Coding.Statement (.andImm t) := Coding.coded rfl (fun _ => congrArg Instr.andImm (ofBits_L t)) (fun _ => toBits_lt t.toBits (by decide))
theorem Coding.orImm (t : TailL) : Coding.Statement (.orImm t) := Coding.coded rfl (fun _ => congrArg Instr.orImm (ofBits_L t)) (fun _ => toBits_lt t.toBits (by decide))
theorem Coding.xorImm (t : TailL) : Coding.Statement (.xorImm t) := Coding.coded rfl (fun _ => congrArg Instr.xorImm (ofBits_L t)) (fun _ => toBits_lt t.toBits (by decide))
theorem Coding.shlImm (t : TailL) : Coding.Statement (.shlImm t) := Coding.coded rfl (fun _ => congrArg Instr.shlImm (ofBits_L t)) (fun _ => toBits_lt t.toBits (by decide))
theorem Coding.shrImm (t : TailL) : Coding.Statement (.shrImm t) := Coding.coded rfl (fun _ => congrArg Instr.shrImm (ofBits_L t)) (fun _ => toBits_lt t.toBits (by decide))
theorem Coding.sarImm (t : TailL) : Coding.Statement (.sarImm t) := Coding.coded rfl (fun _ => congrArg Instr.sarImm (ofBits_L t)) (fun _ => toBits_lt t.toBits (by decide))
theorem Coding.rolImm (t : TailL) : Coding.Statement (.rolImm t) := Coding.coded rfl (fun _ => congrArg Instr.rolImm (ofBits_L t)) (fun _ => toBits_lt t.toBits (by decide))
theorem Coding.rorImm (t : TailL) : Coding.Statement (.rorImm t) := Coding.coded rfl (fun _ => congrArg Instr.rorImm (ofBits_L t)) (fun _ => toBits_lt t.toBits (by decide))
theorem Coding.minImm (t : TailL) : Coding.Statement (.minImm t) := Coding.coded rfl (fun _ => congrArg Instr.minImm (ofBits_L t)) (fun _ => toBits_lt t.toBits (by decide))
theorem Coding.maxImm (t : TailL) : Coding.Statement (.maxImm t) := Coding.coded rfl (fun _ => congrArg Instr.maxImm (ofBits_L t)) (fun _ => toBits_lt t.toBits (by decide))
theorem Coding.addsImm (t : TailL) : Coding.Statement (.addsImm t) := Coding.coded rfl (fun _ => congrArg Instr.addsImm (ofBits_L t)) (fun _ => toBits_lt t.toBits (by decide))
theorem Coding.cmpImm (t : TailL) : Coding.Statement (.cmpImm t) := Coding.coded rfl (fun _ => congrArg Instr.cmpImm (ofBits_L t)) (fun _ => toBits_lt t.toBits (by decide))
theorem Coding.bsetImm (t : TailL) : Coding.Statement (.bsetImm t) := Coding.coded rfl (fun _ => congrArg Instr.bsetImm (ofBits_L t)) (fun _ => toBits_lt t.toBits (by decide))
theorem Coding.bclrImm (t : TailL) : Coding.Statement (.bclrImm t) := Coding.coded rfl (fun _ => congrArg Instr.bclrImm (ofBits_L t)) (fun _ => toBits_lt t.toBits (by decide))
theorem Coding.btglImm (t : TailL) : Coding.Statement (.btglImm t) := Coding.coded rfl (fun _ => congrArg Instr.btglImm (ofBits_L t)) (fun _ => toBits_lt t.toBits (by decide))
theorem Coding.li (t : TailD) : Coding.Statement (.li t) := Coding.coded rfl (fun _ => congrArg Instr.li (ofBits_D t)) (fun _ => toBits_lt t.toBits (by decide))
theorem Coding.lih (t : TailD) : Coding.Statement (.lih t) := Coding.coded rfl (fun _ => congrArg Instr.lih (ofBits_D t)) (fun _ => toBits_lt t.toBits (by decide))
theorem Coding.lea (t : TailD) : Coding.Statement (.lea t) := Coding.coded rfl (fun _ => congrArg Instr.lea (ofBits_D t)) (fun _ => toBits_lt t.toBits (by decide))
theorem Coding.ld (t : TailL) : Coding.Statement (.ld t) := Coding.coded rfl (fun _ => congrArg Instr.ld (ofBits_L t)) (fun _ => toBits_lt t.toBits (by decide))
theorem Coding.st (t : TailL) : Coding.Statement (.st t) := Coding.coded rfl (fun _ => congrArg Instr.st (ofBits_L t)) (fun _ => toBits_lt t.toBits (by decide))
theorem Coding.ldv (t : TailL) : Coding.Statement (.ldv t) := Coding.coded rfl (fun _ => congrArg Instr.ldv (ofBits_L t)) (fun _ => toBits_lt t.toBits (by decide))
theorem Coding.stv (t : TailL) : Coding.Statement (.stv t) := Coding.coded rfl (fun _ => congrArg Instr.stv (ofBits_L t)) (fun _ => toBits_lt t.toBits (by decide))
theorem Coding.ldvs (t : TailW) : Coding.Statement (.ldvs t) := Coding.coded rfl (fun _ => congrArg Instr.ldvs (ofBits_W t)) (fun _ => toBits_lt t.toBits (by decide))
theorem Coding.stvs (t : TailW) : Coding.Statement (.stvs t) := Coding.coded rfl (fun _ => congrArg Instr.stvs (ofBits_W t)) (fun _ => toBits_lt t.toBits (by decide))
theorem Coding.ldp (t : TailL) : Coding.Statement (.ldp t) := Coding.coded rfl (fun _ => congrArg Instr.ldp (ofBits_L t)) (fun _ => toBits_lt t.toBits (by decide))
theorem Coding.stp (t : TailL) : Coding.Statement (.stp t) := Coding.coded rfl (fun _ => congrArg Instr.stp (ofBits_L t)) (fun _ => toBits_lt t.toBits (by decide))
theorem Coding.ldn (t : TailD) : Coding.Statement (.ldn t) := Coding.coded rfl (fun _ => congrArg Instr.ldn (ofBits_D t)) (fun _ => toBits_lt t.toBits (by decide))
theorem Coding.stn (t : TailD) : Coding.Statement (.stn t) := Coding.coded rfl (fun _ => congrArg Instr.stn (ofBits_D t)) (fun _ => toBits_lt t.toBits (by decide))
theorem Coding.ldg (t : TailD) : Coding.Statement (.ldg t) := Coding.coded rfl (fun _ => congrArg Instr.ldg (ofBits_D t)) (fun _ => toBits_lt t.toBits (by decide))
theorem Coding.stg (t : TailD) : Coding.Statement (.stg t) := Coding.coded rfl (fun _ => congrArg Instr.stg (ofBits_D t)) (fun _ => toBits_lt t.toBits (by decide))
theorem Coding.ldgv (t : TailD) : Coding.Statement (.ldgv t) := Coding.coded rfl (fun _ => congrArg Instr.ldgv (ofBits_D t)) (fun _ => toBits_lt t.toBits (by decide))
theorem Coding.stgv (t : TailD) : Coding.Statement (.stgv t) := Coding.coded rfl (fun _ => congrArg Instr.stgv (ofBits_D t)) (fun _ => toBits_lt t.toBits (by decide))
theorem Coding.amo (t : TailD) : Coding.Statement (.amo t) := Coding.coded rfl (fun _ => congrArg Instr.amo (ofBits_D t)) (fun _ => toBits_lt t.toBits (by decide))
theorem Coding.putc (t : TailD) : Coding.Statement (.putc t) := Coding.coded rfl (fun _ => congrArg Instr.putc (ofBits_D t)) (fun _ => toBits_lt t.toBits (by decide))
theorem Coding.waitc (t : TailW) : Coding.Statement (.waitc t) := Coding.coded rfl (fun _ => congrArg Instr.waitc (ofBits_W t)) (fun _ => toBits_lt t.toBits (by decide))
theorem Coding.waita (t : TailD) : Coding.Statement (.waita t) := Coding.coded rfl (fun _ => congrArg Instr.waita (ofBits_D t)) (fun _ => toBits_lt t.toBits (by decide))
theorem Coding.wake (t : TailD) : Coding.Statement (.wake t) := Coding.coded rfl (fun _ => congrArg Instr.wake (ofBits_D t)) (fun _ => toBits_lt t.toBits (by decide))
theorem Coding.fence (t : TailW) : Coding.Statement (.fence t) := Coding.coded rfl (fun _ => congrArg Instr.fence (ofBits_W t)) (fun _ => toBits_lt t.toBits (by decide))
theorem Coding.flush (t : TailD) : Coding.Statement (.flush t) := Coding.coded rfl (fun _ => congrArg Instr.flush (ofBits_D t)) (fun _ => toBits_lt t.toBits (by decide))
theorem Coding.inbox (t : TailW) : Coding.Statement (.inbox t) := Coding.coded rfl (fun _ => congrArg Instr.inbox (ofBits_W t)) (fun _ => toBits_lt t.toBits (by decide))
theorem Coding.capgive (t : TailD) : Coding.Statement (.capgive t) := Coding.coded rfl (fun _ => congrArg Instr.capgive (ofBits_D t)) (fun _ => toBits_lt t.toBits (by decide))
theorem Coding.vadd (t : TailW) : Coding.Statement (.vadd t) := Coding.coded rfl (fun _ => congrArg Instr.vadd (ofBits_W t)) (fun _ => toBits_lt t.toBits (by decide))
theorem Coding.vsub (t : TailW) : Coding.Statement (.vsub t) := Coding.coded rfl (fun _ => congrArg Instr.vsub (ofBits_W t)) (fun _ => toBits_lt t.toBits (by decide))
theorem Coding.vmul (t : TailW) : Coding.Statement (.vmul t) := Coding.coded rfl (fun _ => congrArg Instr.vmul (ofBits_W t)) (fun _ => toBits_lt t.toBits (by decide))
theorem Coding.vfma (t : TailW) : Coding.Statement (.vfma t) := Coding.coded rfl (fun _ => congrArg Instr.vfma (ofBits_W t)) (fun _ => toBits_lt t.toBits (by decide))
theorem Coding.vfms (t : TailW) : Coding.Statement (.vfms t) := Coding.coded rfl (fun _ => congrArg Instr.vfms (ofBits_W t)) (fun _ => toBits_lt t.toBits (by decide))
theorem Coding.vfnma (t : TailW) : Coding.Statement (.vfnma t) := Coding.coded rfl (fun _ => congrArg Instr.vfnma (ofBits_W t)) (fun _ => toBits_lt t.toBits (by decide))
theorem Coding.vdiv (t : TailW) : Coding.Statement (.vdiv t) := Coding.coded rfl (fun _ => congrArg Instr.vdiv (ofBits_W t)) (fun _ => toBits_lt t.toBits (by decide))
theorem Coding.vsqrt (t : TailW) : Coding.Statement (.vsqrt t) := Coding.coded rfl (fun _ => congrArg Instr.vsqrt (ofBits_W t)) (fun _ => toBits_lt t.toBits (by decide))
theorem Coding.vrcp (t : TailW) : Coding.Statement (.vrcp t) := Coding.coded rfl (fun _ => congrArg Instr.vrcp (ofBits_W t)) (fun _ => toBits_lt t.toBits (by decide))
theorem Coding.vrsq (t : TailW) : Coding.Statement (.vrsq t) := Coding.coded rfl (fun _ => congrArg Instr.vrsq (ofBits_W t)) (fun _ => toBits_lt t.toBits (by decide))
theorem Coding.vexp2 (t : TailW) : Coding.Statement (.vexp2 t) := Coding.coded rfl (fun _ => congrArg Instr.vexp2 (ofBits_W t)) (fun _ => toBits_lt t.toBits (by decide))
theorem Coding.vlog2 (t : TailW) : Coding.Statement (.vlog2 t) := Coding.coded rfl (fun _ => congrArg Instr.vlog2 (ofBits_W t)) (fun _ => toBits_lt t.toBits (by decide))
theorem Coding.vmin (t : TailW) : Coding.Statement (.vmin t) := Coding.coded rfl (fun _ => congrArg Instr.vmin (ofBits_W t)) (fun _ => toBits_lt t.toBits (by decide))
theorem Coding.vmax (t : TailW) : Coding.Statement (.vmax t) := Coding.coded rfl (fun _ => congrArg Instr.vmax (ofBits_W t)) (fun _ => toBits_lt t.toBits (by decide))
theorem Coding.vabs (t : TailW) : Coding.Statement (.vabs t) := Coding.coded rfl (fun _ => congrArg Instr.vabs (ofBits_W t)) (fun _ => toBits_lt t.toBits (by decide))
theorem Coding.vneg (t : TailW) : Coding.Statement (.vneg t) := Coding.coded rfl (fun _ => congrArg Instr.vneg (ofBits_W t)) (fun _ => toBits_lt t.toBits (by decide))
theorem Coding.vcmp (t : TailW) : Coding.Statement (.vcmp t) := Coding.coded rfl (fun _ => congrArg Instr.vcmp (ofBits_W t)) (fun _ => toBits_lt t.toBits (by decide))
theorem Coding.vsel (t : TailW) : Coding.Statement (.vsel t) := Coding.coded rfl (fun _ => congrArg Instr.vsel (ofBits_W t)) (fun _ => toBits_lt t.toBits (by decide))
theorem Coding.vclass (t : TailW) : Coding.Statement (.vclass t) := Coding.coded rfl (fun _ => congrArg Instr.vclass (ofBits_W t)) (fun _ => toBits_lt t.toBits (by decide))
theorem Coding.viadd (t : TailW) : Coding.Statement (.viadd t) := Coding.coded rfl (fun _ => congrArg Instr.viadd (ofBits_W t)) (fun _ => toBits_lt t.toBits (by decide))
theorem Coding.visub (t : TailW) : Coding.Statement (.visub t) := Coding.coded rfl (fun _ => congrArg Instr.visub (ofBits_W t)) (fun _ => toBits_lt t.toBits (by decide))
theorem Coding.vimul (t : TailW) : Coding.Statement (.vimul t) := Coding.coded rfl (fun _ => congrArg Instr.vimul (ofBits_W t)) (fun _ => toBits_lt t.toBits (by decide))
theorem Coding.vimad (t : TailW) : Coding.Statement (.vimad t) := Coding.coded rfl (fun _ => congrArg Instr.vimad (ofBits_W t)) (fun _ => toBits_lt t.toBits (by decide))
theorem Coding.vimin (t : TailW) : Coding.Statement (.vimin t) := Coding.coded rfl (fun _ => congrArg Instr.vimin (ofBits_W t)) (fun _ => toBits_lt t.toBits (by decide))
theorem Coding.vimax (t : TailW) : Coding.Statement (.vimax t) := Coding.coded rfl (fun _ => congrArg Instr.vimax (ofBits_W t)) (fun _ => toBits_lt t.toBits (by decide))
theorem Coding.vand (t : TailW) : Coding.Statement (.vand t) := Coding.coded rfl (fun _ => congrArg Instr.vand (ofBits_W t)) (fun _ => toBits_lt t.toBits (by decide))
theorem Coding.vor (t : TailW) : Coding.Statement (.vor t) := Coding.coded rfl (fun _ => congrArg Instr.vor (ofBits_W t)) (fun _ => toBits_lt t.toBits (by decide))
theorem Coding.vxor (t : TailW) : Coding.Statement (.vxor t) := Coding.coded rfl (fun _ => congrArg Instr.vxor (ofBits_W t)) (fun _ => toBits_lt t.toBits (by decide))
theorem Coding.vshl (t : TailW) : Coding.Statement (.vshl t) := Coding.coded rfl (fun _ => congrArg Instr.vshl (ofBits_W t)) (fun _ => toBits_lt t.toBits (by decide))
theorem Coding.vshr (t : TailW) : Coding.Statement (.vshr t) := Coding.coded rfl (fun _ => congrArg Instr.vshr (ofBits_W t)) (fun _ => toBits_lt t.toBits (by decide))
theorem Coding.vsar (t : TailW) : Coding.Statement (.vsar t) := Coding.coded rfl (fun _ => congrArg Instr.vsar (ofBits_W t)) (fun _ => toBits_lt t.toBits (by decide))
theorem Coding.viadds (t : TailW) : Coding.Statement (.viadds t) := Coding.coded rfl (fun _ => congrArg Instr.viadds (ofBits_W t)) (fun _ => toBits_lt t.toBits (by decide))
theorem Coding.vicmp (t : TailW) : Coding.Statement (.vicmp t) := Coding.coded rfl (fun _ => congrArg Instr.vicmp (ofBits_W t)) (fun _ => toBits_lt t.toBits (by decide))
theorem Coding.vclmul (t : TailW) : Coding.Statement (.vclmul t) := Coding.coded rfl (fun _ => congrArg Instr.vclmul (ofBits_W t)) (fun _ => toBits_lt t.toBits (by decide))
theorem Coding.vrng (t : TailD) : Coding.Statement (.vrng t) := Coding.coded rfl (fun _ => congrArg Instr.vrng (ofBits_D t)) (fun _ => toBits_lt t.toBits (by decide))
theorem Coding.vmov (t : TailW) : Coding.Statement (.vmov t) := Coding.coded rfl (fun _ => congrArg Instr.vmov (ofBits_W t)) (fun _ => toBits_lt t.toBits (by decide))
theorem Coding.vbcast (t : TailW) : Coding.Statement (.vbcast t) := Coding.coded rfl (fun _ => congrArg Instr.vbcast (ofBits_W t)) (fun _ => toBits_lt t.toBits (by decide))
theorem Coding.vins (t : TailW) : Coding.Statement (.vins t) := Coding.coded rfl (fun _ => congrArg Instr.vins (ofBits_W t)) (fun _ => toBits_lt t.toBits (by decide))
theorem Coding.vext (t : TailW) : Coding.Statement (.vext t) := Coding.coded rfl (fun _ => congrArg Instr.vext (ofBits_W t)) (fun _ => toBits_lt t.toBits (by decide))
theorem Coding.vperm (t : TailW) : Coding.Statement (.vperm t) := Coding.coded rfl (fun _ => congrArg Instr.vperm (ofBits_W t)) (fun _ => toBits_lt t.toBits (by decide))
theorem Coding.vrot (t : TailW) : Coding.Statement (.vrot t) := Coding.coded rfl (fun _ => congrArg Instr.vrot (ofBits_W t)) (fun _ => toBits_lt t.toBits (by decide))
theorem Coding.vcvt (t : TailW) : Coding.Statement (.vcvt t) := Coding.coded rfl (fun _ => congrArg Instr.vcvt (ofBits_W t)) (fun _ => toBits_lt t.toBits (by decide))
theorem Coding.vpack (t : TailW) : Coding.Statement (.vpack t) := Coding.coded rfl (fun _ => congrArg Instr.vpack (ofBits_W t)) (fun _ => toBits_lt t.toBits (by decide))
theorem Coding.vunpk (t : TailW) : Coding.Statement (.vunpk t) := Coding.coded rfl (fun _ => congrArg Instr.vunpk (ofBits_W t)) (fun _ => toBits_lt t.toBits (by decide))
theorem Coding.vqnt (t : TailW) : Coding.Statement (.vqnt t) := Coding.coded rfl (fun _ => congrArg Instr.vqnt (ofBits_W t)) (fun _ => toBits_lt t.toBits (by decide))
theorem Coding.vdqnt (t : TailW) : Coding.Statement (.vdqnt t) := Coding.coded rfl (fun _ => congrArg Instr.vdqnt (ofBits_W t)) (fun _ => toBits_lt t.toBits (by decide))
theorem Coding.vred (t : TailW) : Coding.Statement (.vred t) := Coding.coded rfl (fun _ => congrArg Instr.vred (ofBits_W t)) (fun _ => toBits_lt t.toBits (by decide))
theorem Coding.vdot (t : TailW) : Coding.Statement (.vdot t) := Coding.coded rfl (fun _ => congrArg Instr.vdot (ofBits_W t)) (fun _ => toBits_lt t.toBits (by decide))
theorem Coding.vdist (t : TailD) : Coding.Statement (.vdist t) := Coding.coded rfl (fun _ => congrArg Instr.vdist (ofBits_D t)) (fun _ => toBits_lt t.toBits (by decide))
theorem Coding.vtopk (t : TailW) : Coding.Statement (.vtopk t) := Coding.coded rfl (fun _ => congrArg Instr.vtopk (ofBits_W t)) (fun _ => toBits_lt t.toBits (by decide))
theorem Coding.vgath (t : TailW) : Coding.Statement (.vgath t) := Coding.coded rfl (fun _ => congrArg Instr.vgath (ofBits_W t)) (fun _ => toBits_lt t.toBits (by decide))
theorem Coding.vscat (t : TailW) : Coding.Statement (.vscat t) := Coding.coded rfl (fun _ => congrArg Instr.vscat (ofBits_W t)) (fun _ => toBits_lt t.toBits (by decide))
theorem Coding.vpopc (t : TailW) : Coding.Statement (.vpopc t) := Coding.coded rfl (fun _ => congrArg Instr.vpopc (ofBits_W t)) (fun _ => toBits_lt t.toBits (by decide))
theorem Coding.vscan (t : TailW) : Coding.Statement (.vscan t) := Coding.coded rfl (fun _ => congrArg Instr.vscan (ofBits_W t)) (fun _ => toBits_lt t.toBits (by decide))
theorem Coding.send (t : TailH) : Coding.Statement (.send t) := Coding.coded rfl (fun _ => congrArg Instr.send (ofBits_H t)) (fun _ => toBits_lt t.toBits (by decide))
theorem Coding.muxsel (t : TailI) : Coding.Statement (.muxsel t) := Coding.coded rfl (fun _ => congrArg Instr.muxsel (ofBits_I t)) (fun _ => toBits_lt t.toBits (by decide))
theorem Coding.recv (t : TailI) : Coding.Statement (.recv t) := Coding.coded rfl (fun _ => congrArg Instr.recv (ofBits_I t)) (fun _ => toBits_lt t.toBits (by decide))
theorem Coding.recvm (t : TailI) : Coding.Statement (.recvm t) := Coding.coded rfl (fun _ => congrArg Instr.recvm (ofBits_I t)) (fun _ => toBits_lt t.toBits (by decide))
theorem Coding.mclaim (t : TailW) : Coding.Statement (.mclaim t) := Coding.coded rfl (fun _ => congrArg Instr.mclaim (ofBits_W t)) (fun _ => toBits_lt t.toBits (by decide))
theorem Coding.mrel (t : TailW) : Coding.Statement (.mrel t) := Coding.coded rfl (fun _ => congrArg Instr.mrel (ofBits_W t)) (fun _ => toBits_lt t.toBits (by decide))
theorem Coding.mload (t : TailD) : Coding.Statement (.mload t) := Coding.coded rfl (fun _ => congrArg Instr.mload (ofBits_D t)) (fun _ => toBits_lt t.toBits (by decide))
theorem Coding.mstore (t : TailD) : Coding.Statement (.mstore t) := Coding.coded rfl (fun _ => congrArg Instr.mstore (ofBits_D t)) (fun _ => toBits_lt t.toBits (by decide))
theorem Coding.mzero (t : TailW) : Coding.Statement (.mzero t) := Coding.coded rfl (fun _ => congrArg Instr.mzero (ofBits_W t)) (fun _ => toBits_lt t.toBits (by decide))
theorem Coding.mgang (t : TailW) : Coding.Statement (.mgang t) := Coding.coded rfl (fun _ => congrArg Instr.mgang (ofBits_W t)) (fun _ => toBits_lt t.toBits (by decide))
theorem Coding.mdrain (t : TailD) : Coding.Statement (.mdrain t) := Coding.coded rfl (fun _ => congrArg Instr.mdrain (ofBits_D t)) (fun _ => toBits_lt t.toBits (by decide))
theorem Coding.mgeo (t : TailW) : Coding.Statement (.mgeo t) := Coding.coded rfl (fun _ => congrArg Instr.mgeo (ofBits_W t)) (fun _ => toBits_lt t.toBits (by decide))
theorem Coding.copy (t : TailD) : Coding.Statement (.copy t) := Coding.coded rfl (fun _ => congrArg Instr.copy (ofBits_D t)) (fun _ => toBits_lt t.toBits (by decide))
theorem Coding.jtest (t : TailW) : Coding.Statement (.jtest t) := Coding.coded rfl (fun _ => congrArg Instr.jtest (ofBits_W t)) (fun _ => toBits_lt t.toBits (by decide))
theorem Coding.jwait (t : TailW) : Coding.Statement (.jwait t) := Coding.coded rfl (fun _ => congrArg Instr.jwait (ofBits_W t)) (fun _ => toBits_lt t.toBits (by decide))
theorem Coding.board (t : TailD) : Coding.Statement (.board t) := Coding.coded rfl (fun _ => congrArg Instr.board (ofBits_D t)) (fun _ => toBits_lt t.toBits (by decide))
theorem Coding.bstat (t : TailW) : Coding.Statement (.bstat t) := Coding.coded rfl (fun _ => congrArg Instr.bstat (ofBits_W t)) (fun _ => toBits_lt t.toBits (by decide))
theorem Coding.covqNext (t : TailW) : Coding.Statement (.covqNext t) :=
  Coding.coded rfl (fun hw => by
    have h : t.m = 0 := eq_of_beq hw
    show decodeCovq (TailW.ofBits _) = _
    rw [ofBits_W, decodeCovq, if_pos h]) (fun _ => toBits_lt t.toBits (by decide))
theorem Coding.covqRank (t : TailW) : Coding.Statement (.covqRank t) :=
  Coding.coded rfl (fun hw => by
    have h : t.m = 1 := eq_of_beq hw
    show decodeCovq (TailW.ofBits _) = _
    rw [ofBits_W, decodeCovq, if_neg (by rw [h]; decide), if_pos h]) (fun _ => toBits_lt t.toBits (by decide))
theorem Coding.covqInfo (t : TailW) : Coding.Statement (.covqInfo t) :=
  Coding.coded rfl (fun hw => by
    have h : t.m = 2 := eq_of_beq hw
    show decodeCovq (TailW.ofBits _) = _
    rw [ofBits_W, decodeCovq, if_neg (by rw [h]; decide), if_neg (by rw [h]; decide), if_pos h]) (fun _ => toBits_lt t.toBits (by decide))
theorem Coding.covqKeep (t : TailW) : Coding.Statement (.covqKeep t) :=
  Coding.coded rfl (fun hw => by
    have h : t.m = 3 := eq_of_beq hw
    show decodeCovq (TailW.ofBits _) = _
    rw [ofBits_W, decodeCovq, if_neg (by rw [h]; decide), if_neg (by rw [h]; decide), if_neg (by rw [h]; decide), if_pos h]) (fun _ => toBits_lt t.toBits (by decide))
theorem Coding.trace (t : TailD) : Coding.Statement (.trace t) := Coding.coded rfl (fun _ => congrArg Instr.trace (ofBits_D t)) (fun _ => toBits_lt t.toBits (by decide))
theorem Coding.lacc (t : TailW) : Coding.Statement (.lacc t) := Coding.coded rfl (fun _ => congrArg Instr.lacc (ofBits_W t)) (fun _ => toBits_lt t.toBits (by decide))
theorem Coding.laccz (t : TailW) : Coding.Statement (.laccz t) := Coding.coded rfl (fun _ => congrArg Instr.laccz (ofBits_W t)) (fun _ => toBits_lt t.toBits (by decide))
theorem Coding.gov (t : TailI) : Coding.Statement (.gov t) := Coding.coded rfl (fun _ => congrArg Instr.gov (ofBits_I t)) (fun _ => toBits_lt t.toBits (by decide))
theorem Coding.wseRead (t : TailI) : Coding.Statement (.wseRead t) :=
  Coding.coded rfl (fun hw => by
    have h : t.crNumber = wseNumber := eq_of_beq hw
    show decodeCr (TailI.ofBits _) _ _ _ = _
    rw [ofBits_I, decodeCr, if_pos h]) (fun _ => toBits_lt t.toBits (by decide))
theorem Coding.wseWrite (t : TailI) : Coding.Statement (.wseWrite t) :=
  Coding.coded rfl (fun hw => by
    have h : t.crNumber = wseNumber := eq_of_beq hw
    show decodeCr (TailI.ofBits _) _ _ _ = _
    rw [ofBits_I, decodeCr, if_pos h]) (fun _ => toBits_lt t.toBits (by decide))
theorem Coding.raseRead (t : TailI) : Coding.Statement (.raseRead t) :=
  Coding.coded rfl (fun hw => by
    have h : t.crNumber = raseNumber := eq_of_beq hw
    show decodeCr (TailI.ofBits _) _ _ _ = _
    rw [ofBits_I, decodeCr, if_neg (by rw [h]; decide), if_pos h]) (fun _ => toBits_lt t.toBits (by decide))
theorem Coding.raseWrite (t : TailI) : Coding.Statement (.raseWrite t) :=
  Coding.coded rfl (fun hw => by
    have h : t.crNumber = raseNumber := eq_of_beq hw
    show decodeCr (TailI.ofBits _) _ _ _ = _
    rw [ofBits_I, decodeCr, if_neg (by rw [h]; decide), if_pos h]) (fun _ => toBits_lt t.toBits (by decide))
theorem Coding.varResultArrival (core k : Nat) : Coding.Statement (.varResultArrival core k) := Coding.event rfl
theorem Coding.workQueueDoorbell (vf queue : Nat) (value : Word) : Coding.Statement (.workQueueDoorbell vf queue value) := Coding.event rfl
theorem Coding.launchBlockFetch (queue : Nat) : Coding.Statement (.launchBlockFetch queue) := Coding.event rfl
theorem Coding.launchStart (launch : Nat) : Coding.Statement (.launchStart launch) := Coding.event rfl
theorem Coding.wakeMessage (launch router : Nat) : Coding.Statement (.wakeMessage launch router) := Coding.event rfl
theorem Coding.bootImageArrival (launch core : Nat) : Coding.Statement (.bootImageArrival launch core) := Coding.event rfl
theorem Coding.launchCompletion (launch : Nat) : Coding.Statement (.launchCompletion launch) := Coding.event rfl
theorem Coding.chorusStart (launch level unit : Nat) : Coding.Statement (.chorusStart launch level unit) := Coding.event rfl
theorem Coding.chorusRecordRead (launch level unit : Nat) : Coding.Statement (.chorusRecordRead launch level unit) := Coding.event rfl
theorem Coding.maskFire (launch level unit idx : Nat) : Coding.Statement (.maskFire launch level unit idx) := Coding.event rfl
theorem Coding.chorusReportArrival (launch level unit sender : Nat) : Coding.Statement (.chorusReportArrival launch level unit sender) := Coding.event rfl
theorem Coding.chorusRelease (release : Nat) : Coding.Statement (.chorusRelease release) := Coding.event rfl
theorem Coding.orphanWait (launch level unit : Nat) : Coding.Statement (.orphanWait launch level unit) := Coding.event rfl
theorem Coding.chorusWatchdog (launch level unit : Nat) : Coding.Statement (.chorusWatchdog launch level unit) := Coding.event rfl
theorem Coding.exchangeWordArrival (word : Nat) : Coding.Statement (.exchangeWordArrival word) := Coding.event rfl
theorem Coding.destinationRequest (req : Nat) : Coding.Statement (.destinationRequest req) := Coding.event rfl
theorem Coding.responseArrival (req : Nat) : Coding.Statement (.responseArrival req) := Coding.event rfl
theorem Coding.releaseSend (req : Nat) : Coding.Statement (.releaseSend req) := Coding.event rfl
theorem Coding.inboxMessageArrival (msg : Nat) : Coding.Statement (.inboxMessageArrival msg) := Coding.event rfl
theorem Coding.capabilityHandover (req : Nat) : Coding.Statement (.capabilityHandover req) := Coding.event rfl
theorem Coding.packetArrival (packet : Nat) : Coding.Statement (.packetArrival packet) := Coding.event rfl
theorem Coding.outputArbitration (router port : Nat) : Coding.Statement (.outputArbitration router port) := Coding.event rfl
theorem Coding.ageUrgent (router port vc : Nat) : Coding.Statement (.ageUrgent router port vc) := Coding.event rfl
theorem Coding.copyAccept (pod : Nat) : Coding.Statement (.copyAccept pod) := Coding.event rfl
theorem Coding.copyJobStart (pod : Nat) : Coding.Statement (.copyJobStart pod) := Coding.event rfl
theorem Coding.copyRequestIssue (pod : Nat) : Coding.Statement (.copyRequestIssue pod) := Coding.event rfl
theorem Coding.copyPieceWrite (pod entry piece : Nat) : Coding.Statement (.copyPieceWrite pod entry piece) := Coding.event rfl
theorem Coding.nvmeCompletion (pod entry : Nat) (status : BitVec 16) : Coding.Statement (.nvmeCompletion pod entry status) := Coding.event rfl
theorem Coding.copyJobComplete (pod entry : Nat) : Coding.Statement (.copyJobComplete pod entry) := Coding.event rfl
theorem Coding.matrixCommandAccept (pod core : Nat) : Coding.Statement (.matrixCommandAccept pod core) := Coding.event rfl
theorem Coding.gangComplete (pod : Nat) : Coding.Statement (.gangComplete pod) := Coding.event rfl
theorem Coding.mloadComplete (pod cmd : Nat) : Coding.Statement (.mloadComplete pod cmd) := Coding.event rfl
theorem Coding.mstoreComplete (pod cmd : Nat) : Coding.Statement (.mstoreComplete pod cmd) := Coding.event rfl
theorem Coding.mdrainComplete (pod cmd : Nat) : Coding.Statement (.mdrainComplete pod cmd) := Coding.event rfl
theorem Coding.mrelFree (pod cmd : Nat) : Coding.Statement (.mrelFree pod cmd) := Coding.event rfl
theorem Coding.feederFrameDelivery (die : Nat) : Coding.Statement (.feederFrameDelivery die) := Coding.event rfl
theorem Coding.boardArmEffect (pod ctx : Nat) : Coding.Statement (.boardArmEffect pod ctx) := Coding.event rfl
theorem Coding.segmentHeaderArrival (station : Nat) (flips : Nat) : Coding.Statement (.segmentHeaderArrival station flips) := Coding.event rfl
theorem Coding.tapFrameAct (pod ctx : Nat) (flips : Nat) : Coding.Statement (.tapFrameAct pod ctx flips) := Coding.event rfl
theorem Coding.capToken (token : BitVec 128) : Coding.Statement (.capToken token) := Coding.event rfl
theorem Coding.vptWrite (vf entry : Nat) (value : BitVec 32) : Coding.Statement (.vptWrite vf entry value) := Coding.event rfl
theorem Coding.axolotlRun (launch : Nat) : Coding.Statement (.axolotlRun launch) := Coding.event rfl
theorem Coding.partitionStop (part : Nat) : Coding.Statement (.partitionStop part) := Coding.event rfl
theorem Coding.stopComplete (part : Nat) : Coding.Statement (.stopComplete part) := Coding.event rfl
theorem Coding.yieldDeadline (part : Nat) : Coding.Statement (.yieldDeadline part) := Coding.event rfl
theorem Coding.exchangeGrace (part : Nat) : Coding.Statement (.exchangeGrace part) := Coding.event rfl
theorem Coding.partitionResume (part : Nat) : Coding.Statement (.partitionResume part) := Coding.event rfl
theorem Coding.partitionReset (part : Nat) : Coding.Statement (.partitionReset part) := Coding.event rfl
theorem Coding.partitionReplay (part queue : Nat) : Coding.Statement (.partitionReplay part queue) := Coding.event rfl
theorem Coding.contextSaveComplete (part : Nat) : Coding.Statement (.contextSaveComplete part) := Coding.event rfl
theorem Coding.scrubComplete (sg : Nat) : Coding.Statement (.scrubComplete sg) := Coding.event rfl
theorem Coding.contextRestoreComplete (part : Nat) : Coding.Statement (.contextRestoreComplete part) := Coding.event rfl
theorem Coding.partitionCommit (command : Word) : Coding.Statement (.partitionCommit command) := Coding.event rfl
theorem Coding.invStage1Page (vf space : Nat) (va : Word) : Coding.Statement (.invStage1Page vf space va) := Coding.event rfl
theorem Coding.invStage1All (vf : Nat) : Coding.Statement (.invStage1All vf) := Coding.event rfl
theorem Coding.invStage2Frame (vf space : Nat) (frame : Word) : Coding.Statement (.invStage2Frame vf space frame) := Coding.event rfl
theorem Coding.invStage2All (vf : Nat) : Coding.Statement (.invStage2All vf) := Coding.event rfl
theorem Coding.invalidationComplete (inv : Nat) : Coding.Statement (.invalidationComplete inv) := Coding.event rfl
theorem Coding.dbgRead (part : Nat) : Coding.Statement (.dbgRead part) := Coding.event rfl
theorem Coding.dbgWrite (part : Nat) (value : Word) : Coding.Statement (.dbgWrite part value) := Coding.event rfl
theorem Coding.hostWindowWrite (die off : Nat) (mask : Byte) (value : Word) : Coding.Statement (.hostWindowWrite die off mask value) := Coding.event rfl
theorem Coding.linkFlitArrival (port : Nat) (crcOk : Bool) (msg : LinkMsg) : Coding.Statement (.linkFlitArrival port crcOk msg) := Coding.event rfl
theorem Coding.linkTimeout (req : Nat) : Coding.Statement (.linkTimeout req) := Coding.event rfl
theorem Coding.unitReady (reg bit : Nat) : Coding.Statement (.unitReady reg bit) := Coding.event rfl
theorem Coding.unitNotReady (reg bit : Nat) : Coding.Statement (.unitNotReady reg bit) := Coding.event rfl
theorem Coding.registerWrite (block off : Nat) (value : Word) : Coding.Statement (.registerWrite block off value) := Coding.event rfl
/-- A step is the one that an unassigned opcode with an empty tail decodes to. -/
def isUnassigned (op : Opcode) : Instr → Bool
  | .unassignedOpcode o t => o == op && t == ⟨0, 0, 0, 0, 0⟩
  | _ => false

/-- Every opcode that R56 to R68 do not list decodes to itself, with an empty tail. -/
theorem unassigned_decodes (op : Opcode) (h : op.isUnassigned = true) : decodeInstr op 0 = .unassignedOpcode op ⟨0, 0, 0, 0, 0⟩ := by
  have all : ∀ op : Opcode, (!op.isUnassigned || isUnassigned op (decodeInstr op 0)) = true := by decide +kernel
  have h' := all op
  rw [h] at h'
  unfold isUnassigned at h'
  split at h'
  · simp only [Bool.not_true, Bool.false_or, Bool.and_eq_true, beq_iff_eq] at h'
    rename_i o t e
    rw [e, h'.1, h'.2]
  · cases h'

theorem Coding.unassignedOpcode (op : Opcode) (t : TailW) : Coding.Statement (.unassignedOpcode op t) :=
  Coding.coded rfl (fun hw => by
    have hw' : ((op.isUnassigned && t == ⟨0, 0, 0, 0, 0⟩) || (op == 0xB05 && decide (3 < t.m))) = true := hw
    have h : (op.isUnassigned = true ∧ t = ⟨0, 0, 0, 0, 0⟩) ∨ (op = 0xB05 ∧ 3 < t.m) := by simpa using hw'
    rcases h with ⟨h, rfl⟩ | ⟨rfl, h⟩
    · exact unassigned_decodes op h
    · show decodeCovq (TailW.ofBits _) = _
      rw [ofBits_W, decodeCovq, if_neg (by rintro h'; rw [h'] at h; revert h; decide), if_neg (by rintro h'; rw [h'] at h; revert h; decide),
        if_neg (by rintro h'; rw [h'] at h; revert h; decide), if_neg (by rintro h'; rw [h'] at h; revert h; decide)]) (fun hw => by
    have hw' : ((op.isUnassigned && t == ⟨0, 0, 0, 0, 0⟩) || (op == 0xB05 && decide (3 < t.m))) = true := hw
    have h : (op.isUnassigned = true ∧ t = ⟨0, 0, 0, 0, 0⟩) ∨ (op = 0xB05 ∧ 3 < t.m) := by simpa using hw'
    rcases h with ⟨-, rfl⟩ | ⟨rfl, -⟩
    · exact Nat.two_pow_pos _
    · exact toBits_lt t.toBits (by decide))
theorem Coding.spareSwap (kind unit spare : Nat) : Coding.Statement (.spareSwap kind unit spare) := Coding.event rfl
theorem Coding.hostPcieCompletion (req : Nat) : Coding.Statement (.hostPcieCompletion req) := Coding.event rfl
theorem Coding.bar2PeerWrite (pod entry block : Nat) (data : List Byte) : Coding.Statement (.bar2PeerWrite pod entry block data) := Coding.event rfl
theorem Coding.nop : Coding.Statement .nop := Coding.coded rfl (fun _ => rfl) (fun _ => by decide)
theorem Coding.ret : Coding.Statement .ret := Coding.coded rfl (fun _ => rfl) (fun _ => by decide)
theorem Coding.rett : Coding.Statement .rett := Coding.coded rfl (fun _ => rfl) (fun _ => by decide)
theorem Coding.halt : Coding.Statement .halt := Coding.coded rfl (fun _ => rfl) (fun _ => by decide)
theorem Coding.isync : Coding.Statement .isync := Coding.coded rfl (fun _ => rfl) (fun _ => by decide)
theorem Coding.bkpt : Coding.Statement .bkpt := Coding.coded rfl (fun _ => rfl) (fun _ => by decide)
theorem Coding.wait : Coding.Statement .wait := Coding.coded rfl (fun _ => rfl) (fun _ => by decide)
theorem Coding.timerExpiry : Coding.Statement .timerExpiry := Coding.event rfl
theorem Coding.timerInterrupt : Coding.Statement .timerInterrupt := Coding.event rfl
theorem Coding.grantEventInterrupt : Coding.Statement .grantEventInterrupt := Coding.event rfl
theorem Coding.coreStart : Coding.Statement .coreStart := Coding.event rfl
theorem Coding.waitWithdrawal : Coding.Statement .waitWithdrawal := Coding.event rfl
theorem Coding.waitaWithdrawal : Coding.Statement .waitaWithdrawal := Coding.event rfl
theorem Coding.lapStart : Coding.Statement .lapStart := Coding.event rfl
theorem Coding.frameInject : Coding.Statement .frameInject := Coding.event rfl
theorem Coding.moduleAlarm : Coding.Statement .moduleAlarm := Coding.event rfl
theorem Coding.pauseEnd : Coding.Statement .pauseEnd := Coding.event rfl
theorem Coding.leaseExpiry : Coding.Statement .leaseExpiry := Coding.event rfl
theorem Coding.netMemSwitch : Coding.Statement .netMemSwitch := Coding.event rfl
theorem Coding.budgetInterval : Coding.Statement .budgetInterval := Coding.event rfl
theorem Coding.quantumEnd : Coding.Statement .quantumEnd := Coding.event rfl
theorem Coding.packageReset : Coding.Statement .packageReset := Coding.event rfl

end Sys2Proof.Laws
end

