-- ==== Sys2Proof/Laws/Ring.lean ====
section
/-! SUPPORT. Lemmas about the frames of the weight ring. -/

namespace Sys2Proof.Machine

/-- The CRC field of a frame's header is the one it was sent with (R341). -/
theorem FeedWant.header_crc (w : FeedWant) {c : Nat} (h : c < 2 ^ 32) : fieldAt (w.header c) 24 4 = c := by
  show leValue [BitVec.ofNat 8 c, BitVec.ofNat 8 (c / 256), BitVec.ofNat 8 (c / 256 / 256), BitVec.ofNat 8 (c / 256 / 256 / 256)] = c
  simp only [leValue, BitVec.toNat_ofNat]
  omega

/-- The bytes of a frame read whole pass its CRC (R341, R344). -/
theorem FeedWant.frameRead_good (w : FeedWant) (bytes : List Byte) : crc32c (w.frameRead bytes).bytes = fieldAt (w.frameRead bytes).head 24 4 :=
  (w.header_crc (crc32c_lt bytes)).symm

end Sys2Proof.Machine
end

