-- ==== Sys2Proof/Tests/Build.lean ====
section
/-! SUPPORT. The small states that the tests and the witnesses start from. -/

namespace Sys2Proof.Tests

open Sys2Proof.Machine

/-- The core in turn of the machine after reset, with its core changed, about to fetch one instruction. -/
def placed (i : Instr) (f : Core → Core) : State :=
  match i.code with
  | some (op, t) =>
    let s := State.reset.withFetchWord 80 (op.toNat + t.toNat * 2 ^ 16)
    s.setCore 0 (f (s.core 0))
  | none => State.reset

/-- A core with general registers set, by number. -/
def regs (xs : List (Field × Word)) (c : Core) : Core :=
  xs.foldl (fun c x => match c.phys x.1 with | some p => c.setP p x.2 | none => c) c

/-- A core with vector registers set, by number. -/
def vecs (xs : List (Nat × Nat)) (c : Core) : Core := xs.foldl (fun c x => c.setV x.1 (BitVec.ofNat 512 x.2)) c

/-- A core in handler mode. -/
def handler (c : Core) : Core := { c with stat := c.stat ||| 0x20 }

/-- A core in exchange mode. -/
def phased (c : Core) : Core := { c with stat := c.stat ||| 0x80 }

/-- A core with an FMT pending. -/
def formatted (t : TailW) (c : Core) : Core := { c with stat := c.stat ||| 5, epfx := t.toBits.setWidth 64 <<< 32, runStart := some (c.pc, 1) }

/-- The machine with a value stored in the slice of core 0. -/
def stored (at' n v : Nat) (s : State) : State := { s with mem := Memory.writeLE s.mem (sliceKey 0 at') n v }

/-- What a step comes to. -/
def next? (s : State) : Option State :=
  match step s with
  | .next s' => some s'
  | _ => none

/-- What an instruction comes to. -/
def exec? (i : Instr) (s : State) : Option State :=
  match exec i s with
  | .next s' => some s'
  | _ => none

/-- A property of the core in turn after a step. -/
def after (s : State) (P : Core → Bool) : Bool := (next? s).any (fun s' => P (s'.core s.cur))

/-- The results that a core has on their way. -/
def Results (c : Core) : List Dest := c.flight.map (·.dest) ++ c.var.flatMap (·.writes)

/-- The last general-register result on its way. -/
def lastGen (c : Core) : Option Word := ((Results c).filterMap (fun d => match d with | .gen _ x => some x | _ => none)).getLast?

/-- The last vector result on its way. -/
def lastVec (c : Core) : Option Nat := ((Results c).filterMap (fun d => match d with | .vec _ x => some x.toNat | _ => none)).getLast?

/-- The flags on their way. -/
def lastFlags (c : Core) : Word := ((Results c).filterMap (fun d => match d with | .flags x => some x | _ => none)).foldl (· ||| ·) 0

/-- The general-register result of an instruction of a core. -/
def gives (i : Instr) (f : Core → Core) (x : Word) : Bool := after (placed i f) (fun c => lastGen c == some x)

/-- The vector result of an instruction of a core. -/
def givesV (i : Instr) (f : Core → Core) (x : Nat) : Bool := after (placed i f) (fun c => lastVec c == some x)

/-- The cause, the qualifier and EADDR of the trap that an instruction of a core takes. -/
def traps (i : Instr) (f : Core → Core) (code qual : Byte) (eaddr : Word) : Bool :=
  after (placed i f) (fun c => c.hm && c.ecause == (qual.setWidth 64 <<< 8 ||| code.setWidth 64) && c.eaddr == eaddr)

/-- Lanes of `n` bits as one number. -/
def lanesOf (n : Nat) (xs : List Nat) : Nat := xs.foldr (fun x v => v * 2 ^ n + x) 0

/-- Every word decodes to its instruction, with nothing left over. -/
def decodesTo (rows : List (List Byte × Instr)) : Bool :=
  rows.all (fun r => match decode r.1 with | .ok (_, i, []) => i == r.2 | _ => false)

/-! ### Witnesses: an instruction that issues -/

/-- The instruction at PC of the core in turn issues and goes on straight, and a property holds of its time and its operands. -/
def meets (s : State) (g : Sig) (raw : Opnd) (P : Nat → Opnd → Bool) : Bool :=
  let c := s.core s.cur
  c.issues && !c.holding &&
    match s.gate s.cur g raw with
    | .go t o => (c.interruptBefore t).isNone && !((s.coreAt t).advance (s.lastHead s.cur)).back && P t o
    | _ => false

theorem issues_of_meets {s : State} {g : Sig} {raw : Opnd} (P : Nat → Opnd → Prop) [∀ t o, Decidable (P t o)]
    (h : meets s g raw (fun t o => decide (P t o)) = true) :
    ∃ t o, s.Issues g raw t o ∧ (∀ m, s.Straight (s.coreAt t) m) ∧ P t o := by
  unfold meets at h
  simp only [Bool.and_eq_true, Bool.not_eq_true'] at h
  obtain ⟨⟨h1, h2⟩, h3⟩ := h
  split at h3
  · rename_i t o hg
    simp only [Bool.and_eq_true, Bool.not_eq_true', Option.isNone_iff_eq_none, decide_eq_true_eq] at h3
    obtain ⟨⟨h4, h5⟩, h6⟩ := h3
    refine ⟨t, o, ⟨h1, h2, Or.inr (Or.inr h4), hg⟩, ?_, h6⟩
    intro m hb
    rw [h5] at hb
    cases hb
  · cases h3

theorem issues_of_all {α : Type} {l : List α} {st : α → State} {g : α → Sig} {raw : α → Opnd} (P : α → Nat → Opnd → Prop)
    [∀ a t o, Decidable (P a t o)] (h : l.all (fun a => meets (st a) (g a) (raw a) (fun t o => decide (P a t o))) = true) :
    ∀ a ∈ l, ∃ t o, (st a).Issues (g a) (raw a) t o ∧ (∀ m, (st a).Straight ((st a).coreAt t) m) ∧ P a t o :=
  fun a ha => issues_of_meets (P a) (List.all_eq_true.mp h a ha)

theorem straight_of {s : State} {c : Core} (h : (c.advance (s.lastHead s.cur)).back = false) (m : Memory) : s.Straight c m := by
  intro hb
  rw [h] at hb
  cases hb

/-- An access that passes every check of a machine with no range, no bad word and no request. -/
def accessOk (s : State) (t : Nat) (write : Bool) (align : Nat) (runs : List (Nat × Nat)) : Bool :=
  decide (∀ r ∈ runs, align ∣ r.1) && decide (∀ r ∈ runs, ∀ i < r.2, r.1 + i < 262144) &&
    ((s.coreAt t).hm || decide (∀ r ∈ runs, ∀ i < r.2, (s.coreAt t).accessible (if write then 61 else 62) (r.1 + i) = true)) &&
    (s.coreAt t).ranges.isEmpty && s.badWords.isEmpty && s.reqs.isEmpty

theorem mayAccess_of {s : State} {t : Nat} {write : Bool} {align : Nat} {runs : List (Nat × Nat)} (h : accessOk s t write align runs = true) :
    s.MayAccess t write align runs := by
  simp only [accessOk, Bool.and_eq_true, decide_eq_true_eq, Bool.or_eq_true, List.isEmpty_iff] at h
  obtain ⟨⟨⟨⟨⟨h1, h2⟩, h3⟩, h4⟩, h5⟩, h6⟩ := h
  exact ⟨h1, h2, h3, .inr (by simp [h4]), .inr (.inr (by simp [h6])), by simp [h5]⟩

theorem next_of {s : State} (h : (next? s).isSome = true) : ∃ s', step s = .next s' := by
  unfold next? at h
  split at h
  · exact ⟨_, by assumption⟩
  · cases h

end Sys2Proof.Tests
end

