-- ==== Sys2Proof/Tests/Slice0.lean ====
section
/-! SUPPORT. Tests: ill-formed terms that are refused, words of every instruction that has an encoding, and single steps on values from the spec's tables and worked examples or worked out from its formulas. -/

namespace Sys2Proof.Tests

open Sys2Proof.Machine

set_option Elab.async false

/-! ### Well-formedness: an ill-formed term for each check -/

theorem test_wf_mfc : Instr.wf (.mfc ⟨1, 0, 0x09⟩) = false := by decide

theorem test_wf_mtc : Instr.wf (.mtc ⟨0, 2, 0x0C⟩) = false := by decide

theorem test_wf_wse : (Instr.wf (.wseRead ⟨1, 0, 0x0A⟩) || Instr.wf (.wseWrite ⟨0, 2, 0x0A⟩)) = false := by decide

theorem test_wf_rase : (Instr.wf (.raseRead ⟨1, 0, 0x0B⟩) || Instr.wf (.raseWrite ⟨0, 2, 0x0B⟩)) = false := by decide

theorem test_wf_covq : ([Instr.covqNext ⟨1, 0, 0, 0, 1⟩, .covqRank ⟨1, 0, 0, 0, 0⟩, .covqInfo ⟨1, 0, 0, 0, 3⟩, .covqKeep ⟨1, 2, 0, 0, 2⟩].any Instr.wf) = false := by decide

theorem test_wf_unassigned : (Instr.wf (.unassignedOpcode 0x100 ⟨0, 0, 0, 0, 0⟩) || Instr.wf (.unassignedOpcode 0xD00 ⟨1, 0, 0, 0, 0⟩) || Instr.wf (.unassignedOpcode 0xB05 ⟨1, 0, 0, 0, 3⟩)) = false := by decide

theorem test_wf_cores : ([Instr.varResultArrival 8192 0, .bootImageArrival 0 8192, .matrixCommandAccept 0 8192].any Instr.wf) = false := by decide

theorem test_wf_routers : ([Instr.wakeMessage 0 128, .outputArbitration 128 0, .ageUrgent 128 0 0].any Instr.wf) = false := by decide

theorem test_wf_units : ([Instr.chorusStart 0 0 128, .chorusRecordRead 0 1 8, .maskFire 0 2 1 0, .chorusReportArrival 0 3 0 0, .orphanWait 0 0 128, .chorusWatchdog 0 1 8].any Instr.wf) = false := by decide

theorem test_wf_pods : ([Instr.copyAccept 1024, .copyJobStart 1024, .copyRequestIssue 1024, .copyPieceWrite 1024 0 0, .nvmeCompletion 1024 0 0, .copyJobComplete 1024 0,
    .matrixCommandAccept 1024 0, .gangComplete 1024, .mloadComplete 1024 0, .mstoreComplete 1024 0, .mdrainComplete 1024 0, .mrelFree 1024 0, .boardArmEffect 1024 0,
    .tapFrameAct 1024 0 0, .bar2PeerWrite 1024 0 0 []].any Instr.wf) = false := by decide

theorem test_wf_dies : ([Instr.feederFrameDelivery 8, .segmentHeaderArrival 8 0, .hostWindowWrite 8 0 0 0].any Instr.wf) = false := by decide

theorem test_wf_partitions : ([Instr.partitionStop 128, .stopComplete 128, .yieldDeadline 128, .exchangeGrace 128, .partitionResume 128, .partitionReset 128, .partitionReplay 128 0,
    .contextSaveComplete 128, .contextRestoreComplete 128, .dbgRead 128, .dbgWrite 128 0, .scrubComplete 128].any Instr.wf) = false := by decide

/-! ### Decoding -/

/-- Words of class 0x0 with L set and S 0, by the codes and tails of R56 and the layouts of R40. -/
theorem test_words_of_class_0 : decodesTo [
    ([0x00, 0x80], .nop),
    ([0x01, 0x80, 0x95, 0x1A, 0xC3, 0xA5], .j ⟨0x15, 0x2A, 0xA5C31⟩),
    ([0x02, 0x80, 0x6A, 0x93], .jr ⟨0x2A, 0xD, 0x9⟩),
    ([0x03, 0x80, 0x95, 0x1A, 0xC3, 0xA5], .call ⟨0x15, 0x2A, 0xA5C31⟩),
    ([0x04, 0x80, 0x6A, 0x93], .callr ⟨0x2A, 0xD, 0x9⟩),
    ([0x05, 0x80], .ret),
    ([0x06, 0x80, 0x95, 0xDA, 0xE4, 0xC5, 0x70, 0xA9], .loop ⟨0x15, 0x2A, 0xD, 0x2A5C3179⟩),
    ([0x07, 0x80, 0x95, 0x1A, 0xC3, 0xA5], .rep ⟨0x15, 0x2A, 0xA5C31⟩),
    ([0x08, 0x80, 0x95, 0x1A, 0xC3, 0xA5], .trap ⟨0x15, 0x2A, 0xA5C31⟩),
    ([0x09, 0x80], .rett),
    ([0x0A, 0x80], .halt),
    ([0x0B, 0x80], .isync),
    ([0x0C, 0x80, 0x95, 0x1A, 0xC3, 0xA5], .mfc ⟨0x15, 0x2A, 0xA5C31⟩),
    ([0x0C, 0x80, 0x95, 0x9A, 0x00, 0x00], .wseRead ⟨0x15, 0x2A, 0x9⟩),
    ([0x0C, 0x80, 0x95, 0xCA, 0x00, 0x00], .raseRead ⟨0x15, 0x2A, 0xC⟩),
    ([0x0D, 0x80, 0x95, 0x1A, 0xC3, 0xA5], .mtc ⟨0x15, 0x2A, 0xA5C31⟩),
    ([0x0D, 0x80, 0x95, 0x9A, 0x00, 0x00], .wseWrite ⟨0x15, 0x2A, 0x9⟩),
    ([0x0D, 0x80, 0x95, 0xCA, 0x00, 0x00], .raseWrite ⟨0x15, 0x2A, 0xC⟩),
    ([0x0E, 0x80, 0x6A, 0x93], .gd ⟨0x2A, 0xD, 0x9⟩),
    ([0x0F, 0x80, 0x95, 0xDA, 0xC8, 0xB7], .fmt ⟨0x15, 0x2A, 0xD, 0x32, 0xB7⟩),
    ([0x10, 0x80], .bkpt),
    ([0x11, 0x80], .wait)] = true := by decide +kernel

/-- Words of class 0x1 with L set and S 0, by the codes and tails of R57 and the layouts of R40. -/
theorem test_words_of_class_1 : decodesTo [
    ([0x00, 0x81, 0x95, 0xDA, 0xC8, 0xB7], .add ⟨0x15, 0x2A, 0xD, 0x32, 0xB7⟩),
    ([0x01, 0x81, 0x95, 0xDA, 0xC8, 0xB7], .sub ⟨0x15, 0x2A, 0xD, 0x32, 0xB7⟩),
    ([0x02, 0x81, 0x95, 0xDA, 0xC8, 0xB7], .mul ⟨0x15, 0x2A, 0xD, 0x32, 0xB7⟩),
    ([0x03, 0x81, 0x95, 0xDA, 0xC8, 0xB7], .mulh ⟨0x15, 0x2A, 0xD, 0x32, 0xB7⟩),
    ([0x04, 0x81, 0x95, 0xDA, 0xC8, 0xB7], .div ⟨0x15, 0x2A, 0xD, 0x32, 0xB7⟩),
    ([0x05, 0x81, 0x95, 0xDA, 0xC8, 0xB7], .rem ⟨0x15, 0x2A, 0xD, 0x32, 0xB7⟩),
    ([0x06, 0x81, 0x95, 0xDA, 0xC8, 0xB7], .and ⟨0x15, 0x2A, 0xD, 0x32, 0xB7⟩),
    ([0x07, 0x81, 0x95, 0xDA, 0xC8, 0xB7], .or ⟨0x15, 0x2A, 0xD, 0x32, 0xB7⟩),
    ([0x08, 0x81, 0x95, 0xDA, 0xC8, 0xB7], .xor ⟨0x15, 0x2A, 0xD, 0x32, 0xB7⟩),
    ([0x09, 0x81, 0x95, 0xDA, 0xC8, 0xB7], .andn ⟨0x15, 0x2A, 0xD, 0x32, 0xB7⟩),
    ([0x0A, 0x81, 0x95, 0xDA, 0xC8, 0xB7], .orn ⟨0x15, 0x2A, 0xD, 0x32, 0xB7⟩),
    ([0x0B, 0x81, 0x95, 0xDA, 0xC8, 0xB7], .shl ⟨0x15, 0x2A, 0xD, 0x32, 0xB7⟩),
    ([0x0C, 0x81, 0x95, 0xDA, 0xC8, 0xB7], .shr ⟨0x15, 0x2A, 0xD, 0x32, 0xB7⟩),
    ([0x0D, 0x81, 0x95, 0xDA, 0xC8, 0xB7], .sar ⟨0x15, 0x2A, 0xD, 0x32, 0xB7⟩),
    ([0x0E, 0x81, 0x95, 0xDA, 0xC8, 0xB7], .rol ⟨0x15, 0x2A, 0xD, 0x32, 0xB7⟩),
    ([0x0F, 0x81, 0x95, 0xDA, 0xC8, 0xB7], .ror ⟨0x15, 0x2A, 0xD, 0x32, 0xB7⟩),
    ([0x10, 0x81, 0x95, 0xDA, 0xC8, 0xB7], .min ⟨0x15, 0x2A, 0xD, 0x32, 0xB7⟩),
    ([0x11, 0x81, 0x95, 0xDA, 0xC8, 0xB7], .max ⟨0x15, 0x2A, 0xD, 0x32, 0xB7⟩),
    ([0x12, 0x81, 0x95, 0xDA, 0xC8, 0xB7], .adds ⟨0x15, 0x2A, 0xD, 0x32, 0xB7⟩),
    ([0x13, 0x81, 0x95, 0xDA, 0xC8, 0xB7], .subs ⟨0x15, 0x2A, 0xD, 0x32, 0xB7⟩),
    ([0x14, 0x81, 0x95, 0xDA, 0xC8, 0xB7], .abs ⟨0x15, 0x2A, 0xD, 0x32, 0xB7⟩),
    ([0x15, 0x81, 0x95, 0xDA, 0xC8, 0xB7], .neg ⟨0x15, 0x2A, 0xD, 0x32, 0xB7⟩),
    ([0x16, 0x81, 0x95, 0xDA, 0xC8, 0xB7], .clz ⟨0x15, 0x2A, 0xD, 0x32, 0xB7⟩),
    ([0x17, 0x81, 0x95, 0xDA, 0xC8, 0xB7], .ctz ⟨0x15, 0x2A, 0xD, 0x32, 0xB7⟩),
    ([0x18, 0x81, 0x95, 0xDA, 0xC8, 0xB7], .popc ⟨0x15, 0x2A, 0xD, 0x32, 0xB7⟩),
    ([0x19, 0x81, 0x95, 0xDA, 0xC8, 0xB7], .brev ⟨0x15, 0x2A, 0xD, 0x32, 0xB7⟩),
    ([0x1A, 0x81, 0x95, 0xDA, 0xC8, 0xB7], .bswap ⟨0x15, 0x2A, 0xD, 0x32, 0xB7⟩),
    ([0x1B, 0x81, 0x95, 0xDA, 0xC8, 0xB7], .cmp ⟨0x15, 0x2A, 0xD, 0x32, 0xB7⟩),
    ([0x1C, 0x81, 0x95, 0xDA, 0xC8, 0xB7], .sel ⟨0x15, 0x2A, 0xD, 0x32, 0xB7⟩),
    ([0x1D, 0x81, 0x95, 0xDA, 0xC8, 0xB7], .bfx ⟨0x15, 0x2A, 0xD, 0x32, 0xB7⟩),
    ([0x1E, 0x81, 0x95, 0xDA, 0xC8, 0xB7], .bfi ⟨0x15, 0x2A, 0xD, 0x32, 0xB7⟩),
    ([0x1F, 0x81, 0x95, 0xDA, 0xC8, 0xB7], .bset ⟨0x15, 0x2A, 0xD, 0x32, 0xB7⟩),
    ([0x20, 0x81, 0x95, 0xDA, 0xC8, 0xB7], .bclr ⟨0x15, 0x2A, 0xD, 0x32, 0xB7⟩),
    ([0x21, 0x81, 0x95, 0xDA, 0xC8, 0xB7], .btgl ⟨0x15, 0x2A, 0xD, 0x32, 0xB7⟩),
    ([0x22, 0x81, 0x95, 0xDA, 0xC8, 0xB7], .clmul ⟨0x15, 0x2A, 0xD, 0x32, 0xB7⟩),
    ([0x23, 0x81, 0x95, 0xDA, 0xC8, 0xB7], .clmulh ⟨0x15, 0x2A, 0xD, 0x32, 0xB7⟩)] = true := by decide +kernel

/-- Words of class 0x2 with L set and S 0, by the codes and tails of R58 and the layouts of R40. -/
theorem test_words_of_class_2 : decodesTo [
    ([0x00, 0x82, 0x95, 0xDA, 0xE4, 0xC5, 0x70, 0xA9], .addImm ⟨0x15, 0x2A, 0xD, 0x2A5C3179⟩),
    ([0x02, 0x82, 0x95, 0xDA, 0xE4, 0xC5, 0x70, 0xA9], .mulImm ⟨0x15, 0x2A, 0xD, 0x2A5C3179⟩),
    ([0x06, 0x82, 0x95, 0xDA, 0xE4, 0xC5, 0x70, 0xA9], .andImm ⟨0x15, 0x2A, 0xD, 0x2A5C3179⟩),
    ([0x07, 0x82, 0x95, 0xDA, 0xE4, 0xC5, 0x70, 0xA9], .orImm ⟨0x15, 0x2A, 0xD, 0x2A5C3179⟩),
    ([0x08, 0x82, 0x95, 0xDA, 0xE4, 0xC5, 0x70, 0xA9], .xorImm ⟨0x15, 0x2A, 0xD, 0x2A5C3179⟩),
    ([0x0B, 0x82, 0x95, 0xDA, 0xE4, 0xC5, 0x70, 0xA9], .shlImm ⟨0x15, 0x2A, 0xD, 0x2A5C3179⟩),
    ([0x0C, 0x82, 0x95, 0xDA, 0xE4, 0xC5, 0x70, 0xA9], .shrImm ⟨0x15, 0x2A, 0xD, 0x2A5C3179⟩),
    ([0x0D, 0x82, 0x95, 0xDA, 0xE4, 0xC5, 0x70, 0xA9], .sarImm ⟨0x15, 0x2A, 0xD, 0x2A5C3179⟩),
    ([0x0E, 0x82, 0x95, 0xDA, 0xE4, 0xC5, 0x70, 0xA9], .rolImm ⟨0x15, 0x2A, 0xD, 0x2A5C3179⟩),
    ([0x0F, 0x82, 0x95, 0xDA, 0xE4, 0xC5, 0x70, 0xA9], .rorImm ⟨0x15, 0x2A, 0xD, 0x2A5C3179⟩),
    ([0x10, 0x82, 0x95, 0xDA, 0xE4, 0xC5, 0x70, 0xA9], .minImm ⟨0x15, 0x2A, 0xD, 0x2A5C3179⟩),
    ([0x11, 0x82, 0x95, 0xDA, 0xE4, 0xC5, 0x70, 0xA9], .maxImm ⟨0x15, 0x2A, 0xD, 0x2A5C3179⟩),
    ([0x12, 0x82, 0x95, 0xDA, 0xE4, 0xC5, 0x70, 0xA9], .addsImm ⟨0x15, 0x2A, 0xD, 0x2A5C3179⟩),
    ([0x1B, 0x82, 0x95, 0xDA, 0xE4, 0xC5, 0x70, 0xA9], .cmpImm ⟨0x15, 0x2A, 0xD, 0x2A5C3179⟩),
    ([0x1F, 0x82, 0x95, 0xDA, 0xE4, 0xC5, 0x70, 0xA9], .bsetImm ⟨0x15, 0x2A, 0xD, 0x2A5C3179⟩),
    ([0x20, 0x82, 0x95, 0xDA, 0xE4, 0xC5, 0x70, 0xA9], .bclrImm ⟨0x15, 0x2A, 0xD, 0x2A5C3179⟩),
    ([0x21, 0x82, 0x95, 0xDA, 0xE4, 0xC5, 0x70, 0xA9], .btglImm ⟨0x15, 0x2A, 0xD, 0x2A5C3179⟩),
    ([0x30, 0x82, 0x95, 0xDA, 0xC8, 0xB7, 0x87, 0x1E, 0x5A, 0xC3], .li ⟨0x15, 0x2A, 0xD, 0x32, 0xB7, 0xC35A1E87⟩),
    ([0x31, 0x82, 0x95, 0xDA, 0xC8, 0xB7, 0x87, 0x1E, 0x5A, 0xC3], .lih ⟨0x15, 0x2A, 0xD, 0x32, 0xB7, 0xC35A1E87⟩),
    ([0x32, 0x82, 0x95, 0xDA, 0xC8, 0xB7, 0x87, 0x1E, 0x5A, 0xC3], .lea ⟨0x15, 0x2A, 0xD, 0x32, 0xB7, 0xC35A1E87⟩)] = true := by decide +kernel

/-- Words of class 0x3 with L set and S 0, by the codes and tails of R59 and the layouts of R40. -/
theorem test_words_of_class_3 : decodesTo [
    ([0x00, 0x83, 0x95, 0xDA, 0xE4, 0xC5, 0x70, 0xA9], .ld ⟨0x15, 0x2A, 0xD, 0x2A5C3179⟩),
    ([0x01, 0x83, 0x95, 0xDA, 0xE4, 0xC5, 0x70, 0xA9], .st ⟨0x15, 0x2A, 0xD, 0x2A5C3179⟩),
    ([0x02, 0x83, 0x95, 0xDA, 0xE4, 0xC5, 0x70, 0xA9], .ldv ⟨0x15, 0x2A, 0xD, 0x2A5C3179⟩),
    ([0x03, 0x83, 0x95, 0xDA, 0xE4, 0xC5, 0x70, 0xA9], .stv ⟨0x15, 0x2A, 0xD, 0x2A5C3179⟩),
    ([0x04, 0x83, 0x95, 0xDA, 0xC8, 0xB7], .ldvs ⟨0x15, 0x2A, 0xD, 0x32, 0xB7⟩),
    ([0x05, 0x83, 0x95, 0xDA, 0xC8, 0xB7], .stvs ⟨0x15, 0x2A, 0xD, 0x32, 0xB7⟩),
    ([0x06, 0x83, 0x95, 0xDA, 0xE4, 0xC5, 0x70, 0xA9], .ldp ⟨0x15, 0x2A, 0xD, 0x2A5C3179⟩),
    ([0x07, 0x83, 0x95, 0xDA, 0xE4, 0xC5, 0x70, 0xA9], .stp ⟨0x15, 0x2A, 0xD, 0x2A5C3179⟩)] = true := by decide +kernel

/-- Words of class 0x4 with L set and S 0, by the codes and tails of R60 and the layouts of R40. -/
theorem test_words_of_class_4 : decodesTo [
    ([0x00, 0x84, 0x95, 0xDA, 0xC8, 0xB7, 0x87, 0x1E, 0x5A, 0xC3], .ldn ⟨0x15, 0x2A, 0xD, 0x32, 0xB7, 0xC35A1E87⟩),
    ([0x01, 0x84, 0x95, 0xDA, 0xC8, 0xB7, 0x87, 0x1E, 0x5A, 0xC3], .stn ⟨0x15, 0x2A, 0xD, 0x32, 0xB7, 0xC35A1E87⟩),
    ([0x02, 0x84, 0x95, 0xDA, 0xC8, 0xB7, 0x87, 0x1E, 0x5A, 0xC3], .ldg ⟨0x15, 0x2A, 0xD, 0x32, 0xB7, 0xC35A1E87⟩),
    ([0x03, 0x84, 0x95, 0xDA, 0xC8, 0xB7, 0x87, 0x1E, 0x5A, 0xC3], .stg ⟨0x15, 0x2A, 0xD, 0x32, 0xB7, 0xC35A1E87⟩),
    ([0x04, 0x84, 0x95, 0xDA, 0xC8, 0xB7, 0x87, 0x1E, 0x5A, 0xC3], .ldgv ⟨0x15, 0x2A, 0xD, 0x32, 0xB7, 0xC35A1E87⟩),
    ([0x05, 0x84, 0x95, 0xDA, 0xC8, 0xB7, 0x87, 0x1E, 0x5A, 0xC3], .stgv ⟨0x15, 0x2A, 0xD, 0x32, 0xB7, 0xC35A1E87⟩),
    ([0x06, 0x84, 0x95, 0xDA, 0xC8, 0xB7, 0x87, 0x1E, 0x5A, 0xC3], .amo ⟨0x15, 0x2A, 0xD, 0x32, 0xB7, 0xC35A1E87⟩),
    ([0x07, 0x84, 0x95, 0xDA, 0xC8, 0xB7, 0x87, 0x1E, 0x5A, 0xC3], .putc ⟨0x15, 0x2A, 0xD, 0x32, 0xB7, 0xC35A1E87⟩),
    ([0x08, 0x84, 0x95, 0xDA, 0xC8, 0xB7], .waitc ⟨0x15, 0x2A, 0xD, 0x32, 0xB7⟩),
    ([0x09, 0x84, 0x95, 0xDA, 0xC8, 0xB7, 0x87, 0x1E, 0x5A, 0xC3], .waita ⟨0x15, 0x2A, 0xD, 0x32, 0xB7, 0xC35A1E87⟩),
    ([0x0A, 0x84, 0x95, 0xDA, 0xC8, 0xB7, 0x87, 0x1E, 0x5A, 0xC3], .wake ⟨0x15, 0x2A, 0xD, 0x32, 0xB7, 0xC35A1E87⟩),
    ([0x0B, 0x84, 0x95, 0xDA, 0xC8, 0xB7], .fence ⟨0x15, 0x2A, 0xD, 0x32, 0xB7⟩),
    ([0x0C, 0x84, 0x95, 0xDA, 0xC8, 0xB7, 0x87, 0x1E, 0x5A, 0xC3], .flush ⟨0x15, 0x2A, 0xD, 0x32, 0xB7, 0xC35A1E87⟩),
    ([0x0D, 0x84, 0x95, 0xDA, 0xC8, 0xB7], .inbox ⟨0x15, 0x2A, 0xD, 0x32, 0xB7⟩),
    ([0x0E, 0x84, 0x95, 0xDA, 0xC8, 0xB7, 0x87, 0x1E, 0x5A, 0xC3], .capgive ⟨0x15, 0x2A, 0xD, 0x32, 0xB7, 0xC35A1E87⟩)] = true := by decide +kernel

/-- Words of class 0x5 with L set and S 0, by the codes and tails of R61 and the layouts of R40. -/
theorem test_words_of_class_5 : decodesTo [
    ([0x00, 0x85, 0x95, 0xDA, 0xC8, 0xB7], .vadd ⟨0x15, 0x2A, 0xD, 0x32, 0xB7⟩),
    ([0x01, 0x85, 0x95, 0xDA, 0xC8, 0xB7], .vsub ⟨0x15, 0x2A, 0xD, 0x32, 0xB7⟩),
    ([0x02, 0x85, 0x95, 0xDA, 0xC8, 0xB7], .vmul ⟨0x15, 0x2A, 0xD, 0x32, 0xB7⟩),
    ([0x03, 0x85, 0x95, 0xDA, 0xC8, 0xB7], .vfma ⟨0x15, 0x2A, 0xD, 0x32, 0xB7⟩),
    ([0x04, 0x85, 0x95, 0xDA, 0xC8, 0xB7], .vfms ⟨0x15, 0x2A, 0xD, 0x32, 0xB7⟩),
    ([0x05, 0x85, 0x95, 0xDA, 0xC8, 0xB7], .vfnma ⟨0x15, 0x2A, 0xD, 0x32, 0xB7⟩),
    ([0x06, 0x85, 0x95, 0xDA, 0xC8, 0xB7], .vdiv ⟨0x15, 0x2A, 0xD, 0x32, 0xB7⟩),
    ([0x07, 0x85, 0x95, 0xDA, 0xC8, 0xB7], .vsqrt ⟨0x15, 0x2A, 0xD, 0x32, 0xB7⟩),
    ([0x08, 0x85, 0x95, 0xDA, 0xC8, 0xB7], .vrcp ⟨0x15, 0x2A, 0xD, 0x32, 0xB7⟩),
    ([0x09, 0x85, 0x95, 0xDA, 0xC8, 0xB7], .vrsq ⟨0x15, 0x2A, 0xD, 0x32, 0xB7⟩),
    ([0x0A, 0x85, 0x95, 0xDA, 0xC8, 0xB7], .vexp2 ⟨0x15, 0x2A, 0xD, 0x32, 0xB7⟩),
    ([0x0B, 0x85, 0x95, 0xDA, 0xC8, 0xB7], .vlog2 ⟨0x15, 0x2A, 0xD, 0x32, 0xB7⟩),
    ([0x0C, 0x85, 0x95, 0xDA, 0xC8, 0xB7], .vmin ⟨0x15, 0x2A, 0xD, 0x32, 0xB7⟩),
    ([0x0D, 0x85, 0x95, 0xDA, 0xC8, 0xB7], .vmax ⟨0x15, 0x2A, 0xD, 0x32, 0xB7⟩),
    ([0x0E, 0x85, 0x95, 0xDA, 0xC8, 0xB7], .vabs ⟨0x15, 0x2A, 0xD, 0x32, 0xB7⟩),
    ([0x0F, 0x85, 0x95, 0xDA, 0xC8, 0xB7], .vneg ⟨0x15, 0x2A, 0xD, 0x32, 0xB7⟩),
    ([0x10, 0x85, 0x95, 0xDA, 0xC8, 0xB7], .vcmp ⟨0x15, 0x2A, 0xD, 0x32, 0xB7⟩),
    ([0x11, 0x85, 0x95, 0xDA, 0xC8, 0xB7], .vsel ⟨0x15, 0x2A, 0xD, 0x32, 0xB7⟩),
    ([0x12, 0x85, 0x95, 0xDA, 0xC8, 0xB7], .vclass ⟨0x15, 0x2A, 0xD, 0x32, 0xB7⟩)] = true := by decide +kernel

/-- Words of class 0x6 with L set and S 0, by the codes and tails of R62 and the layouts of R40. -/
theorem test_words_of_class_6 : decodesTo [
    ([0x00, 0x86, 0x95, 0xDA, 0xC8, 0xB7], .viadd ⟨0x15, 0x2A, 0xD, 0x32, 0xB7⟩),
    ([0x01, 0x86, 0x95, 0xDA, 0xC8, 0xB7], .visub ⟨0x15, 0x2A, 0xD, 0x32, 0xB7⟩),
    ([0x02, 0x86, 0x95, 0xDA, 0xC8, 0xB7], .vimul ⟨0x15, 0x2A, 0xD, 0x32, 0xB7⟩),
    ([0x03, 0x86, 0x95, 0xDA, 0xC8, 0xB7], .vimad ⟨0x15, 0x2A, 0xD, 0x32, 0xB7⟩),
    ([0x04, 0x86, 0x95, 0xDA, 0xC8, 0xB7], .vimin ⟨0x15, 0x2A, 0xD, 0x32, 0xB7⟩),
    ([0x05, 0x86, 0x95, 0xDA, 0xC8, 0xB7], .vimax ⟨0x15, 0x2A, 0xD, 0x32, 0xB7⟩),
    ([0x06, 0x86, 0x95, 0xDA, 0xC8, 0xB7], .vand ⟨0x15, 0x2A, 0xD, 0x32, 0xB7⟩),
    ([0x07, 0x86, 0x95, 0xDA, 0xC8, 0xB7], .vor ⟨0x15, 0x2A, 0xD, 0x32, 0xB7⟩),
    ([0x08, 0x86, 0x95, 0xDA, 0xC8, 0xB7], .vxor ⟨0x15, 0x2A, 0xD, 0x32, 0xB7⟩),
    ([0x09, 0x86, 0x95, 0xDA, 0xC8, 0xB7], .vshl ⟨0x15, 0x2A, 0xD, 0x32, 0xB7⟩),
    ([0x0A, 0x86, 0x95, 0xDA, 0xC8, 0xB7], .vshr ⟨0x15, 0x2A, 0xD, 0x32, 0xB7⟩),
    ([0x0B, 0x86, 0x95, 0xDA, 0xC8, 0xB7], .vsar ⟨0x15, 0x2A, 0xD, 0x32, 0xB7⟩),
    ([0x0C, 0x86, 0x95, 0xDA, 0xC8, 0xB7], .viadds ⟨0x15, 0x2A, 0xD, 0x32, 0xB7⟩),
    ([0x0D, 0x86, 0x95, 0xDA, 0xC8, 0xB7], .vicmp ⟨0x15, 0x2A, 0xD, 0x32, 0xB7⟩),
    ([0x0E, 0x86, 0x95, 0xDA, 0xC8, 0xB7], .vclmul ⟨0x15, 0x2A, 0xD, 0x32, 0xB7⟩),
    ([0x0F, 0x86, 0x95, 0xDA, 0xC8, 0xB7, 0x87, 0x1E, 0x5A, 0xC3], .vrng ⟨0x15, 0x2A, 0xD, 0x32, 0xB7, 0xC35A1E87⟩)] = true := by decide +kernel

/-- Words of class 0x7 with L set and S 0, by the codes and tails of R63 and the layouts of R40. -/
theorem test_words_of_class_7 : decodesTo [
    ([0x00, 0x87, 0x95, 0xDA, 0xC8, 0xB7], .vmov ⟨0x15, 0x2A, 0xD, 0x32, 0xB7⟩),
    ([0x01, 0x87, 0x95, 0xDA, 0xC8, 0xB7], .vbcast ⟨0x15, 0x2A, 0xD, 0x32, 0xB7⟩),
    ([0x02, 0x87, 0x95, 0xDA, 0xC8, 0xB7], .vins ⟨0x15, 0x2A, 0xD, 0x32, 0xB7⟩),
    ([0x03, 0x87, 0x95, 0xDA, 0xC8, 0xB7], .vext ⟨0x15, 0x2A, 0xD, 0x32, 0xB7⟩),
    ([0x04, 0x87, 0x95, 0xDA, 0xC8, 0xB7], .vperm ⟨0x15, 0x2A, 0xD, 0x32, 0xB7⟩),
    ([0x05, 0x87, 0x95, 0xDA, 0xC8, 0xB7], .vrot ⟨0x15, 0x2A, 0xD, 0x32, 0xB7⟩),
    ([0x06, 0x87, 0x95, 0xDA, 0xC8, 0xB7], .vcvt ⟨0x15, 0x2A, 0xD, 0x32, 0xB7⟩),
    ([0x07, 0x87, 0x95, 0xDA, 0xC8, 0xB7], .vpack ⟨0x15, 0x2A, 0xD, 0x32, 0xB7⟩),
    ([0x08, 0x87, 0x95, 0xDA, 0xC8, 0xB7], .vunpk ⟨0x15, 0x2A, 0xD, 0x32, 0xB7⟩),
    ([0x09, 0x87, 0x95, 0xDA, 0xC8, 0xB7], .vqnt ⟨0x15, 0x2A, 0xD, 0x32, 0xB7⟩),
    ([0x0A, 0x87, 0x95, 0xDA, 0xC8, 0xB7], .vdqnt ⟨0x15, 0x2A, 0xD, 0x32, 0xB7⟩)] = true := by decide +kernel

/-- Words of class 0x8 with L set and S 0, by the codes and tails of R64 and the layouts of R40. -/
theorem test_words_of_class_8 : decodesTo [
    ([0x00, 0x88, 0x95, 0xDA, 0xC8, 0xB7], .vred ⟨0x15, 0x2A, 0xD, 0x32, 0xB7⟩),
    ([0x01, 0x88, 0x95, 0xDA, 0xC8, 0xB7], .vdot ⟨0x15, 0x2A, 0xD, 0x32, 0xB7⟩),
    ([0x02, 0x88, 0x95, 0xDA, 0xC8, 0xB7, 0x87, 0x1E, 0x5A, 0xC3], .vdist ⟨0x15, 0x2A, 0xD, 0x32, 0xB7, 0xC35A1E87⟩),
    ([0x03, 0x88, 0x95, 0xDA, 0xC8, 0xB7], .vtopk ⟨0x15, 0x2A, 0xD, 0x32, 0xB7⟩),
    ([0x04, 0x88, 0x95, 0xDA, 0xC8, 0xB7], .vgath ⟨0x15, 0x2A, 0xD, 0x32, 0xB7⟩),
    ([0x05, 0x88, 0x95, 0xDA, 0xC8, 0xB7], .vscat ⟨0x15, 0x2A, 0xD, 0x32, 0xB7⟩),
    ([0x06, 0x88, 0x95, 0xDA, 0xC8, 0xB7], .vpopc ⟨0x15, 0x2A, 0xD, 0x32, 0xB7⟩),
    ([0x07, 0x88, 0x95, 0xDA, 0xC8, 0xB7], .vscan ⟨0x15, 0x2A, 0xD, 0x32, 0xB7⟩)] = true := by decide +kernel

/-- Words of class 0x9 with L set and S 0, by the codes and tails of R65 and the layouts of R40. -/
theorem test_words_of_class_9 : decodesTo [
    ([0x00, 0x89, 0x6A, 0x93], .send ⟨0x2A, 0xD, 0x9⟩),
    ([0x01, 0x89, 0x95, 0x1A, 0xC3, 0xA5], .muxsel ⟨0x15, 0x2A, 0xA5C31⟩),
    ([0x02, 0x89, 0x95, 0x1A, 0xC3, 0xA5], .recv ⟨0x15, 0x2A, 0xA5C31⟩),
    ([0x03, 0x89, 0x95, 0x1A, 0xC3, 0xA5], .recvm ⟨0x15, 0x2A, 0xA5C31⟩)] = true := by decide +kernel

/-- Words of class 0xA with L set and S 0, by the codes and tails of R66 and the layouts of R40. -/
theorem test_words_of_class_A : decodesTo [
    ([0x00, 0x8A, 0x95, 0xDA, 0xC8, 0xB7], .mclaim ⟨0x15, 0x2A, 0xD, 0x32, 0xB7⟩),
    ([0x01, 0x8A, 0x95, 0xDA, 0xC8, 0xB7], .mrel ⟨0x15, 0x2A, 0xD, 0x32, 0xB7⟩),
    ([0x02, 0x8A, 0x95, 0xDA, 0xC8, 0xB7, 0x87, 0x1E, 0x5A, 0xC3], .mload ⟨0x15, 0x2A, 0xD, 0x32, 0xB7, 0xC35A1E87⟩),
    ([0x03, 0x8A, 0x95, 0xDA, 0xC8, 0xB7, 0x87, 0x1E, 0x5A, 0xC3], .mstore ⟨0x15, 0x2A, 0xD, 0x32, 0xB7, 0xC35A1E87⟩),
    ([0x04, 0x8A, 0x95, 0xDA, 0xC8, 0xB7], .mzero ⟨0x15, 0x2A, 0xD, 0x32, 0xB7⟩),
    ([0x05, 0x8A, 0x95, 0xDA, 0xC8, 0xB7], .mgang ⟨0x15, 0x2A, 0xD, 0x32, 0xB7⟩),
    ([0x06, 0x8A, 0x95, 0xDA, 0xC8, 0xB7, 0x87, 0x1E, 0x5A, 0xC3], .mdrain ⟨0x15, 0x2A, 0xD, 0x32, 0xB7, 0xC35A1E87⟩),
    ([0x07, 0x8A, 0x95, 0xDA, 0xC8, 0xB7], .mgeo ⟨0x15, 0x2A, 0xD, 0x32, 0xB7⟩)] = true := by decide +kernel

/-- Words of class 0xB with L set and S 0, by the codes and tails of R67 and the layouts of R40. -/
theorem test_words_of_class_B : decodesTo [
    ([0x00, 0x8B, 0x95, 0xDA, 0xC8, 0xB7, 0x87, 0x1E, 0x5A, 0xC3], .copy ⟨0x15, 0x2A, 0xD, 0x32, 0xB7, 0xC35A1E87⟩),
    ([0x01, 0x8B, 0x95, 0xDA, 0xC8, 0xB7], .jtest ⟨0x15, 0x2A, 0xD, 0x32, 0xB7⟩),
    ([0x02, 0x8B, 0x95, 0xDA, 0xC8, 0xB7], .jwait ⟨0x15, 0x2A, 0xD, 0x32, 0xB7⟩),
    ([0x03, 0x8B, 0x95, 0xDA, 0xC8, 0xB7, 0x87, 0x1E, 0x5A, 0xC3], .board ⟨0x15, 0x2A, 0xD, 0x32, 0xB7, 0xC35A1E87⟩),
    ([0x04, 0x8B, 0x95, 0xDA, 0xC8, 0xB7], .bstat ⟨0x15, 0x2A, 0xD, 0x32, 0xB7⟩),
    ([0x05, 0x8B, 0x95, 0xDA, 0xC8, 0x00], .covqNext ⟨0x15, 0x2A, 0xD, 0x32, 0x0⟩),
    ([0x05, 0x8B, 0x95, 0xDA, 0xC8, 0x01], .covqRank ⟨0x15, 0x2A, 0xD, 0x32, 0x1⟩),
    ([0x05, 0x8B, 0x95, 0xDA, 0xC8, 0x02], .covqInfo ⟨0x15, 0x2A, 0xD, 0x32, 0x2⟩),
    ([0x05, 0x8B, 0x95, 0xDA, 0xC8, 0x03], .covqKeep ⟨0x15, 0x2A, 0xD, 0x32, 0x3⟩)] = true := by decide +kernel

/-- Words of class 0xC with L set and S 0, by the codes and tails of R68 and the layouts of R40. -/
theorem test_words_of_class_C : decodesTo [
    ([0x00, 0x8C, 0x95, 0xDA, 0xC8, 0xB7, 0x87, 0x1E, 0x5A, 0xC3], .trace ⟨0x15, 0x2A, 0xD, 0x32, 0xB7, 0xC35A1E87⟩),
    ([0x01, 0x8C, 0x95, 0xDA, 0xC8, 0xB7], .lacc ⟨0x15, 0x2A, 0xD, 0x32, 0xB7⟩),
    ([0x02, 0x8C, 0x95, 0xDA, 0xC8, 0xB7], .laccz ⟨0x15, 0x2A, 0xD, 0x32, 0xB7⟩),
    ([0x03, 0x8C, 0x95, 0x1A, 0xC3, 0xA5], .gov ⟨0x15, 0x2A, 0xA5C31⟩)] = true := by decide +kernel

/-- R55: classes 0xD to 0xF and the codes that no table lists are taken as form Z. -/
theorem test_words_unassigned : decodesTo [
    ([0x12, 0x80], .unassignedOpcode 0x012 ⟨0, 0, 0, 0, 0⟩),
    ([0x01, 0x82], .unassignedOpcode 0x201 ⟨0, 0, 0, 0, 0⟩),
    ([0x04, 0x8C], .unassignedOpcode 0xC04 ⟨0, 0, 0, 0, 0⟩),
    ([0x00, 0x8D], .unassignedOpcode 0xD00 ⟨0, 0, 0, 0, 0⟩),
    ([0x05, 0x8B, 0x95, 0xDA, 0xC8, 0x04], .unassignedOpcode 0xB05 ⟨0x15, 0x2A, 0x0D, 0x32, 0x04⟩)] = true := by decide +kernel

/-- R40, R100: the words of the tables after R100 and R102, bit by bit. -/
theorem test_words_of_the_spec : decodesTo [
    ([0x1B, 0x01, 0x07, 0x55, 0x09, 0x17], .cmp ⟨7, 20, 21, 2, 0b0001_0111⟩),
    ([0x1C, 0x01, 0x54, 0x65, 0x1D, 0x02], .sel ⟨20, 21, 22, 7, 2⟩),
    ([0x1D, 0x01, 0x54, 0x85, 0x0C, 0x03], .bfx ⟨20, 21, 8, 3, 3⟩),
    ([0x32, 0x02, 0x54, 0x65, 0x01, 0x03, 0x10, 0, 0, 0], .lea ⟨20, 21, 22, 0, 3, 16⟩),
    ([0x01, 0x03, 0x15, 0x15, 0x18, 0, 0, 0], .st ⟨21, 20, 1, 6⟩),
    ([0x03, 0x05, 0x44, 0x20, 0x0C, 0x00], .vfma ⟨4, 1, 2, 3, 0⟩)] = true := by decide +kernel

/-- R39, R42: the line of the worked example holds four heads, and its fourth is HALT. -/
theorem test_line_of_the_spec :
    (match decodeLine (packLine [⟨0x0230, 0x100_0000_0014⟩, ⟨0x0300, 0x10_2515⟩, ⟨0x2100, 0x0701_5556⟩, ⟨0x800A, 0⟩]) with
    | .ok xs => xs.map (·.instr) == [.li ⟨20, 0, 0, 0, 0, 0x100⟩, .ld ⟨21, 20, 2, 4⟩, .add ⟨22, 21, 21, 0, 7⟩, .halt]
    | .error _ => false) = true := by decide +kernel

/-- The two places where the opcode table's words reach the machine agree on ADD. -/
theorem test_table_word : decodeTableWord 48 0x0701_5556_0100 = some (.add ⟨22, 21, 21, 0, 7⟩) := by decide +kernel

/-- One step runs a placed ADD: g7 is 5 and g6 becomes 10. -/
theorem test_step_of_word : (next? ((State.reset.withFetchWord 48 0x0700_71C6_0100).setCore 0
    (regs [(7, 5)] ((State.reset.withFetchWord 48 0x0700_71C6_0100).core 0)))).any (fun s => lastGen (s.core 0) == some 10) = true := by decide +kernel

/-! ### Single steps -/

/-- R90: 2^63 - 1 + 1 wraps to -2^63. -/
theorem test_add_wraps : gives (.add ⟨1, 2, 3, 0, 7⟩) (regs [(2, 0x7FFF_FFFF_FFFF_FFFF), (3, 1)]) 0x8000_0000_0000_0000 = true := by decide +kernel

/-- R90: the difference of natural bytes wraps to 254. -/
theorem test_sub_wraps : gives (.sub ⟨1, 2, 3, 0, 0⟩) (regs [(2, 3), (3, 5)]) 0xFE = true := by decide +kernel

/-- R90: 2^16 times 2^16 keeps 32 bits, which are 0; 0x18000 times 0x18000 keeps 0x4000_0000. -/
theorem test_mul_keeps_low : gives (.mul ⟨1, 2, 3, 0, 6⟩) (regs [(2, 0x18000), (3, 0x18000)]) 0x4000_0000 = true := by decide +kernel

/-- R90: the high half of -1 times 1 is floor(-1 / 256). -/
theorem test_mulh_floors : gives (.mulh ⟨1, 2, 3, 0, 4⟩) (regs [(2, 0xFF), (3, 1)]) 0xFFFF_FFFF_FFFF_FFFF = true := by decide +kernel

/-- R92, first row of the table after it. -/
theorem test_div_truncates : gives (.div ⟨1, 2, 3, 0, 6⟩) (regs [(2, 7), (3, -2)]) 0xFFFF_FFFF_FFFF_FFFD = true := by decide +kernel

/-- R92, third row. -/
theorem test_div_wraps : gives (.div ⟨1, 2, 3, 0, 6⟩) (regs [(2, 0x8000_0000), (3, 0xFFFF_FFFF)]) 0xFFFF_FFFF_8000_0000 = true := by decide +kernel

/-- R92, second row. -/
theorem test_rem_sign : gives (.rem ⟨1, 2, 3, 0, 6⟩) (regs [(2, 7), (3, -2)]) 1 = true := by decide +kernel

/-- R92, fifth row. -/
theorem test_rem_by_zero : gives (.rem ⟨1, 2, 3, 0, 4⟩) (regs [(2, 0xFB)]) 0xFFFF_FFFF_FFFF_FFFB = true := by decide +kernel

/-- R90, bit by bit. -/
theorem test_and_patterns : gives (.and ⟨1, 2, 3, 0, 0⟩) (regs [(2, 0xF3C), (3, 0xF5A)]) 0x18 = true := by decide +kernel

/-- R90, bit by bit. -/
theorem test_or_patterns : gives (.or ⟨1, 2, 3, 0, 4⟩) (regs [(2, 0x80), (3, 0x01)]) 0xFFFF_FFFF_FFFF_FF81 = true := by decide +kernel

/-- R90, bit by bit. -/
theorem test_xor_patterns : gives (.xor ⟨1, 2, 3, 0, 1⟩) (regs [(2, 0x1FF00), (3, 0x0FFF)]) 0xF0FF = true := by decide +kernel

/-- R90: x AND NOT y. -/
theorem test_andn_patterns : gives (.andn ⟨1, 2, 3, 0, 0⟩) (regs [(2, 0xFF), (3, 0x0F)]) 0xF0 = true := by decide +kernel

/-- R90: x OR NOT y. -/
theorem test_orn_patterns : gives (.orn ⟨1, 2, 3, 0, 0⟩) (regs [(2, 0x01), (3, 0xF0)]) 0x0F = true := by decide +kernel

/-- R90: a count of 9 on bytes is 1. -/
theorem test_shl_counts_mod_width : gives (.shl ⟨1, 2, 3, 0, 0⟩) (regs [(2, 0x81), (3, 9)]) 0x02 = true := by decide +kernel

/-- R90: a logical shift. -/
theorem test_shr_logical : gives (.shr ⟨1, 2, 3, 0, 4⟩) (regs [(2, 0x82), (3, 1)]) 0x41 = true := by decide +kernel

/-- R90: arithmetic for either signedness. -/
theorem test_sar_arithmetic : gives (.sar ⟨1, 2, 3, 0, 0⟩) (regs [(2, 0x81), (3, 1)]) 0xC0 = true := by decide +kernel

/-- R90: left within 8 bits. -/
theorem test_rol_within_width : gives (.rol ⟨1, 2, 3, 0, 0⟩) (regs [(2, 0x81), (3, 1)]) 0x03 = true := by decide +kernel

/-- R90: right within 8 bits. -/
theorem test_ror_within_width : gives (.ror ⟨1, 2, 3, 0, 0⟩) (regs [(2, 0x81), (3, 1)]) 0xC0 = true := by decide +kernel

/-- R90: -1 is the lesser of -1 and 1. -/
theorem test_min_signed : gives (.min ⟨1, 2, 3, 0, 4⟩) (regs [(2, 0xFF), (3, 1)]) 0xFFFF_FFFF_FFFF_FFFF = true := by decide +kernel

/-- R90: 255 is the greater of 255 and 1. -/
theorem test_max_natural : gives (.max ⟨1, 2, 3, 0, 0⟩) (regs [(2, 0xFF), (3, 1)]) 0xFF = true := by decide +kernel

/-- R92, sixth row: 127, and SAT set. -/
theorem test_adds_clamps : after (placed (.adds ⟨1, 2, 3, 0, 4⟩) (regs [(2, 100), (3, 100)])) (fun c => lastGen c == some 127 && lastFlags c == 0x8000) = true := by decide +kernel

/-- R92, seventh row: 0, and SAT set. -/
theorem test_subs_clamps : after (placed (.subs ⟨1, 2, 3, 0, 1⟩) (regs [(2, 3), (3, 5)])) (fun c => lastGen c == some 0 && lastFlags c == 0x8000) = true := by decide +kernel

/-- R90: -2^7 wraps to itself. -/
theorem test_abs_wraps : gives (.abs ⟨1, 2, 0, 0, 4⟩) (regs [(2, 0x80)]) 0xFFFF_FFFF_FFFF_FF80 = true := by decide +kernel

/-- R90. -/
theorem test_neg_wraps : gives (.neg ⟨1, 2, 0, 0, 0⟩) (regs [(2, 1)]) 0xFF = true := by decide +kernel

/-- R90: 15 leading zero bits in 16. -/
theorem test_clz_of_one : gives (.clz ⟨1, 2, 0, 0, 1⟩) (regs [(2, 0x10001)]) 15 = true := by decide +kernel

/-- R90: N when x is 0. -/
theorem test_ctz_of_zero : gives (.ctz ⟨1, 2, 0, 0, 1⟩) (regs [(2, 0x10000)]) 16 = true := by decide +kernel

/-- R90. -/
theorem test_popc_of_byte : gives (.popc ⟨1, 2, 0, 0, 4⟩) (regs [(2, 0xFFF)]) 8 = true := by decide +kernel

/-- R90: bit 0 to bit 7. -/
theorem test_brev_of_byte : gives (.brev ⟨1, 2, 0, 0, 0⟩) (regs [(2, 0x03)]) 0xC0 = true := by decide +kernel

/-- R90: byte j to byte 3 - j. -/
theorem test_bswap_of_word : gives (.bswap ⟨1, 2, 0, 0, 2⟩) (regs [(2, 0x0102_0304)]) 0x0403_0201 = true := by decide +kernel

/-- R93: -1 < 1 into bit 2, the other bits of g7 kept. -/
theorem test_cmp_writes_bit : gives (.cmp ⟨7, 2, 3, 2, 0x17⟩) (regs [(2, -1), (3, 1), (7, 0x81)]) 0x85 = true := by decide +kernel

/-- R94: bit 2 of g7 is 1. -/
theorem test_sel_by_bit : gives (.sel ⟨1, 2, 3, 7, 2⟩) (regs [(2, 10), (3, 20), (7, 4)]) 10 = true := by decide +kernel

/-- R95: the field 1111 of type .i64 is -1. -/
theorem test_bfx_signed : gives (.bfx ⟨1, 2, 8, 3, 7⟩) (regs [(2, 0xF00)]) 0xFFFF_FFFF_FFFF_FFFF = true := by decide +kernel

/-- R95: a field past bit 63 is refused with QUAL 0x03. -/
theorem test_bfx_past_top : traps (.bfx ⟨1, 2, 63, 1, 7⟩) id 0x01 0x03 0 = true := by decide +kernel

/-- R95: bits 11 to 8 replaced. -/
theorem test_bfi_inserts : gives (.bfi ⟨1, 2, 8, 3, 0⟩) (regs [(1, 0xFFFF), (2, 0x125)]) 0xF5FF = true := by decide +kernel

/-- R96: the index is taken from 6 bits. -/
theorem test_bset_index : gives (.bset ⟨1, 2, 3, 0, 0⟩) (regs [(2, 1), (3, 65)]) 3 = true := by decide +kernel

/-- R96. -/
theorem test_bclr_index : gives (.bclr ⟨1, 2, 3, 0, 0⟩) (regs [(2, 3), (3, 0)]) 2 = true := by decide +kernel

/-- R96. -/
theorem test_btgl_index : gives (.btgl ⟨1, 2, 3, 0, 0⟩) (regs [(2, 1), (3, 63)]) 0x8000_0000_0000_0001 = true := by decide +kernel

/-- R97: (x + 1)^2 is x^2 + 1. -/
theorem test_clmul_square : gives (.clmul ⟨1, 2, 3, 0, 0⟩) (regs [(2, 3), (3, 3)]) 5 = true := by decide +kernel

/-- R97: bit 63 times bit 1 is bit 64. -/
theorem test_clmulh_carry : gives (.clmulh ⟨1, 2, 3, 0, 0⟩) (regs [(2, 0x8000_0000_0000_0000), (3, 2)]) 1 = true := by decide +kernel

/-- R98: the immediate is sign-extended. -/
theorem test_addImm_negative : gives (.addImm ⟨1, 2, 7, 0x3FFF_FFFF⟩) (regs [(2, 5)]) 4 = true := by decide +kernel

/-- R98: 200 times 2 in signed bytes. -/
theorem test_mulImm_wraps : gives (.mulImm ⟨1, 2, 4, 200⟩) (regs [(2, 2)]) 0xFFFF_FFFF_FFFF_FF90 = true := by decide +kernel

/-- R98: AND with -16. -/
theorem test_andImm_negative : gives (.andImm ⟨1, 2, 3, 0x3FFF_FFF0⟩) (regs [(2, 0x123F)]) 0x1230 = true := by decide +kernel

/-- R98. -/
theorem test_orImm_natural : gives (.orImm ⟨1, 2, 0, 0xF0⟩) (regs [(2, 0x0A)]) 0xFA = true := by decide +kernel

/-- R98. -/
theorem test_xorImm_natural : gives (.xorImm ⟨1, 2, 0, 0xFF⟩) (regs [(2, 0x0A)]) 0xF5 = true := by decide +kernel

/-- R98. -/
theorem test_shlImm_of_byte : gives (.shlImm ⟨1, 2, 0, 7⟩) (regs [(2, 3)]) 0x80 = true := by decide +kernel

/-- R98: 8 is outside 0 to N - 1 for a byte. -/
theorem test_shlImm_past_width : traps (.shlImm ⟨1, 2, 0, 8⟩) id 0x01 0x03 0 = true := by decide +kernel

/-- R98. -/
theorem test_shrImm_of_byte : gives (.shrImm ⟨1, 2, 4, 7⟩) (regs [(2, 0x80)]) 1 = true := by decide +kernel

/-- R98. -/
theorem test_sarImm_of_byte : gives (.sarImm ⟨1, 2, 0, 7⟩) (regs [(2, 0x80)]) 0xFF = true := by decide +kernel

/-- R98. -/
theorem test_rolImm_of_byte : gives (.rolImm ⟨1, 2, 0, 4⟩) (regs [(2, 0x12)]) 0x21 = true := by decide +kernel

/-- R98. -/
theorem test_rorImm_of_byte : gives (.rorImm ⟨1, 2, 0, 1⟩) (regs [(2, 0x01)]) 0x80 = true := by decide +kernel

/-- R98: the lesser of 5 and -1. -/
theorem test_minImm_signed : gives (.minImm ⟨1, 2, 7, 0x3FFF_FFFF⟩) (regs [(2, 5)]) 0xFFFF_FFFF_FFFF_FFFF = true := by decide +kernel

/-- R98: the greater of 5 and 2^64 - 1. -/
theorem test_maxImm_natural : gives (.maxImm ⟨1, 2, 3, 0x3FFF_FFFF⟩) (regs [(2, 5)]) 0xFFFF_FFFF_FFFF_FFFF = true := by decide +kernel

/-- R92, R98. -/
theorem test_addsImm_clamps : after (placed (.addsImm ⟨1, 2, 4, 100⟩) (regs [(2, 100)])) (fun c => lastGen c == some 127 && lastFlags c == 0x8000) = true := by decide +kernel

/-- R98: 5 > -1 into bit 3. -/
theorem test_cmpImm_negative : gives (.cmpImm ⟨1, 2, 0x27, 0x3FF_FFFF⟩) (regs [(2, 5)]) 8 = true := by decide +kernel

/-- R96, R98. -/
theorem test_bsetImm_top : gives (.bsetImm ⟨1, 2, 0, 63⟩) (regs [(2, 1)]) 0x8000_0000_0000_0001 = true := by decide +kernel

/-- R96, R98. -/
theorem test_bclrImm_low : gives (.bclrImm ⟨1, 2, 0, 0⟩) (regs [(2, 3)]) 2 = true := by decide +kernel

/-- R96, R98. -/
theorem test_btglImm_low : gives (.btglImm ⟨1, 2, 0, 1⟩) (regs [(2, 3)]) 1 = true := by decide +kernel

/-- R99: the LI of the table after R100. -/
theorem test_li_extends : gives (.li ⟨1, 0, 0, 0, 0, 0x89AB_CDEF⟩) id 0xFFFF_FFFF_89AB_CDEF = true := by decide +kernel

/-- R99: the LIH after it. -/
theorem test_lih_upper : gives (.lih ⟨1, 0, 0, 0, 0, 0x0123_4567⟩) (regs [(1, 0xFFFF_FFFF_89AB_CDEF)]) 0x0123_4567_89AB_CDEF = true := by decide +kernel

/-- R100: g2 + g3 * 8 + 16. -/
theorem test_lea_scales : gives (.lea ⟨1, 2, 3, 0, 3, 16⟩) (regs [(2, 0x1000), (3, 2)]) 0x1020 = true := by decide +kernel

/-- R102: two bytes, sign-extended. -/
theorem test_ld_extends : (next? (stored 0x106 2 0xFFFE (placed (.ld ⟨1, 2, 5, 6⟩) (regs [(2, 0x100)])))).any (fun s => lastGen (s.core 0) == some 0xFFFF_FFFF_FFFF_FFFE) = true := by decide +kernel

/-- R101: an odd address of a 2-byte load is misaligned. -/
theorem test_ld_misaligned : traps (.ld ⟨1, 2, 5, 5⟩) (regs [(2, 0x100)]) 0x08 0x00 0x105 = true := by decide +kernel

/-- R102: two bytes at 0x106, and none beside them. -/
theorem test_st_stores : (next? (placed (.st ⟨1, 2, 1, 6⟩) (regs [(1, 0x1234_5678), (2, 0x100)]))).any (fun s => Memory.readLE s.mem (sliceKey 0 0x104) 8 == 0x5678_0000) = true := by decide +kernel

/-- R101: one byte past the slice, of a write: QUAL 0x05. -/
theorem test_st_past_slice : traps (.st ⟨1, 2, 0, 0⟩) (regs [(2, 0x4_0000)]) 0x09 0x05 0x4_0000 = true := by decide +kernel

/-- R103: 64 bytes, the lowest in lane 0. -/
theorem test_ldv_loads : (next? (stored 0x140 64 (2 ^ 504 + 7) (placed (.ldv ⟨1, 2, 0, 0x40⟩) (regs [(2, 0x100)])))).any (fun s => lastVec (s.core 0) == some (2 ^ 504 + 7)) = true := by decide +kernel

/-- R103. -/
theorem test_stv_stores : (next? (placed (.stv ⟨1, 2, 0, 0x40⟩) (fun c => vecs [(1, 2 ^ 504 + 7)] (regs [(2, 0x100)] c)))).any (fun s => Memory.readLE s.mem (sliceKey 0 0x140) 64 == 2 ^ 504 + 7) = true := by decide +kernel

/-- R104: elements of 8 bytes at a stride of 16. -/
theorem test_ldvs_strides : (next? (stored 0x110 8 5 (stored 0x100 8 3 (placed (.ldvs ⟨1, 2, 3, 0, 3⟩) (regs [(2, 0x100), (3, 16)]))))).any (fun s => lastVec (s.core 0) == some (5 * 2 ^ 64 + 3)) = true := by decide +kernel

/-- R104: with a stride of 0 the last element's bytes stand. -/
theorem test_stvs_overlaps : (next? (placed (.stvs ⟨1, 2, 0, 0, 3⟩) (fun c => vecs [(1, 9 * 2 ^ 448 + 3)] (regs [(2, 0x100)] c)))).any (fun s => Memory.readLE s.mem (sliceKey 0 0x100) 16 == 9) = true := by decide +kernel

/-- R105: the second doubleword goes to b. -/
theorem test_ldp_second : (next? (stored 0x108 8 6 (placed (.ldp ⟨1, 2, 3, 0⟩) (regs [(2, 0x100)])))).any (fun s => lastGen (s.core 0) == some 6) = true := by decide +kernel

/-- R105: d at ea and b at ea + 8. -/
theorem test_stp_pair : (next? (placed (.stp ⟨1, 2, 3, 0⟩) (regs [(1, 5), (2, 0x100), (3, 6)]))).any (fun s => Memory.readLE s.mem (sliceKey 0 0x100) 16 == 6 * 2 ^ 64 + 5) = true := by decide +kernel

/-- R44: a displacement of 0 names the line base. -/
theorem test_j_to_line : after (placed (.j ⟨0, 0, 0⟩) id) (fun c => c.pc == 0) = true := by decide +kernel

/-- R45: an odd target is bad. -/
theorem test_jr_bad_target : traps (.jr ⟨2, 0, 0⟩) (regs [(2, 1)]) 0x01 0x04 1 = true := by decide +kernel

/-- R107: SeqNext of a line's last head is the next line; the window moves by 32. -/
theorem test_call_pushes : after (placed (.call ⟨0, 0, 0⟩) id) (fun c => c.ras == [0x40] && c.slot == 32 && c.res == 2 && c.pc == 0) = true := by decide +kernel

/-- R107: no return address held and none saved is the fault 0x07. -/
theorem test_ret_underflow : traps .ret id 0x07 0 0 = true := by decide +kernel

/-- R108: an end before the body is refused with EADDR at the end. -/
theorem test_loop_end_before : traps (.loop ⟨0, 2, 0, 0⟩) (regs [(2, 2)]) 0x01 0x03 0 = true := by decide +kernel

/-- R111: LEN 0, COUNT 3, STRIDE 1, FLD 1100, BASE the next line. -/
theorem test_rep_starts : after (placed (.rep ⟨1, 12, 0x18⟩) id) (fun c => c.reps == 0x0003_C040_0000_0040 && c.pc == 0x40) = true := by decide +kernel

/-- R121: cause 0x17 with its number; EPC is the next PC. -/
theorem test_trap_number : after (placed (.trap ⟨0, 0, 5⟩) id) (fun c => c.hm && c.ecause == 0x517 && c.epc == 0x40) = true := by decide +kernel

/-- R120, R121: EPC is the BKPT. -/
theorem test_bkpt_traps : traps .bkpt id 0x16 0 0 = true := by decide +kernel

/-- R120: ESTAT back to STAT, PC at EPC. -/
theorem test_rett_restores : after (placed .rett (fun c => { handler c with estat := 0x40, epc := 0 })) (fun c => c.stat == 0x40 && c.pc == 0) = true := by decide +kernel

/-- R123. -/
theorem test_halt_retires : after (placed .halt id) (fun c => c.run == .halted) = true := by decide +kernel

/-- R123. -/
theorem test_nop_goes_on : after (placed .nop id) (fun c => c.pc == 0x40) = true := by decide +kernel

/-- R34: LC0 is register 0x10. -/
theorem test_mfc_lc0 : gives (.mfc ⟨1, 0, 0x10⟩) (fun c => { c with lc0 := 7 }) 7 = true := by decide +kernel

/-- R124: reserved bits of TVEC stay 0. -/
theorem test_mtc_reserved : after (placed (.mtc ⟨0, 2, 0x06⟩) (fun c => regs [(2, -1)] (handler c))) (fun c => c.tvec == 0x3_FFC0) = true := by decide +kernel

/-- R34: entry PX of the register stack, and PX moves on. -/
theorem test_wse_reads : after (placed (.wseRead ⟨1, 0, 0x09⟩) (fun c => { handler c with px := 175, stack := c.stack.set 175 9 })) (fun c => lastGen c == some 9 && c.px == 0) = true := by decide +kernel

/-- R18: the oldest entry leaves. -/
theorem test_rase_takes_oldest : after (placed (.raseRead ⟨1, 0, 0x0C⟩) (fun c => { handler c with ras := [8, 6, 4] })) (fun c => lastGen c == some 4 && c.ras == [8, 6]) = true := by decide +kernel

/-- R148, R149: 1 + 2 is 3. -/
theorem test_vadd_lane : givesV (.vadd ⟨1, 2, 3, 0, 0⟩) (vecs [(2, 0x3F80_0000), (3, 0x4000_0000)]) 0x4040_0000 = true := by decide +kernel

/-- R149: x - y, the sign of the second operand kept apart. -/
theorem test_vsub_lane : givesV (.vsub ⟨1, 2, 3, 0, 0⟩) (vecs [(2, 0x3F80_0000), (3, 0x4000_0000)]) 0xBF80_0000 = true := by decide +kernel

/-- R149: 3 times 0.5 is 1.5. -/
theorem test_vmul_lane : givesV (.vmul ⟨1, 2, 3, 0, 0⟩) (vecs [(2, 0x4040_0000), (3, 0x3F00_0000)]) 0x3FC0_0000 = true := by decide +kernel

/-- R149: one rounding: (1 + 2^-12)^2 - (1 + 2^-11) is 2^-24. -/
theorem test_vfma_rounds_once : givesV (.vfma ⟨1, 2, 2, 3, 0⟩) (vecs [(2, 0x3F80_0800), (3, 0xBF80_1000)]) 0x3380_0000 = true := by decide +kernel

/-- R149: 2 x 3 - 1 is 5. -/
theorem test_vfms_lane : givesV (.vfms ⟨1, 2, 3, 4, 0⟩) (vecs [(2, 0x4000_0000), (3, 0x4040_0000), (4, 0x3F80_0000)]) 0x40A0_0000 = true := by decide +kernel

/-- R149: -(2 x 3) + 1 is -5. -/
theorem test_vfnma_lane : givesV (.vfnma ⟨1, 2, 3, 4, 0⟩) (vecs [(2, 0x4000_0000), (3, 0x4040_0000), (4, 0x3F80_0000)]) (0xC0A0_0000 + lanesOf 32 (List.replicate 16 0)) = true := by decide +kernel

/-- R150: 1 / 0 is infinity with divide by zero, 0 / 0 the canonical NaN with invalid. -/
theorem test_vdiv_by_zero : after (placed (.vdiv ⟨1, 2, 3, 0, 0⟩) (vecs [(2, 0x3F80_0000)])) (fun c => lastVec c == some (lanesOf 32 (0x7F80_0000 :: List.replicate 15 0x7FC0_0000)) && lastFlags c == 0x18_0000) = true := by decide +kernel

/-- R149: the root of 4. -/
theorem test_vsqrt_exact : givesV (.vsqrt ⟨1, 2, 0, 0, 0⟩) (vecs [(2, 0x4080_0000)]) 0x4000_0000 = true := by decide +kernel

/-- R149: 1 / 4; R150: 1 / 0 elsewhere. -/
theorem test_vrcp_lane : givesV (.vrcp ⟨1, 2, 0, 0, 0⟩) (vecs [(2, 0x4080_0000)]) (lanesOf 32 (0x3E80_0000 :: List.replicate 15 0x7F80_0000)) = true := by decide +kernel

/-- R149: 1 / the root of 4; R150 elsewhere. -/
theorem test_vrsq_lane : givesV (.vrsq ⟨1, 2, 0, 0, 0⟩) (vecs [(2, 0x4080_0000)]) (lanesOf 32 (0x3F00_0000 :: List.replicate 15 0x7F80_0000)) = true := by decide +kernel

/-- R150: 2^3 is exact, and 2^0 is 1. -/
theorem test_vexp2_exact : givesV (.vexp2 ⟨1, 2, 0, 0, 0⟩) (vecs [(2, 0x4040_0000)]) (lanesOf 32 (0x4100_0000 :: List.replicate 15 0x3F80_0000)) = true := by decide +kernel

/-- R150: log2 8 is 3, and log2 0 is -infinity. -/
theorem test_vlog2_exact : givesV (.vlog2 ⟨1, 2, 0, 0, 0⟩) (vecs [(2, 0x4100_0000)]) (lanesOf 32 (0x4040_0000 :: List.replicate 15 0xFF80_0000)) = true := by decide +kernel

/-- R151: -0 is below +0. -/
theorem test_vmin_zeros : givesV (.vmin ⟨1, 2, 3, 0, 0⟩) (vecs [(2, 0x8000_0000)]) 0x8000_0000 = true := by decide +kernel

/-- R151: a NaN gives the canonical NaN. -/
theorem test_vmax_nan : givesV (.vmax ⟨1, 2, 3, 0, 0⟩) (vecs [(2, 0x7FC0_0001), (3, 0x3F80_0000)]) 0x7FC0_0000 = true := by decide +kernel

/-- R151. -/
theorem test_vabs_lane : givesV (.vabs ⟨1, 2, 0, 0, 0⟩) (vecs [(2, 0xBF80_0000)]) 0x3F80_0000 = true := by decide +kernel

/-- R151. -/
theorem test_vneg_lane : givesV (.vneg ⟨1, 2, 0, 0, 0⟩) (vecs [(2, 0xBF80_0000)]) (0x3F80_0000 + lanesOf 32 (0 :: List.replicate 15 0x8000_0000)) = true := by decide +kernel

/-- R152: lane 0 is less, and the zeros are not. -/
theorem test_vcmp_mask : gives (.vcmp ⟨7, 2, 3, 0, 0x10⟩) (vecs [(2, 0x3F80_0000), (3, 0x4000_0000)]) 1 = true := by decide +kernel

/-- R153: lane 1 from b. -/
theorem test_vsel_lane : givesV (.vsel ⟨1, 2, 3, 7, 0⟩) (fun c => regs [(7, 1)] (vecs [(2, lanesOf 32 [1, 2]), (3, lanesOf 32 [3, 4])] c)) (lanesOf 32 [1, 4]) = true := by decide +kernel

/-- R154: the bits of +1 and +0. -/
theorem test_vclass_bits : givesV (.vclass ⟨1, 2, 0, 0, 0⟩) (vecs [(2, 0x3F80_0000)]) (lanesOf 32 (0x40 :: List.replicate 15 0x10)) = true := by decide +kernel

/-- R155: each lane wraps by itself. -/
theorem test_viadd_lanes : givesV (.viadd ⟨1, 2, 3, 0, 0⟩) (vecs [(2, 0x01FF), (3, 0x0101)]) 0x0200 = true := by decide +kernel

/-- R155. -/
theorem test_visub_lanes : givesV (.visub ⟨1, 2, 3, 0, 0⟩) (vecs [(2, 0x0100), (3, 0x0001)]) 0x01FF = true := by decide +kernel

/-- R155. -/
theorem test_vimul_lanes : givesV (.vimul ⟨1, 2, 3, 0, 1⟩) (vecs [(2, 0x0100), (3, 0x0101)]) 0x0100 = true := by decide +kernel

/-- R155: 2 x 3 + 4. -/
theorem test_vimad_lanes : givesV (.vimad ⟨1, 2, 3, 4, 2⟩) (vecs [(2, 2), (3, 3), (4, 4)]) 10 = true := by decide +kernel

/-- R155: by the signedness of T. -/
theorem test_vimin_lanes : givesV (.vimin ⟨1, 2, 3, 0, 4⟩) (vecs [(2, 0x01FF), (3, 0x0201)]) 0x01FF = true := by decide +kernel

/-- R155: by the signedness of T. -/
theorem test_vimax_lanes : givesV (.vimax ⟨1, 2, 3, 0, 0⟩) (vecs [(2, 0x01FF), (3, 0x0201)]) 0x02FF = true := by decide +kernel

/-- R155. -/
theorem test_vand_lanes : givesV (.vand ⟨1, 2, 3, 0, 0⟩) (vecs [(2, 0x0F3C), (3, 0x0F5A)]) 0x0F18 = true := by decide +kernel

/-- R155. -/
theorem test_vor_lanes : givesV (.vor ⟨1, 2, 3, 0, 0⟩) (vecs [(2, 0x0F00), (3, 0x00F0)]) 0x0FF0 = true := by decide +kernel

/-- R155. -/
theorem test_vxor_lanes : givesV (.vxor ⟨1, 2, 3, 0, 0⟩) (vecs [(2, 0x0FFF), (3, 0x00F0)]) 0x0F0F = true := by decide +kernel

/-- R155: the count is taken mod N. -/
theorem test_vshl_lanes : givesV (.vshl ⟨1, 2, 3, 0, 0⟩) (vecs [(2, 0x8181), (3, 0x0109)]) 0x0202 = true := by decide +kernel

/-- R155. -/
theorem test_vshr_lanes : givesV (.vshr ⟨1, 2, 3, 0, 0⟩) (vecs [(2, 0x8181), (3, 0x0100)]) 0x4081 = true := by decide +kernel

/-- R155. -/
theorem test_vsar_lanes : givesV (.vsar ⟨1, 2, 3, 0, 0⟩) (vecs [(2, 0x8181), (3, 0x0100)]) 0xC081 = true := by decide +kernel

/-- R155: 100 + 100 clamps to 127 and sets SAT. -/
theorem test_viadds_clamps : after (placed (.viadds ⟨1, 2, 3, 0, 4⟩) (vecs [(2, 100), (3, 100)])) (fun c => lastVec c == some 127 && lastFlags c == 0x8000) = true := by decide +kernel

/-- R156: the mask of eight lanes. -/
theorem test_vicmp_mask : gives (.vicmp ⟨7, 2, 3, 0, 0x0F⟩) (vecs [(2, 1)]) 1 = true := by decide +kernel

/-- R157: the high halves of eight lanes. -/
theorem test_vclmul_hi : givesV (.vclmul ⟨1, 2, 3, 0, 1⟩) (vecs [(2, 2 ^ 63), (3, 2)]) 1 = true := by decide +kernel

/-- R158: with key 0, stream 0 and counter 0, word 0 is Mix(Mix(0)) = 0. -/
theorem test_vrng_word0 : after (placed (.vrng ⟨1, 2, 3, 0, 0, 0⟩) id) (fun c => (lastVec c).any (fun v => v % 2 ^ 64 == 0)) = true := by decide +kernel

/-- R159. -/
theorem test_vmov_copies : givesV (.vmov ⟨1, 2, 0, 0, 0⟩) (vecs [(2, 2 ^ 500 + 5)]) (2 ^ 500 + 5) = true := by decide +kernel

/-- R159: every byte. -/
theorem test_vbcast_bytes : givesV (.vbcast ⟨1, 2, 0, 0, 0⟩) (regs [(2, 0x101)]) (lanesOf 8 (List.replicate 64 1)) = true := by decide +kernel

/-- R159: lane 1 replaced, the others kept. -/
theorem test_vins_lane : givesV (.vins ⟨1, 2, 0, 1, 3⟩) (fun c => regs [(2, 9)] (vecs [(1, lanesOf 64 [1, 2, 3])] c)) (lanesOf 64 [1, 9, 3]) = true := by decide +kernel

/-- R159: lane 7 is the last of eight; lane 8 is refused. -/
theorem test_vext_lane : gives (.vext ⟨1, 2, 0, 7, 7⟩) (vecs [(2, 5 * 2 ^ 448)]) 5 = true := by decide +kernel

/-- R159: lane 8 of eight is refused. -/
theorem test_vext_past_lanes : traps (.vext ⟨1, 2, 0, 8, 7⟩) id 0x01 0x03 0 = true := by decide +kernel

/-- R159: every lane takes the lane that its index names. -/
theorem test_vperm_index : givesV (.vperm ⟨1, 2, 3, 0, 3⟩) (vecs [(2, lanesOf 64 [1, 2, 3]), (3, lanesOf 64 [2, 9])]) (lanesOf 64 [3, 2, 1, 1, 1, 1, 1, 1]) = true := by decide +kernel

/-- R159: lane n moves to lane 0. -/
theorem test_vrot_moves : givesV (.vrot ⟨1, 2, 0, 2, 3⟩) (vecs [(2, lanesOf 64 [1, 2, 3])]) (lanesOf 64 [3, 0, 0, 0, 0, 0, 1, 2]) = true := by decide +kernel

/-- R161, R162, the VCVT of the table: FP32 lanes to BF16 lanes 16 to 31. -/
theorem test_vcvt_part : givesV (.vcvt ⟨2, 3, 0, 0, 1⟩) (fun c => formatted ⟨2, 1, 0, 0, 0⟩ (vecs [(2, 7), (3, 0x3F80_0000)] c)) (0x3F80 * 2 ^ 256 + 7) = true := by decide +kernel

/-- R162: A to the low half and B to the high half. -/
theorem test_vpack_halves : givesV (.vpack ⟨1, 2, 3, 0, 0⟩) (fun c => formatted ⟨2, 1, 0, 0, 0⟩ (vecs [(2, 0x3F80_0000), (3, 0x4000_0000)] c)) (0x4000 * 2 ^ 256 + 0x3F80) = true := by decide +kernel

/-- R162: the high half of the elements to V(c). -/
theorem test_vunpk_high : givesV (.vunpk ⟨4, 2, 0, 5, 0⟩) (fun c => formatted ⟨1, 2, 0, 0, 0⟩ (vecs [(2, 0x4000 * 2 ^ 256)] c)) 0x4000_0000 = true := by decide +kernel

/-- R163, the worked example, floor rule: the scale goes to byte 1 of g22. -/
theorem test_vqnt_scale : gives (.vqnt ⟨9, 10, 0, 12, 1⟩) (fun c => formatted ⟨4, 1, 0, 0, 0⟩ (vecs [(10, lanesOf 32 [0x43FA_0000, 0xC040_0000, 0x3F00_0000])] c)) 0x7F00 = true := by decide +kernel

/-- R163, the worked example, fit rule: bytes 16 to 31 of v9. -/
theorem test_vqnt_fit : givesV (.vqnt ⟨9, 10, 0, 12, 1⟩) (fun c => formatted ⟨4, 1, 0, 0, 1⟩ (vecs [(10, lanesOf 32 [0x43FA_0000, 0xC040_0000, 0x3F00_0000])] c)) (0x28BC78 * 2 ^ 128) = true := by decide +kernel

/-- R164, the worked example: 448, -3 and 0.5. -/
theorem test_vdqnt_lanes : givesV (.vdqnt ⟨11, 9, 0, 12, 1⟩) (fun c => formatted ⟨1, 4, 0, 0, 0⟩ (regs [(12, 0x7F00)] (vecs [(9, 0x30C47E * 2 ^ 128)] c))) (lanesOf 32 [0x43E0_0000, 0xC040_0000, 0x3F00_0000]) = true := by decide +kernel

/-- R165: the sum of signed bytes 1 and -3, to 64 bits. -/
theorem test_vred_sum : gives (.vred ⟨1, 2, 0, 0, 0x44⟩) (vecs [(2, 0xFD01)]) 0xFFFF_FFFF_FFFF_FFFE = true := by decide +kernel

/-- R168: 2^24 + 1 x 1 is a tie, to the even 2^24. -/
theorem test_vdot_rounds : gives (.vdot ⟨1, 2, 3, 0, 0⟩) (fun c => regs [(1, 0x4B80_0000)] (vecs [(2, 0x3F80_0000), (3, 0x3F80_0000)] c)) 0x4B80_0000 = true := by decide +kernel

/-- R167. -/
theorem test_vpopc_lanes : givesV (.vpopc ⟨1, 2, 0, 0, 0⟩) (vecs [(2, 0x03FF)]) 0x0208 = true := by decide +kernel

/-- R166: prefixes of bytes, wrapping. -/
theorem test_vscan_prefixes : givesV (.vscan ⟨1, 2, 0, 0, 0x43⟩) (vecs [(2, lanesOf 64 [1, 2, 3])]) (lanesOf 64 [1, 3, 6, 6, 6, 6, 6, 6]) = true := by decide +kernel

/-- R172, the worked example, the .l2 metric. -/
theorem test_vdist_l2 : (next? (stored 0x200 16 (lanesOf 32 [0x3F80_0000, 0x4000_0000, 0x4040_0000, 0x40A0_0000]) (stored 0x100 16 (lanesOf 32 [0x3F80_0000, 0x4000_0000, 0x4040_0000, 0x4080_0000]) (placed (.vdist ⟨3, 4, 2, 5, 0, 4⟩) (fun c => regs [(2, 0), (5, 0x100)] (vecs [(4, lanesOf 32 (0x200 :: 0x300 :: List.replicate 14 0xFFFF_FFFF))] c)))))).any (fun s => lastVec (s.core 0) == some (lanesOf 32 (0x3F80_0000 :: 0x41F0_0000 :: List.replicate 14 0x7F80_0000))) = true := by decide +kernel

/-- R170: the element at the offset, and 0 in an inactive lane. -/
theorem test_vgath_lane : (next? (stored 0x108 8 77 (placed (.vgath ⟨1, 3, 2, 0, 3⟩) (fun c => regs [(2, 0x100)] (vecs [(3, lanesOf 32 (8 :: List.replicate 15 0xFFFF_FFFF))] c))))).any (fun s => lastVec (s.core 0) == some 77) = true := by decide +kernel

/-- R171: the higher lane's bytes stand. -/
theorem test_vscat_overlap : (next? (placed (.vscat ⟨1, 3, 2, 0, 2⟩) (fun c => regs [(2, 0x100)] (vecs [(1, lanesOf 32 [5, 6]), (3, lanesOf 32 (0 :: 0 :: List.replicate 14 0xFFFF_FFFF))] c)))).any (fun s => Memory.readLE s.mem (sliceKey 0 0x100) 4 == 6) = true := by decide +kernel

/-- R269: no message, and no waiting. -/
theorem test_inbox_empty : gives (.inbox ⟨1, 0, 0, 2, 0⟩) id 0 = true := by decide +kernel

/-- R262: the counter is at its value, and is consumed. -/
theorem test_waitc_consumes : after (placed (.waitc ⟨1, 2, 3, 0, 1⟩) (fun c => { regs [(2, 2)] c with counters := c.counters.set 3 5 })) (fun c => c.counters[3]? == some 3 && lastGen c == some 5) = true := by decide +kernel

/-- R320: the lowest run of a free store begins at 0. -/
theorem test_mclaim_lowest : gives (.mclaim ⟨1, 0, 0, 0, 1⟩) id 0 = true := by decide +kernel

/-- R190: without a walker there is no next point. -/
theorem test_covqNext_none : gives (.covqNext ⟨1, 0, 0, 0, 0⟩) id 0xFFFF_FFFF_FFFF_FFFF = true := by decide +kernel

/-- R377. -/
theorem test_gov_budget : after (placed (.gov ⟨0, 0, 96⟩) id) (fun c => c.budget == 96) = true := by decide +kernel

/-- R377: another value is not accepted. -/
theorem test_gov_other : traps (.gov ⟨0, 0, 65⟩) id 0x01 0x03 0 = true := by decide +kernel

/-- R218: class 0x9 outside exchange mode. -/
theorem test_recv_outside : traps (.recv ⟨1, 0, 3⟩) id 0x12 0x01 0 = true := by decide +kernel

/-- R223: slot 3. -/
theorem test_recv_slot : after (placed (.recv ⟨1, 0, 3⟩) (fun c => { phased c with slots := c.slots.set 3 ⟨42, 0, 1⟩ })) (fun c => lastGen c == some 42) = true := by decide +kernel

/-- R55: an unassigned code. -/
theorem test_unassigned_code : traps (.unassignedOpcode 0xD00 ⟨0, 0, 0, 0, 0⟩) id 0x01 0x00 0 = true := by decide +kernel

end Sys2Proof.Tests
end

