-- ==== Sys2Proof/Tests/WitnessCore.lean ====
section
/-! SUPPORT. Witnesses: states and operands that meet the hypotheses of the statements about issue, traps and the integer and local-memory families. -/

namespace Sys2Proof.Tests

open Sys2Proof.Machine

set_option Elab.async false

/-! ### The machine as a whole -/

theorem witness_DecodeOfEncode : Instr.wf (.add ⟨22, 21, 21, 0, 7⟩) = true ∧ Instr.code (.add ⟨22, 21, 21, 0, 7⟩) = some (0x100, 0x0701_5556) := by decide +kernel

theorem witness_LinesHoldTheirSlots : ∃ (xs : List LineSlot) (x : LineSlot), (∀ y ∈ xs, Head.last y.head = false) ∧ Head.last x.head = true ∧
    (∀ y ∈ xs ++ [x], y.tail.toNat < 2 ^ (8 * tailBytes (Head.op y.head))) ∧ ((xs ++ [x]).map (fun y => 2 + tailBytes (Head.op y.head))).sum ≤ 64 :=
  ⟨[⟨0x0230, 0x100_0000_0014⟩, ⟨0x0300, 0x10_2515⟩, ⟨0x2100, 0x0701_5556⟩], ⟨0x800A, 0⟩, by decide +kernel⟩

/-- A line filled to its last byte: six heads with D tails, and one with a W tail less its two bytes. -/
theorem witness_LinesHoldTheirSlots_full : ∃ (xs : List LineSlot) (x : LineSlot), (∀ y ∈ xs, Head.last y.head = false) ∧ Head.last x.head = true ∧
    (∀ y ∈ xs ++ [x], y.tail.toNat < 2 ^ (8 * tailBytes (Head.op y.head))) ∧ ((xs ++ [x]).map (fun y => 2 + tailBytes (Head.op y.head))).sum = 64 :=
  ⟨List.replicate 6 ⟨0x0230, 0x100_0000_0014⟩, ⟨0x8002, 5⟩, by decide +kernel⟩

theorem witness_MemoryStaysCanonical : Memory.wf (placed .nop id).mem = true ∧ ∃ s', step (placed .nop id) = .next s' :=
  ⟨by decide +kernel, next_of (by decide +kernel)⟩

theorem witness_StepRuns_event : ∃ (s : State) (t : Turn) (ts : List Turn) (i : Instr), s.agenda = t :: ts ∧ t.act = .event i ∧
    ∀ n ∈ s.candidates, ∀ a, s.turnOf n = some a → t.due ≤ a.1 :=
  ⟨{ State.reset with agenda := [⟨5, 0, .event .leaseExpiry⟩] }, ⟨5, 0, .event .leaseExpiry⟩, [], .leaseExpiry, rfl, rfl, fun _ h => nomatch h⟩

/-- The core's turn is the machine's first, and changes the core. -/
def takesTurn (s : State) (n : Nat) : Bool :=
  decide (n ∈ SMap.keys s.cores) && s.chameleon.pauseEnd.isNone && (s.core n).run == .running && !s.stopsHere n &&
    match exec (s.instrAt n) { s with cur := n } with
    | .next t => t.core n != s.core n && s.agenda.all (fun e => decide (t.now < e.due)) && s.candidates.all (fun m => m == n)
    | _ => false

theorem witness_StepRuns_core : ∃ (s t : State) (n : Nat) (i : Instr), n ∈ SMap.keys s.cores ∧ s.chameleon.pauseEnd = none ∧ (s.core n).run = .running ∧
    s.stopsHere n = false ∧ s.instrAt n = i ∧ exec i { s with cur := n } = .next t ∧ t.core n ≠ s.core n ∧ (∀ e ∈ s.agenda, t.now < e.due) ∧
    ∀ m ∈ s.candidates, m ≠ n → ∀ a, s.turnOf m = some a → t.now < a.1 := by
  have h : takesTurn (placed .nop id) 0 = true := by decide +kernel
  simp only [takesTurn, Bool.and_eq_true, decide_eq_true_eq, Option.isNone_iff_eq_none, beq_iff_eq, Bool.not_eq_true'] at h
  obtain ⟨⟨⟨⟨h1, h2⟩, h3⟩, h4⟩, h5⟩ := h
  split at h5
  · rename_i t ht
    simp only [Bool.and_eq_true, bne_iff_ne, ne_eq, List.all_eq_true, decide_eq_true_eq, beq_iff_eq] at h5
    obtain ⟨⟨h6, h7⟩, h8⟩ := h5
    exact ⟨_, t, 0, _, h1, h2, h3, h4, rfl, ht, h6, h7, fun m hm hn => absurd (h8 m hm) hn⟩
  · cases h5

theorem witness_StepRuns_line : ∃ (s : State) (n : Nat) (slots : List LineSlot) (x : LineSlot) (op : Opcode) (bits : BitVec 64) (i : Instr),
    (s.core n).fbuf = [] ∧ decodeLine (BitVec.ofNat 512 (Memory.readLE s.mem (sliceKey n (64 * ((s.core n).pc.toNat / 64))) 64)) = .ok slots ∧
      (s.core n).pc.toNat % 2 = 0 ∧ slots[(s.core n).pc.toNat % 64 / 2]? = some x ∧ i.wf = true ∧ i.code = some (op, bits) ∧ Head.op x.head = op ∧ x.tail = bits :=
  ⟨placed (.add ⟨22, 21, 21, 0, 7⟩) id, 0, [⟨0x8100, 0x0701_5556⟩], ⟨0x8100, 0x0701_5556⟩, 0x100, 0x0701_5556, .add ⟨22, 21, 21, 0, 7⟩, by decide +kernel⟩

/-! ### Issue and traps -/

theorem witness_QuietCoreIssues : ∃ (s : State) (g : Sig) (raw : Opnd),
    (s.core s.cur).Quiet ∧ s.lineFault s.cur = none ∧ s.prefixMisuse s.cur g.op raw.m = none ∧
      g.illegal (s.core s.cur) ((s.core s.cur).stagger (g.roles raw) raw) = none ∧ opClass g.op ≠ 0x9 ∧
      s.outstanding s.cur = 0 ∧ s.acquiring s.cur = false ∧ s.flushing s.cur = false ∧ chargeOf g.op ≤ (s.core s.cur).budget.toNat ∧
      0 < (s.core s.cur).clock.pipePeriod :=
  ⟨placed (.add ⟨22, 21, 21, 0, 7⟩) id, sigBinary 0x100 1, opndW ⟨22, 21, 21, 0, 7⟩,
    by constructor <;> decide +kernel, by decide +kernel⟩

/-- A core in user mode at an instruction that no interrupt comes before. -/
theorem ready_of {s : State} {op : Opcode} (h : ((s.core s.cur).issues && !(s.core s.cur).holding && (s.core s.cur).interrupt.isNone) = true) :
    (s.core s.cur).Ready op := by
  simp only [Bool.and_eq_true, Bool.not_eq_true', Option.isNone_iff_eq_none] at h
  exact ⟨h.1.1, h.1.2, Or.inr (Or.inr h.2)⟩

theorem witness_ChecksInOrder_line : ∃ (s : State) (op : Opcode) (r : Raise), (s.core s.cur).Ready op ∧ (s.core s.cur).hm = false ∧ s.lineFault s.cur = some r :=
  ⟨placed .nop (fun c => { c with pc := 2 }), 0x000, ⟨0x01, 0x04, 2⟩, ready_of (by decide +kernel), by decide +kernel⟩

theorem witness_ChecksInOrder_misuse : ∃ (s : State) (op : Opcode) (m : BitVec 8) (q : Byte), (s.core s.cur).Ready op ∧ (s.core s.cur).hm = false ∧
    s.lineFault s.cur = none ∧ s.prefixMisuse s.cur op m = some q :=
  ⟨placed (.vcvt ⟨1, 2, 0, 0, 0⟩) id, 0x706, 0, 3, ready_of (by decide +kernel), by decide +kernel⟩

theorem witness_ChecksInOrder_illegal : ∃ (s : State) (g : Sig) (raw : Opnd) (q : Byte), (s.core s.cur).Ready g.op ∧ (s.core s.cur).hm = false ∧
    s.lineFault s.cur = none ∧ s.prefixMisuse s.cur g.op raw.m = none ∧
    g.illegal (s.core s.cur) ((s.core s.cur).stagger (g.roles raw) raw) = some q :=
  ⟨placed (.add ⟨1, 2, 3, 1, 7⟩) id, sigBinary 0x100 1, opndW ⟨1, 2, 3, 1, 7⟩, 1, ready_of (by decide +kernel), by decide +kernel⟩

theorem witness_ChecksInOrder_phase : ∃ (s : State) (g : Sig) (raw : Opnd), (s.core s.cur).Ready g.op ∧ (s.core s.cur).hm = false ∧
    s.lineFault s.cur = none ∧ s.prefixMisuse s.cur g.op raw.m = none ∧
    g.illegal (s.core s.cur) ((s.core s.cur).stagger (g.roles raw) raw) = none ∧ (s.core s.cur).xm = true ∧ exchangeAllows g.op = false :=
  ⟨placed .halt phased, { sigZ 0x00A (fun _ => false) with waitsAll := true }, noOpnd, ready_of (by decide +kernel), by decide +kernel⟩

theorem witness_ChecksInOrder_noPhase : ∃ (s : State) (g : Sig) (raw : Opnd), (s.core s.cur).Ready g.op ∧ (s.core s.cur).hm = false ∧
    s.lineFault s.cur = none ∧ s.prefixMisuse s.cur g.op raw.m = none ∧
    g.illegal (s.core s.cur) ((s.core s.cur).stagger (g.roles raw) raw) = none ∧ (s.core s.cur).xm = false ∧ opClass g.op = 0x9 :=
  ⟨placed (.recv ⟨1, 0, 3⟩) id, sigRecv, opndI ⟨1, 0, 3⟩, ready_of (by decide +kernel), by decide +kernel⟩

theorem witness_ChecksInOrder_unassigned : ∃ (s : State) (g : Sig) (raw : Opnd) (op : Opcode) (tail : TailW), (s.core s.cur).Ready g.op ∧
    (s.core s.cur).hm = false ∧ s.lineFault s.cur = none ∧ s.prefixMisuse s.cur g.op raw.m = none ∧ g.op = op ∧ raw.m = tail.m ∧
    (opClass op ≠ 0xB ∨ opFn op ≠ 0x05) :=
  ⟨placed (.unassignedOpcode 0xD00 ⟨0, 0, 0, 0, 0⟩) id, sigZ 0xD00 (fun _ => false), noOpnd, 0xD00, ⟨0, 0, 0, 0, 0⟩, ready_of (by decide +kernel),
    by decide +kernel⟩

theorem witness_ChecksInOrder_covq : ∃ (s : State) (g : Sig) (raw : Opnd) (op : Opcode) (tail : TailW), (s.core s.cur).Ready g.op ∧
    (s.core s.cur).hm = false ∧ s.lineFault s.cur = none ∧ s.prefixMisuse s.cur g.op raw.m = none ∧ g.op = op ∧ raw.m = tail.m ∧
    opClass op = 0xB ∧ opFn op = 0x05 ∧ tail.a = 0 ∧ tail.b = 0 ∧ tail.c = 0 :=
  ⟨placed (.unassignedOpcode 0xB05 ⟨1, 0, 0, 0, 4⟩) id, sigCovq false, opndW ⟨1, 0, 0, 0, 4⟩, 0xB05, ⟨1, 0, 0, 0, 4⟩, ready_of (by decide +kernel),
    by decide +kernel⟩

theorem witness_TrapEntry : ((placed .nop id).core 0).drained.hm = false ∧ ((placed .nop handler).core 0).drained.hm = true := by decide +kernel

theorem witness_Loops : ∃ c d e f g : Core, (c.inRep = false ∧ c.hm = true) ∧
    (d.inRep = false ∧ d.hm = false ∧ d.lc1 = 1 ∧ d.pc = d.le1 ∧ d.lc0 = 2 ∧ d.pc = d.le0) ∧
    (e.inRep = false ∧ e.hm = false ∧ e.lc1 = 2 ∧ e.pc = e.le1) ∧
    (f.inRep = true ∧ bitsOf f.reps 37 35 < bitsOf f.reps 34 32) ∧
    (g.inRep = true ∧ bitsOf g.reps 34 32 ≤ bitsOf g.reps 37 35 ∧ bitsOf g.reps 63 48 = 1 ∧ g.lc0 = 0 ∧ g.lc1 = 0) :=
  ⟨handler Core.reset, { Core.reset with lc1 := 1, lc0 := 2 }, { Core.reset with lc1 := 2 }, { Core.reset with reps := 0x0001_0001_0000_0000 },
    { Core.reset with reps := 0x0001_0009_0000_0000 }, by decide +kernel⟩

theorem witness_Results : ∃ c : Core, c.var = [] ∧ c.Holds (.glob 14) ∧ c.Holds (.stack 175) ∧ c.Holds (.hbank 47) ∧ PReg.stack 0 ≠ .glob 0 :=
  ⟨Core.reset, rfl, by unfold Core.Holds; omega, by unfold Core.Holds; omega, by unfold Core.Holds; omega, by decide⟩

theorem witness_Registers : ∃ c d : Core, c.hm = true ∧ d.hm = false ∧ (16 : Field).toNat = 16 ∧ (63 : Field).toNat = 63 := ⟨handler Core.reset, Core.reset, by decide +kernel⟩

/-- An ADD to g1 behind results on their way to g1, and a DIV's in g2 that is due before it issues. -/
theorem witness_IssueKeeps : ∃ (s : State) (g : Sig) (raw o : Opnd) (t : Nat), s.gate s.cur g raw = .go t o ∧ 0 < (s.core s.cur).clock.pipePeriod ∧
    (∃ f ∈ (s.core s.cur).flight, ∃ u ∈ g.writesOf (s.core s.cur) o, f.covers u = true) ∧
    ∃ v ∈ (s.core s.cur).var, ∃ u ∈ g.readsOf (s.core s.cur) o ++ g.writesOf (s.core s.cur) o, v.covers u = true := by
  obtain ⟨t, o, hi, -, hp⟩ := issues_of_meets (s := placed (.add ⟨1, 2, 3, 0, 7⟩) (fun c => { c with
      flight := [⟨500, .gen (some (.glob 0)) 5⟩], var := [⟨0, .at 700, [.glob 1], [], [.gen (some (.glob 1)) 5], false⟩], varNext := 1 }))
    (g := sigBinary 0x100 1) (raw := opndW ⟨1, 2, 3, 0, 7⟩)
    (fun _ o => o = opndW ⟨1, 2, 3, 0, 7⟩) (by decide +kernel)
  subst hp
  exact ⟨_, _, _, _, t, hi.go, by decide +kernel⟩

/-- A guard on bit 0 of g1, which is 0. -/
theorem witness_Squashed : ∃ (s : State) (g : Sig) (raw : Opnd) (t : Nat), (s.core s.cur).issues = true ∧ (s.core s.cur).holding = false ∧
    ((s.core s.cur).betweenPrefixes g.op = true ∨ (s.core s.cur).run ≠ .running ∨ (s.core s.cur).interruptBefore t = none) ∧
    s.gate s.cur g raw = .squash t ∧ s.Straight (s.coreAt t) s.mem := by
  let s := placed (.add ⟨1, 2, 3, 0, 7⟩) (fun c => { c with stat := 3, epfx := 1, runStart := some (0, 1) })
  have h : (match s.gate s.cur (sigBinary 0x100 1) (opndW ⟨1, 2, 3, 0, 7⟩) with
    | .squash t => ((s.core s.cur).interruptBefore t).isNone && !((s.coreAt t).advance (s.lastHead s.cur)).back
    | _ => false) = true := by decide +kernel
  split at h
  · rename_i t hg
    simp only [Bool.and_eq_true, Bool.not_eq_true', Option.isNone_iff_eq_none] at h
    exact ⟨s, _, _, t, by decide +kernel, by decide +kernel, Or.inr (Or.inr h.1), hg, straight_of h.2 _⟩
  · cases h

/-! ### Integer forms -/

theorem witness_Integer_binary : ∀ r ∈ binaryForms, ∃ (s : State) (tail : TailW) (t : Nat) (o : Opnd),
    s.Issues (sigBinary r.op r.lat) (opndW tail) t o ∧ s.Straight (s.coreAt t) s.mem := fun r hr =>
  let ⟨t, o, hi, hs, _⟩ := issues_of_all (l := binaryForms) (st := fun r => placed (r.instr ⟨1, 2, 3, 0, 7⟩) id) (g := fun r => sigBinary r.op r.lat)
    (raw := fun _ => opndW ⟨1, 2, 3, 0, 7⟩) (fun _ _ _ => True) (by decide +kernel) r hr
  ⟨_, _, t, o, hi, hs _⟩

theorem witness_Integer_unary : ∀ r ∈ unaryForms, ∃ (s : State) (tail : TailW) (t : Nat) (o : Opnd),
    s.Issues (sigUnary r.op) (opndW tail) t o ∧ s.Straight (s.coreAt t) s.mem := fun r hr =>
  let ⟨t, o, hi, hs, _⟩ := issues_of_all (l := unaryForms) (st := fun r => placed (r.instr ⟨1, 2, 0, 0, 4⟩) id) (g := fun r => sigUnary r.op)
    (raw := fun _ => opndW ⟨1, 2, 0, 0, 4⟩) (fun _ _ _ => True) (by decide +kernel) r hr
  ⟨_, _, t, o, hi, hs _⟩

theorem witness_Integer_immediate : ∀ r ∈ immediateForms, ∃ (s : State) (tail : TailL) (t : Nat) (o : Opnd),
    s.Issues (sigImm r.op r.lat) (opndL tail) t o ∧ s.Straight (s.coreAt t) s.mem := fun r hr =>
  let ⟨t, o, hi, hs, _⟩ := issues_of_all (l := immediateForms) (st := fun r => placed (r.instr ⟨1, 2, 7, 0x2000_0000⟩) id) (g := fun r => sigImm r.op r.lat)
    (raw := fun _ => opndL ⟨1, 2, 7, 0x2000_0000⟩) (fun _ _ _ => True) (by decide +kernel) r hr
  ⟨_, _, t, o, hi, hs _⟩

theorem witness_Integer_shift : ∀ r ∈ immediateShifts, ∃ (s : State) (tail : TailL) (t : Nat) (o : Opnd),
    s.Issues (sigImmShift r.op) (opndL tail) t o ∧ s.Straight (s.coreAt t) s.mem := fun r hr =>
  let ⟨t, o, hi, hs, _⟩ := issues_of_all (l := immediateShifts) (st := fun r => placed (r.instr ⟨1, 2, 7, 63⟩) id) (g := fun r => sigImmShift r.op)
    (raw := fun _ => opndL ⟨1, 2, 7, 63⟩) (fun _ _ _ => True) (by decide +kernel) r hr
  ⟨_, _, t, o, hi, hs _⟩

theorem witness_Saturating_registers : ∀ f ∈ [(Instr.adds, (0x112 : Opcode)), (Instr.subs, 0x113)], ∃ (s : State) (tail : TailW) (t : Nat) (o : Opnd),
    s.Issues (sigBinary f.2 1) (opndW tail) t o ∧ s.Straight (s.coreAt t) s.mem := fun r hr =>
  let ⟨t, o, hi, hs, _⟩ := issues_of_all (st := fun r : (TailW → Instr) × Opcode => placed (r.1 ⟨1, 2, 3, 0, 4⟩) id) (g := fun r => sigBinary r.2 1)
    (raw := fun _ => opndW ⟨1, 2, 3, 0, 4⟩) (fun _ _ _ => True) (by decide +kernel) r hr
  ⟨_, _, t, o, hi, hs _⟩

theorem witness_Saturating_immediate : ∃ (s : State) (tail : TailL) (t : Nat) (o : Opnd),
    s.Issues (sigImm 0x212 1) (opndL tail) t o ∧ s.Straight (s.coreAt t) s.mem :=
  let ⟨t, o, hi, hs, _⟩ := issues_of_meets (s := placed (.addsImm ⟨1, 2, 4, 100⟩) id) (g := sigImm 0x212 1) (raw := opndL ⟨1, 2, 4, 100⟩)
    (fun _ _ => True) (by decide +kernel)
  ⟨_, _, t, o, hi, hs _⟩

theorem witness_Division : ∀ f ∈ [(Instr.div, (0x104 : Opcode)), (Instr.rem, 0x105)], ∃ (s : State) (tail : TailW) (t : Nat) (o : Opnd),
    s.Issues (sigBinary f.2 1) (opndW tail) t o ∧ s.Straight (s.coreAt t) s.mem := fun r hr =>
  let ⟨t, o, hi, hs, _⟩ := issues_of_all (st := fun r : (TailW → Instr) × Opcode => placed (r.1 ⟨1, 2, 3, 0, 7⟩) id) (g := fun r => sigBinary r.2 1)
    (raw := fun _ => opndW ⟨1, 2, 3, 0, 7⟩) (fun _ _ _ => True) (by decide +kernel) r hr
  ⟨_, _, t, o, hi, hs _⟩

theorem witness_Bits_registers : ∀ f ∈ [(Instr.cmp, sigCmp, (⟨7, 2, 3, 63, 0x17⟩ : TailW)), (Instr.sel, sigSel, ⟨1, 2, 3, 7, 63⟩), (Instr.bfx, sigBfx, ⟨1, 2, 60, 3, 7⟩),
      (Instr.bfi, sigBfi, ⟨1, 2, 60, 3, 0⟩), (Instr.bset, sigPlain 0x11F 1, ⟨1, 2, 3, 0, 0⟩), (Instr.bclr, sigPlain 0x120 1, ⟨1, 2, 3, 0, 0⟩),
      (Instr.btgl, sigPlain 0x121 1, ⟨1, 2, 3, 0, 0⟩), (Instr.clmul, sigPlain 0x122 3, ⟨1, 2, 3, 0, 0⟩), (Instr.clmulh, sigPlain 0x123 3, ⟨1, 2, 3, 0, 0⟩)],
    ∃ (s : State) (tail : TailW) (t : Nat) (o : Opnd), s.Issues f.2.1 (opndW tail) t o ∧ s.Straight (s.coreAt t) s.mem := fun r hr =>
  let ⟨t, o, hi, hs, _⟩ := issues_of_all (st := fun r : (TailW → Instr) × Sig × TailW => placed (r.1 r.2.2) id) (g := fun r => r.2.1)
    (raw := fun r => opndW r.2.2) (fun _ _ _ => True) (by decide +kernel) r hr
  ⟨_, _, t, o, hi, hs _⟩

theorem witness_Bits_immediate : ∀ f ∈ [(Instr.cmpImm, sigCmpImm, (⟨7, 2, 0x17, 0x3F80_0000⟩ : TailL)), (Instr.bsetImm, sigBitImm 0x21F, ⟨1, 2, 0, 63⟩),
      (Instr.bclrImm, sigBitImm 0x220, ⟨1, 2, 0, 63⟩), (Instr.btglImm, sigBitImm 0x221, ⟨1, 2, 0, 63⟩)],
    ∃ (s : State) (tail : TailL) (t : Nat) (o : Opnd), s.Issues f.2.1 (opndL tail) t o ∧ s.Straight (s.coreAt t) s.mem := fun r hr =>
  let ⟨t, o, hi, hs, _⟩ := issues_of_all (st := fun r : (TailL → Instr) × Sig × TailL => placed (r.1 r.2.2) id) (g := fun r => r.2.1)
    (raw := fun r => opndL r.2.2) (fun _ _ _ => True) (by decide +kernel) r hr
  ⟨_, _, t, o, hi, hs _⟩

theorem witness_Products : ∀ f ∈ [(Instr.li, sigLoadImm 0x230 .gw, (⟨1, 0, 0, 0, 0, 0x8000_0000⟩ : TailD)), (Instr.lih, sigLoadImm 0x231 .grw, ⟨1, 0, 0, 0, 0, 5⟩),
      (Instr.lea, sigLea, ⟨1, 2, 3, 0, 3, 0xFFFF_FFFF⟩)],
    ∃ (s : State) (tail : TailD) (t : Nat) (o : Opnd), s.Issues f.2.1 (opndD tail) t o ∧ s.Straight (s.coreAt t) s.mem := fun r hr =>
  let ⟨t, o, hi, hs, _⟩ := issues_of_all (st := fun r : (TailD → Instr) × Sig × TailD => placed (r.1 r.2.2) id) (g := fun r => r.2.1)
    (raw := fun r => opndD r.2.2) (fun _ _ _ => True) (by decide +kernel) r hr
  ⟨_, _, t, o, hi, hs _⟩

/-! ### Local memory -/

/-- A core whose g2 is an address. -/
def base (x : Word) (c : Core) : Core := regs [(2, x), (3, 0x40)] c

theorem witness_LocalLoads : ∀ f ∈ [(Instr.ld, sigLd 0x300 .gw 3, 8, 8, (⟨1, 2, 3, 0⟩ : TailL)), (Instr.ldp, sigLdp 0x306 .gw 3, 8, 16, ⟨1, 2, 3, 0⟩),
      (Instr.ldv, sigLdv 0x302 .vw 3, 64, 64, ⟨1, 2, 0, 0⟩)],
    ∃ (s : State) (tail : TailL) (t : Nat) (o : Opnd), s.Issues f.2.1 (opndL tail) t o ∧ s.Straight (s.coreAt t) s.mem ∧
      s.MayAccess t false f.2.2.1 [((s.coreAt t).addressL o tail, f.2.2.2.1)] := fun r hr =>
  let ⟨t, o, hi, hs, hp⟩ := issues_of_all (st := fun r : (TailL → Instr) × Sig × Nat × Nat × TailL => placed (r.1 r.2.2.2.2) (base 0x3_FFC0)) (g := fun r => r.2.1)
    (raw := fun r => opndL r.2.2.2.2)
    (fun r t o => accessOk (placed (r.1 r.2.2.2.2) (base 0x3_FFC0)) t false r.2.2.1
      [(((placed (r.1 r.2.2.2.2) (base 0x3_FFC0)).coreAt t).addressL o r.2.2.2.2, r.2.2.2.1)] = true) (by decide +kernel) r hr
  ⟨_, _, t, o, hi, hs _, mayAccess_of hp⟩

theorem witness_LocalLoads_strided : ∃ (s : State) (tail : TailW) (t : Nat) (o : Opnd), s.Issues (sigLdvs 0x304 .vw 5) (opndW tail) t o ∧
    s.Straight (s.coreAt t) s.mem ∧ s.MayAccess t false (o.mtype.width / 8) ((s.coreAt t).stridedRuns o) :=
  let ⟨t, o, hi, hs, hp⟩ := issues_of_meets (s := placed (.ldvs ⟨1, 2, 3, 0, 3⟩) (base 0x100)) (g := sigLdvs 0x304 .vw 5) (raw := opndW ⟨1, 2, 3, 0, 3⟩)
    (fun t o => accessOk (placed (.ldvs ⟨1, 2, 3, 0, 3⟩) (base 0x100)) t false (o.mtype.width / 8)
      (((placed (.ldvs ⟨1, 2, 3, 0, 3⟩) (base 0x100)).coreAt t).stridedRuns o) = true) (by decide +kernel)
  ⟨_, _, t, o, hi, hs _, mayAccess_of hp⟩

theorem witness_LocalStores : ∀ f ∈ [(Instr.st, sigLd 0x301 .gr 0, 8, 8, (⟨1, 2, 3, 0⟩ : TailL)), (Instr.stp, sigLdp 0x307 .gr 0, 8, 16, ⟨1, 2, 3, 0⟩),
      (Instr.stv, sigLdv 0x303 .vr 0, 64, 64, ⟨1, 2, 0, 0⟩)],
    ∃ (s : State) (tail : TailL) (t : Nat) (o : Opnd), s.Issues f.2.1 (opndL tail) t o ∧ (∀ m, s.Straight (s.coreAt t) m) ∧
      s.MayAccess t true f.2.2.1 [((s.coreAt t).addressL o tail, f.2.2.2.1)] := fun r hr =>
  let ⟨t, o, hi, hs, hp⟩ := issues_of_all (st := fun r : (TailL → Instr) × Sig × Nat × Nat × TailL => placed (r.1 r.2.2.2.2) (base 0x3_FFC0)) (g := fun r => r.2.1)
    (raw := fun r => opndL r.2.2.2.2)
    (fun r t o => accessOk (placed (r.1 r.2.2.2.2) (base 0x3_FFC0)) t true r.2.2.1
      [(((placed (r.1 r.2.2.2.2) (base 0x3_FFC0)).coreAt t).addressL o r.2.2.2.2, r.2.2.2.1)] = true) (by decide +kernel) r hr
  ⟨_, _, t, o, hi, hs, mayAccess_of hp⟩

theorem witness_LocalStores_strided : ∃ (s : State) (tail : TailW) (t : Nat) (o : Opnd), s.Issues (sigLdvs 0x305 .vr 0) (opndW tail) t o ∧
    (∀ m, s.Straight (s.coreAt t) m) ∧ s.MayAccess t true (o.mtype.width / 8) ((s.coreAt t).stridedRuns o) :=
  let ⟨t, o, hi, hs, hp⟩ := issues_of_meets (s := placed (.stvs ⟨1, 2, 3, 0, 3⟩) (base 0x100)) (g := sigLdvs 0x305 .vr 0) (raw := opndW ⟨1, 2, 3, 0, 3⟩)
    (fun t o => accessOk (placed (.stvs ⟨1, 2, 3, 0, 3⟩) (base 0x100)) t true (o.mtype.width / 8)
      (((placed (.stvs ⟨1, 2, 3, 0, 3⟩) (base 0x100)).coreAt t).stridedRuns o) = true) (by decide +kernel)
  ⟨_, _, t, o, hi, hs, mayAccess_of hp⟩

/-- The tail of an L form that names no wrong field. -/
def tailOf (r : LocalForm) (imm : BitVec 30) : TailL := ⟨1, 2, if r.size (opndL ⟨1, 2, 3, 0⟩) = 64 then 0 else 3, imm⟩

theorem witness_LocalFaults_misaligned : ∀ r ∈ localForms, ∃ (s : State) (tail : TailL) (t : Nat) (o : Opnd), s.Issues r.sig (opndL tail) t o ∧
    (s.coreAt t).hm = false ∧ ¬ r.align o ∣ (s.coreAt t).addressL o tail := fun r hr =>
  let ⟨t, o, hi, _, hp⟩ := issues_of_all (l := localForms) (st := fun r => placed (r.instr (tailOf r 1)) (base 0x100)) (g := fun r => r.sig)
    (raw := fun r => opndL (tailOf r 1))
    (fun r t o => ((placed (r.instr (tailOf r 1)) (base 0x100)).coreAt t).hm = false ∧
      ¬ r.align o ∣ ((placed (r.instr (tailOf r 1)) (base 0x100)).coreAt t).addressL o (tailOf r 1)) (by decide +kernel) r hr
  ⟨_, _, t, o, hi, hp⟩

/-- One byte past the slice's last. -/
theorem witness_LocalFaults_outside : ∀ r ∈ localForms, ∃ (s : State) (tail : TailL) (t : Nat) (o : Opnd), s.Issues r.sig (opndL tail) t o ∧
    (s.coreAt t).hm = false ∧ r.align o ∣ (s.coreAt t).addressL o tail ∧ 0 < r.size o ∧ 262144 ≤ (s.coreAt t).addressL o tail + 0 := fun r hr =>
  let ⟨t, o, hi, _, hp⟩ := issues_of_all (l := localForms) (st := fun r => placed (r.instr (tailOf r 0)) (base 0x4_0000)) (g := fun r => r.sig)
    (raw := fun r => opndL (tailOf r 0))
    (fun r t o => ((placed (r.instr (tailOf r 0)) (base 0x4_0000)).coreAt t).hm = false ∧
      r.align o ∣ ((placed (r.instr (tailOf r 0)) (base 0x4_0000)).coreAt t).addressL o (tailOf r 0) ∧ 0 < r.size o ∧
      262144 ≤ ((placed (r.instr (tailOf r 0)) (base 0x4_0000)).coreAt t).addressL o (tailOf r 0) + 0) (by decide +kernel) r hr
  ⟨_, _, t, o, hi, hp⟩

end Sys2Proof.Tests
end

