-- ==== Sys2Proof/Tests/WitnessForms.lean ====
section
/-! SUPPORT. Witnesses: states and operands that meet the hypotheses of the statements about control, control registers and vectors. -/

namespace Sys2Proof.Tests

open Sys2Proof.Machine

set_option Elab.async false

/-- An instruction of a core, placed: its signature, its operands as encoded and its core. -/
structure Case where
  instr : Instr
  sig : Sig
  raw : Opnd
  core : Core → Core := id
  wrap : State → State := id

/-- The machine of a case. -/
def Case.state (x : Case) : State := x.wrap (placed x.instr x.core)

/-- A case of a W tail. -/
def caseW (i : TailW → Instr) (g : Sig) (t : TailW) (f : Core → Core) : Case := ⟨i t, g, opndW t, f, id⟩

/-- A case of an I tail. -/
def caseI (i : TailI → Instr) (g : Sig) (t : TailI) (f : Core → Core) : Case := ⟨i t, g, opndI t, f, id⟩

/-- A case of an H tail. -/
def caseH (i : TailH → Instr) (g : Sig) (t : TailH) (f : Core → Core) : Case := ⟨i t, g, opndH t, f, id⟩

/-- A case of an L tail. -/
def caseL (i : TailL → Instr) (g : Sig) (t : TailL) (f : Core → Core) : Case := ⟨i t, g, opndL t, f, id⟩

/-- A case of a D tail. -/
def caseD (i : TailD → Instr) (g : Sig) (t : TailD) (f : Core → Core) : Case := ⟨i t, g, opndD t, f, id⟩

/-- Every case issues, with a property of its state, its time and its operands. -/
def allMeet (xs : List Case) (P : State → Nat → Opnd → Bool) : Bool := xs.all (fun x => meets x.state x.sig x.raw (fun t o => P x.state t o))

/-- Cases that issue and go on straight, with a property. -/
abbrev Met (xs : List Case) (P : State → Nat → Opnd → Prop) : Prop :=
  ∀ x ∈ xs, ∃ (s : State) (t : Nat) (o : Opnd), s.Issues x.sig x.raw t o ∧ (∀ m, s.Straight (s.coreAt t) m) ∧ P s t o

theorem met {xs : List Case} (P : State → Nat → Opnd → Prop) [∀ s t o, Decidable (P s t o)]
    (h : allMeet xs (fun s t o => decide (P s t o)) = true) : Met xs P := fun x hx =>
  let ⟨t, o, hi, hs, hp⟩ := issues_of_meets (s := x.state) (g := x.sig) (raw := x.raw) (fun t o => P x.state t o) (List.all_eq_true.mp h x hx)
  ⟨x.state, t, o, hi, hs, hp⟩

/-- Cases that issue and go on straight. -/
abbrev Issued (xs : List Case) : Prop := Met xs (fun _ _ _ => True)

theorem issued {xs : List Case} (h : allMeet xs (fun _ _ _ => true) = true) : Issued xs := met (fun _ _ _ => True) h

/-- A launch of the 64 cores of a partition's first super-group, started. -/
def oneLaunch : Launch := { Launch.fresh (List.replicate 8 0 ++ 64 :: List.replicate 119 0) 0 0 0 false with stage := .started }

/-- A machine whose core 0 runs in a launch of partition 0 with PID 5. -/
def launched (s : State) : State :=
  { s with launches := [(0, oneLaunch)], parts := [(0, ⟨true, 5, 0, 1⟩)] }.setCore 0 { s.core 0 with launch := some 0, part := 0x0005_0000_0000_0000 }

/-! ### Control -/

/-- J and CALL to their own line, JR and CALLR to line 0 of the slice. -/
theorem witness_Transfers_good : Met [caseI .j (sigJump 0x001 false) ⟨0, 0, 0⟩ id, caseH .jr (sigJumpReg 0x002 false) ⟨2, 0, 0⟩ id,
      caseI .call (sigJump 0x003 true) ⟨0, 0, 0⟩ id, caseH .callr (sigJumpReg 0x004 true) ⟨2, 0, 0⟩ id]
    (fun s t o => s.GoodTarget (((s.coreAt t).displaced (0 : BitVec 20)).setWidth 64) ∧ s.GoodTarget ((s.coreAt t).readG o.a) ∧
      (s.coreAt t).res ≠ 5 ∧ (s.coreAt t).ras.length < 16) :=
  met (fun s t o => ((((s.coreAt t).displaced (0 : BitVec 20)).setWidth 64).toNat < 262144 ∧ s.badTarget s.cur ((((s.coreAt t).displaced (0 : BitVec 20)).setWidth 64).setWidth 18) = false) ∧ (((s.coreAt t).readG o.a).toNat < 262144 ∧ s.badTarget s.cur (((s.coreAt t).readG o.a).setWidth 18) = false) ∧
    (s.coreAt t).res ≠ 5 ∧ (s.coreAt t).ras.length < 16) (by decide +kernel)

/-- A displacement to an odd line of no head, and an address above the slice. -/
theorem witness_Transfers_bad : Met [caseI .j (sigJump 0x001 false) ⟨0, 0, 1⟩ id, caseH .jr (sigJumpReg 0x002 false) ⟨2, 0, 0⟩ (regs [(2, 0x4_0000)]),
      caseI .call (sigJump 0x003 true) ⟨0, 0, 1⟩ id, caseH .callr (sigJumpReg 0x004 true) ⟨2, 0, 0⟩ (regs [(2, 0x4_0000)])]
    (fun s t o => (s.coreAt t).hm = false ∧
      (¬ s.GoodTarget (((s.coreAt t).displaced (1 : BitVec 20)).setWidth 64)) ∧ (o.a = 2 → ¬ s.GoodTarget ((s.coreAt t).readG o.a))) :=
  met (fun s t o => (s.coreAt t).hm = false ∧ (¬ ((((s.coreAt t).displaced (1 : BitVec 20)).setWidth 64).toNat < 262144 ∧ s.badTarget s.cur ((((s.coreAt t).displaced (1 : BitVec 20)).setWidth 64).setWidth 18) = false)) ∧
    (o.a = 2 → ¬ (((s.coreAt t).readG o.a).toNat < 262144 ∧ s.badTarget s.cur (((s.coreAt t).readG o.a).setWidth 18) = false))) (by decide +kernel)

theorem witness_Transfers_spills : Met [caseI .call (sigJump 0x003 true) ⟨0, 0, 0⟩ (fun c => { c with res := 5 })]
      (fun s t _ => s.GoodTarget (((s.coreAt t).displaced (0 : BitVec 20)).setWidth 64) ∧ (s.coreAt t).res = 5) ∧
    Met [caseI .call (sigJump 0x003 true) ⟨0, 0, 0⟩ (fun c => { c with ras := List.replicate 16 0 })]
      (fun s t _ => s.GoodTarget (((s.coreAt t).displaced (0 : BitVec 20)).setWidth 64) ∧ (s.coreAt t).res ≠ 5 ∧ 16 ≤ (s.coreAt t).ras.length) :=
  ⟨met (fun s t _ => ((((s.coreAt t).displaced (0 : BitVec 20)).setWidth 64).toNat < 262144 ∧ s.badTarget s.cur ((((s.coreAt t).displaced (0 : BitVec 20)).setWidth 64).setWidth 18) = false) ∧ (s.coreAt t).res = 5) (by decide +kernel),
    met (fun s t _ => ((((s.coreAt t).displaced (0 : BitVec 20)).setWidth 64).toNat < 262144 ∧ s.badTarget s.cur ((((s.coreAt t).displaced (0 : BitVec 20)).setWidth 64).setWidth 18) = false) ∧ (s.coreAt t).res ≠ 5 ∧ 16 ≤ (s.coreAt t).ras.length) (by decide +kernel)⟩

theorem witness_Transfers_return : Met [⟨.ret, sigZ 0x005 Core.hm, noOpnd, id, id⟩] (fun s t _ => (s.coreAt t).ras = [] ∧ (s.coreAt t).rasSaved = 0) ∧
    Met [⟨.ret, sigZ 0x005 Core.hm, noOpnd, fun c => { c with rasSaved := 1 }, id⟩] (fun s t _ => (s.coreAt t).ras = [] ∧ (s.coreAt t).rasSaved ≠ 0) ∧
    Met [⟨.ret, sigZ 0x005 Core.hm, noOpnd, fun c => { c with ras := [0], res := 1 }, id⟩] (fun s t _ => (s.coreAt t).ras = [0] ∧ (s.coreAt t).res = 1) ∧
    Met [⟨.ret, sigZ 0x005 Core.hm, noOpnd, fun c => { c with ras := [2], res := 2 }, id⟩]
      (fun s t _ => (s.coreAt t).ras = [2] ∧ (s.coreAt t).res ≠ 1 ∧ s.badTarget s.cur 2 = true) ∧
    Met [⟨.ret, sigZ 0x005 Core.hm, noOpnd, fun c => { c with ras := [0], res := 2 }, id⟩]
      (fun s t _ => (s.coreAt t).ras = [0] ∧ (s.coreAt t).res ≠ 1 ∧ s.badTarget s.cur 0 = false) :=
  ⟨met _ (by decide +kernel), met _ (by decide +kernel), met _ (by decide +kernel), met _ (by decide +kernel), met _ (by decide +kernel)⟩

/-- A line of a LOOP of level 0 to the NOP after it. -/
def loopState (count : Word) : State :=
  let s := State.reset.placeLine (packLine [⟨0x0006, 0x40080⟩, ⟨0x8000, 0⟩])
  s.setCore 0 (regs [(2, count)] (s.core 0))

theorem witness_Loop_starts : ∀ n ∈ [(0 : Word), 3], ∃ (s : State) (tail : TailL) (t : Nat) (o : Opnd), s.Issues sigLoop (opndL tail) t o ∧
    s.badTarget s.cur ((s.coreAt t).displaced tail.imm) = false ∧ s.sequel.toNat ≤ ((s.coreAt t).displaced tail.imm).toNat ∧
    ((s.coreAt t).readG o.a).setWidth 32 = (n.setWidth 32 : BitVec 32) ∧
    s.Straight ((s.coreAt t).looping o.d (n.setWidth 32) s.sequel ((s.coreAt t).displaced tail.imm)) s.mem := fun n hn =>
  let ⟨t, o, hi, _, h1, h2, h3, h4⟩ := issues_of_all (st := fun n : Word => loopState n) (g := fun _ => sigLoop) (raw := fun _ => opndL ⟨0, 2, 0, 1⟩)
    (fun n t o => (loopState n).badTarget 0 (((loopState n).coreAt t).displaced (1 : BitVec 30)) = false ∧
      (loopState n).sequel.toNat ≤ (((loopState n).coreAt t).displaced (1 : BitVec 30)).toNat ∧
      (((loopState n).coreAt t).readG o.a).setWidth 32 = (n.setWidth 32 : BitVec 32) ∧
      ((((loopState n).coreAt t).looping o.d (n.setWidth 32) (loopState n).sequel (((loopState n).coreAt t).displaced (1 : BitVec 30))).advance
        ((loopState n).lastHead 0)).back = false) (by decide +kernel) n hn
  ⟨_, ⟨0, 2, 0, 1⟩, t, o, hi, h1, h2, h3, straight_of h4 _⟩

theorem witness_Loop_bad : Met [caseL .loop sigLoop ⟨0, 2, 0, 1⟩ id] (fun s t _ => s.badTarget s.cur ((s.coreAt t).displaced (1 : BitVec 30)) = true) ∧
    Met [caseL .loop sigLoop ⟨0, 2, 0, 0⟩ id] (fun s t _ => s.badTarget s.cur ((s.coreAt t).displaced (0 : BitVec 30)) = false ∧
      ((s.coreAt t).displaced (0 : BitVec 30)).toNat < s.sequel.toNat) :=
  ⟨met _ (by decide +kernel), met _ (by decide +kernel)⟩

/-- A REP of no pass over a body of one instruction: a well-formed line follows, or a malformed one. -/
theorem witness_Rep : Met [⟨.rep ⟨0, 0, 0⟩, sigRep, opndI ⟨0, 0, 0⟩, id, fun s => { s with mem := Memory.writeLE s.mem (sliceKey 0 0x40) 64 0x8000 }⟩]
      (fun s _ _ => (match s.stepOver s.cur 1 s.sequel with | .ok _ => true | .error _ => false) = true) ∧
    Met [caseI .rep sigRep ⟨0, 0, 0⟩ id] (fun s _ _ => (match s.stepOver s.cur 1 s.sequel with | .ok _ => true | .error _ => false) = false) ∧
    Issued [caseI .rep sigRep ⟨63, 15, 0x7_FFFF⟩ id] :=
  ⟨met _ (by decide +kernel), met _ (by decide +kernel), issued (by decide +kernel)⟩

/-- A machine whose partition stops at breakpoints (R442). -/
def breaking (s : State) : State := (launched s).setPage 0 0x08 1

theorem witness_TrapsAndBreakpoints : Issued [caseI .trap sigTrap ⟨0, 0, 255⟩ id] ∧
    Met [⟨.bkpt, sigZ 0x010 Core.hm, noOpnd, id, id⟩] (fun s _ _ => s.breakStops = false) ∧
    Met [⟨.bkpt, sigZ 0x010 Core.hm, noOpnd, id, breaking⟩] (fun s _ _ => s.breakStops = true ∧ s.partOf (s.core s.cur) = some 0 ∧ (s.partition 0).stop = .none) :=
  ⟨issued (by decide +kernel), met _ (by decide +kernel), met _ (by decide +kernel)⟩

theorem witness_Rett : Met [⟨.rett, sigZ 0x009 (fun c => !c.hm), noOpnd, fun c => { handler c with epc := 2 }, id⟩]
      (fun s t _ => s.badTarget s.cur (s.coreAt t).epc = true) ∧
    Met [⟨.rett, sigZ 0x009 (fun c => !c.hm), noOpnd, handler, id⟩] (fun s t _ => s.badTarget s.cur (s.coreAt t).epc = false ∧ (s.coreAt t).held = []) :=
  ⟨met _ (by decide +kernel), met _ (by decide +kernel)⟩

/-- A line of a GD and a NOP, and of an FMT and a VADD. -/
theorem witness_Prefixes :
    (∃ (s : State) (tail : TailH) (t : Nat) (o : Opnd), s.Issues sigGd (opndH tail) t o ∧ s.Straight (s.coreAt t) s.mem) ∧
    ∃ (s : State) (tail : TailW) (t : Nat) (o : Opnd), s.Issues sigFmt (opndW tail) t o ∧ s.Straight (s.coreAt t) s.mem :=
  let ⟨t, o, hi, hs, _⟩ := issues_of_meets (s := State.reset.placeLine (packLine [⟨0x000E, 0x1041⟩, ⟨0x8000, 0⟩])) (g := sigGd) (raw := opndH ⟨1, 1, 1⟩)
    (fun _ _ => True) (by decide +kernel)
  let ⟨t', o', hi', hs', _⟩ := issues_of_meets (s := State.reset.placeLine (packLine [⟨0x000F, 2⟩, ⟨0x8500, 0⟩])) (g := sigFmt)
    (raw := opndW ⟨2, 0, 0, 0, 0⟩) (fun _ _ => True) (by decide +kernel)
  ⟨⟨_, ⟨1, 1, 1⟩, t, o, hi, hs _⟩, ⟨_, ⟨2, 0, 0, 0, 0⟩, t', o', hi', hs' _⟩⟩

/-- A request of core 0 that writes its own slice and awaits its response. -/
def ownStore : Req where
  core := 0
  client := .core
  seq := 0
  op := .store 8 0
  near := true
  ea := 0x1000
  acquire := false
  release := none
  blocks := false
  handler := false
  result := none
  dst := none
  dst2 := none
  vec := none
  reg := 0
  opc := 1
  cls := some 0
  writes := true
  sentAt := 0
  cycles := 0
  stage := .sent
  withdrawn := false
  drains := []

/-- A well-formed line after the first. -/
def lineAfter (s : State) : State := { s with mem := Memory.writeLE s.mem (sliceKey 0 0x40) 64 0x8000 }

theorem witness_StopsAndWaits : Issued [⟨.nop, sigZ 0x000 (fun _ => false), noOpnd, id, id⟩,
      ⟨.halt, { sigZ 0x00A (fun _ => false) with waitsAll := true }, noOpnd, id, launched⟩,
      ⟨.wait, { sigZ 0x011 Core.hm with waitsAll := true }, noOpnd, id, id⟩] ∧
    Met [⟨.isync, sigZ 0x00B (fun _ => false), noOpnd, id, fun s => { s with reqs := [(0, ownStore)] }⟩] (fun s _ _ => s.ownWrites s.cur = true) ∧
    Met [⟨.isync, sigZ 0x00B (fun _ => false), noOpnd, id, lineAfter⟩]
      (fun s t _ => s.ownWrites s.cur = false ∧ s.unbuffered.badTarget s.cur ((s.coreAt t).advance (s.lastHead s.cur)).next = false) :=
  ⟨issued (by decide +kernel), met _ (by decide +kernel), met _ (by decide +kernel)⟩

/-! ### Control registers, accounts, governor and trace -/

theorem witness_ControlReads : ∀ r ∈ crReads, ∃ (s : State) (tail : TailI) (t : Nat) (o : Opnd),
    s.Issues sigMfc (opndI tail) t o ∧ tail.imm.toNat = r.num ∧ s.Straight (s.coreAt t) s.mem := fun r hr =>
  let ⟨t, o, hi, hs, hp⟩ := issues_of_all (st := fun r : CrRead => placed (.mfc ⟨1, 0, BitVec.ofNat 20 r.num⟩) handler) (g := fun _ => sigMfc)
    (raw := fun r => opndI ⟨1, 0, BitVec.ofNat 20 r.num⟩) (fun r _ _ => (BitVec.ofNat 20 r.num).toNat = r.num) (by decide +kernel) r hr
  ⟨_, ⟨1, 0, BitVec.ofNat 20 r.num⟩, t, o, hi, hp, hs _⟩

theorem witness_ControlWrites : ∀ r ∈ crWrites, ∃ (s : State) (tail : TailI) (t : Nat) (o : Opnd),
    s.Issues sigMtc (opndI tail) t o ∧ tail.imm.toNat = r.num ∧ ¬ (r.num = 0x0D ∧ (s.coreAt t).hm = false ∧ bitsOf ((s.coreAt t).readG o.a) 63 48 ≠ 0) ∧
      s.Straight (r.write (s.coreAt t) ((s.coreAt t).readG o.a)) s.mem := fun r hr =>
  let ⟨t, o, hi, _, h1, h2, h3⟩ := issues_of_all (st := fun r : CrWrite => placed (.mtc ⟨0, 1, BitVec.ofNat 20 r.num⟩) handler) (g := fun _ => sigMtc)
    (raw := fun r => opndI ⟨0, 1, BitVec.ofNat 20 r.num⟩)
    (fun r t o => let s := placed (.mtc ⟨0, 1, BitVec.ofNat 20 r.num⟩) handler
      (BitVec.ofNat 20 r.num).toNat = r.num ∧ (¬ (r.num = 0x0D ∧ (s.coreAt t).hm = false ∧ bitsOf ((s.coreAt t).readG o.a) 63 48 ≠ 0)) ∧
        ((r.write (s.coreAt t) ((s.coreAt t).readG o.a)).advance (s.lastHead s.cur)).back = false) (by decide +kernel) r hr
  ⟨_, ⟨0, 1, BitVec.ofNat 20 r.num⟩, t, o, hi, h1, h2, straight_of h3 _⟩

theorem witness_ControlWrites_reps : Met [caseI .mtc sigMtc ⟨0, 1, 0x0D⟩ (regs [(1, 0x0001_0000_0000_0000)])]
    (fun s t o => (s.coreAt t).hm = false ∧ bitsOf ((s.coreAt t).readG o.a) 63 48 ≠ 0) := met _ (by decide +kernel)

theorem witness_ControlWrites_mfr : Met [caseI .mtc sigMtc ⟨0, 1, 0x35⟩ handler] (fun s t o => ((s.coreAt t).readG o.a).getLsbD 62 = false) ∧
    Met [caseI .mtc sigMtc ⟨0, 1, 0x35⟩ (fun c => { regs [(1, 0x4000_0000_0000_0000)] (handler c) with held := [⟨3, some (0x0A, 0), false⟩], reported := some 3 })]
      (fun s t o => ((s.coreAt t).readG o.a).getLsbD 62 = true ∧ (s.coreAt t).reported = some 3) :=
  ⟨met _ (by decide +kernel), met _ (by decide +kernel)⟩

theorem witness_Windows : Met [caseI .wseRead sigMfc ⟨1, 0, 0x09⟩ (fun c => { handler c with px := 175 }),
      caseI .raseRead sigMfc ⟨1, 0, 0x0C⟩ (fun c => { handler c with ras := [4] }),
      caseI .wseWrite sigMtc ⟨0, 1, 0x09⟩ (fun c => { handler c with px := 175 }), caseI .raseWrite sigMtc ⟨0, 1, 0x0C⟩ handler]
    (fun s t _ => (s.coreAt t).hm = true ∧ (s.coreAt t).px.toNat < 176) := met _ (by decide +kernel)

/-- A machine whose partition traces its programs (R446, R458). -/
def tracing (s : State) : State := (launched s).setPage 0 0x40 1

theorem witness_Accounts : Issued [caseW .lacc (sigLacc 0xC01) ⟨1, 2, 0, 0, 63⟩ id, caseW .laccz (sigLacc 0xC02) ⟨1, 2, 0, 0, 0⟩ id,
      caseI .gov sigGov ⟨0, 0, 64⟩ id, caseI .gov sigGov ⟨0, 0, 128⟩ id] ∧
    Met [caseD .trace sigTrace ⟨0, 1, 2, 0, 0, 7⟩ id] (fun s _ _ => s.partOf (s.core s.cur) = none) ∧
    Met [⟨.trace ⟨0, 1, 2, 0, 0, 7⟩, sigTrace, opndD ⟨0, 1, 2, 0, 0, 7⟩, fun c => { c with trace := List.replicate 8 [] }, tracing⟩]
      (fun s t _ => s.partOf (s.core s.cur) = some 0 ∧ s.traces 0 0 = true ∧ 8 ≤ (s.coreAt t).trace.length) ∧
    Met [⟨.trace ⟨0, 1, 2, 0, 0, 7⟩, sigTrace, opndD ⟨0, 1, 2, 0, 0, 7⟩, id, tracing⟩]
      (fun s t _ => s.partOf (s.core s.cur) = some 0 ∧ s.traces 0 0 = true ∧ (s.coreAt t).trace.length < 8) :=
  ⟨issued (by decide +kernel), met _ (by decide +kernel), met _ (by decide +kernel), met _ (by decide +kernel)⟩

/-! ### Vectors -/

theorem witness_FloatForms : ∀ r ∈ floatForms, ∃ (s : State) (tail : TailW) (t : Nat) (o : Opnd),
    s.Issues (sigFloat r.op r.lat r.sources) (opndW tail) t o ∧ s.Straight (s.coreAt t) s.mem := fun r hr =>
  let ⟨t, o, hi, hs, _⟩ := issues_of_all (l := floatForms)
    (st := fun r => placed (r.instr ⟨31, 2, if r.sources < 2 then 0 else 3, if r.sources < 3 then 0 else 4, 0⟩) id)
    (g := fun r => sigFloat r.op r.lat r.sources) (raw := fun r => opndW ⟨31, 2, if r.sources < 2 then 0 else 3, if r.sources < 3 then 0 else 4, 0⟩)
    (fun _ _ _ => True) (by decide +kernel) r hr
  ⟨_, _, t, o, hi, hs _⟩

/-- 1 + 2^-4 lies between two E4M3 codes, and 448 is the greatest. -/
theorem witness_Rounding : ∀ x ∈ [(1 + 1 / 16 : Rat), 448, 1 / 1024], (0 : Rat) < x ∧ (val .e4m3 (Fmt.maxCode .e4m3)).rat? = some 448 ∧ x ≤ 448 := by decide +kernel

theorem witness_FloatSelection : Issued [caseW .vmin (sigFloat 0x50C 2 2) ⟨1, 2, 3, 0, 0⟩ id, caseW .vmax (sigFloat 0x50D 2 2) ⟨1, 2, 3, 0, 0⟩ id,
    caseW .vabs (sigFloat 0x50E 2 1) ⟨1, 2, 0, 0, 0⟩ id, caseW .vneg (sigFloat 0x50F 2 1) ⟨1, 2, 0, 0, 0⟩ id, caseW .vclass (sigFloat 0x512 2 1) ⟨1, 2, 0, 0, 0⟩ id,
    caseW .vcmp sigVcmp ⟨1, 2, 3, 0, 0x38⟩ id, caseW .vsel sigVsel ⟨1, 2, 3, 4, 0⟩ id, caseW .vmin (sigFloat 0x50C 2 2) ⟨1, 2, 3, 0, 0⟩ (formatted ⟨2, 0, 0, 0, 0⟩)] :=
  issued (by decide +kernel)

theorem witness_LaneForms : ∀ r ∈ laneForms, ∃ (s : State) (tail : TailW) (t : Nat) (o : Opnd),
    s.Issues (sigLanes r.op r.lat) (opndW tail) t o ∧ s.Straight (s.coreAt t) s.mem := fun r hr =>
  let ⟨t, o, hi, hs, _⟩ := issues_of_all (l := laneForms) (st := fun r => placed (r.instr ⟨1, 2, 3, 0, 7⟩) id) (g := fun r => sigLanes r.op r.lat)
    (raw := fun _ => opndW ⟨1, 2, 3, 0, 7⟩) (fun _ _ _ => True) (by decide +kernel) r hr
  ⟨_, _, t, o, hi, hs _⟩

theorem witness_IntegerLanes : Issued [caseW .vimad sigVimad ⟨1, 2, 3, 4, 0⟩ id, caseW .viadds (sigLanes 0x60C 2) ⟨1, 2, 3, 0, 4⟩ id,
    caseW .vicmp sigVicmp ⟨1, 2, 3, 0, 0x34⟩ id, caseW .vclmul sigVclmul ⟨1, 2, 3, 0, 1⟩ id, caseD .vrng sigVrng ⟨1, 2, 3, 0, 0, 0xFFFF_FFFF⟩ id] :=
  issued (by decide +kernel)

theorem witness_Moves : Issued [caseW .vmov sigVmov ⟨31, 0, 0, 0, 0⟩ id, caseW .vbcast sigVbcast ⟨1, 63, 0, 0, 0⟩ id, caseW .vins sigVins ⟨1, 2, 0, 63, 0⟩ id,
    caseW .vext sigVext ⟨1, 2, 0, 7, 3⟩ id, caseW .vperm sigVperm ⟨1, 2, 3, 0, 0⟩ id, caseW .vrot sigVrot ⟨1, 2, 0, 31, 1⟩ id] := issued (by decide +kernel)

/-- A narrowing and a widening part, the last of each; the packings; and the quantisations of the worked example. -/
theorem witness_Conversions : Met [caseW .vcvt sigVcvt ⟨2, 3, 0, 0, 1⟩ (formatted ⟨2, 1, 0, 0, 0⟩)] (fun s t _ => (s.coreAt t).fmt.cvt.wd < (s.coreAt t).fmt.cvt.wa) ∧
    Met [caseW .vcvt sigVcvt ⟨2, 3, 0, 0, 1⟩ (formatted ⟨1, 2, 0, 0, 0⟩)] (fun s t _ => (s.coreAt t).fmt.cvt.wa ≤ (s.coreAt t).fmt.cvt.wd) ∧
    Issued [caseW .vpack sigVpack ⟨1, 2, 3, 0, 0⟩ (formatted ⟨2, 1, 0, 0, 0⟩), caseW .vunpk sigVunpk ⟨1, 2, 0, 3, 0⟩ (formatted ⟨1, 2, 0, 0, 0⟩),
      caseW .vqnt sigVqnt ⟨9, 10, 0, 22, 1⟩ (formatted ⟨4, 1, 0, 0, 1⟩), caseW .vdqnt sigVdqnt ⟨11, 9, 0, 22, 1⟩ (formatted ⟨1, 4, 0, 0, 0⟩)] :=
  ⟨met _ (by decide +kernel), met _ (by decide +kernel), issued (by decide +kernel)⟩

theorem witness_Reductions : Met [caseW .vred (sigRed 0x800 .gw) ⟨1, 2, 0, 0, 0x6F⟩ id, caseW .vscan (sigRed 0x807 .vw) ⟨1, 2, 0, 0, 0x6F⟩ id]
      (fun _ _ o => o.m.getLsbD 6 = true) ∧
    Met [caseW .vred (sigRed 0x800 .gw) ⟨1, 2, 0, 0, 0x10⟩ id, caseW .vscan (sigRed 0x807 .vw) ⟨1, 2, 0, 0, 0⟩ id] (fun _ _ o => o.m.getLsbD 6 = false) ∧
    Issued [caseW .vpopc sigVpopc ⟨1, 2, 0, 0, 0⟩ id, caseW .vdot sigVdot ⟨1, 2, 3, 0, 0⟩ id, caseW .vdot sigVdot ⟨1, 2, 3, 4, 0⟩ (formatted ⟨1, 4, 4, 0, 0⟩),
      caseW .vtopk sigVtopk ⟨10, 4, 20, 12, 31⟩ id] :=
  ⟨met _ (by decide +kernel), met _ (by decide +kernel), issued (by decide +kernel)⟩

/-- One active lane at the slice's last element, the others inactive; and no active lane. -/
theorem witness_Gathers : (∀ f ∈ [(Instr.vgath, sigGather 0x804 .vw 4, false, lanesOf 32 (8 :: List.replicate 15 0xFFFF_FFFF)),
        (Instr.vscat, sigGather 0x805 .vr 0, true, lanesOf 32 (8 :: List.replicate 15 0xFFFF_FFFF)), (Instr.vscat, sigGather 0x805 .vr 0, true, 2 ^ 512 - 1)],
      ∃ (s : State) (tail : TailW) (t : Nat) (o : Opnd), s.Issues f.2.1 (opndW tail) t o ∧ (∀ m, s.Straight (s.coreAt t) m) ∧
        s.MayAccess t f.2.2.1 (o.mtype.width / 8) (((s.coreAt t).activeLanes o (elements o.mtype.width)).map (fun i => ((s.coreAt t).laneAddress o i, o.mtype.width / 8)))) :=
  fun r hr =>
  let ⟨t, o, hi, hs, hp⟩ := issues_of_all
    (st := fun r : (TailW → Instr) × Sig × Bool × Nat => placed (r.1 ⟨1, 3, 2, 0, 3⟩) (fun c => regs [(2, 0x3_FFF0)] (vecs [(3, r.2.2.2)] c)))
    (g := fun r => r.2.1) (raw := fun _ => opndW ⟨1, 3, 2, 0, 3⟩)
    (fun r t o => let s := placed (r.1 ⟨1, 3, 2, 0, 3⟩) (fun c => regs [(2, 0x3_FFF0)] (vecs [(3, r.2.2.2)] c))
      accessOk s t r.2.2.1 (o.mtype.width / 8) (((s.coreAt t).activeLanes o (elements o.mtype.width)).map (fun i => ((s.coreAt t).laneAddress o i, o.mtype.width / 8))) = true)
    (by decide +kernel) r hr
  ⟨_, _, t, o, hi, hs, mayAccess_of hp⟩

theorem witness_Distances : ∃ (s : State) (tail : TailD) (t : Nat) (o : Opnd), s.Issues sigVdist (opndD tail) t o ∧ s.Straight (s.coreAt t) s.mem ∧
    s.MayAccess t false ((s.coreAt t).dotFormats.1.width / 8) [(((s.coreAt t).readG o.c).toNat, tail.imm.toNat * ((s.coreAt t).dotFormats.1.width / 8))] ∧
    s.MayAccess t false ((s.coreAt t).dotFormats.2.width / 8) (((s.coreAt t).activeLanes o 16).map (fun i =>
      ((s.coreAt t).laneAddress o i, tail.imm.toNat * ((s.coreAt t).dotFormats.2.width / 8)))) :=
  let s := placed (.vdist ⟨3, 4, 2, 5, 0, 4⟩) (fun c => regs [(2, 0), (5, 0x100)] (vecs [(4, lanesOf 32 (0x200 :: 0x300 :: List.replicate 14 0xFFFF_FFFF))] c))
  let ⟨t, o, hi, hs, h1, h2⟩ := issues_of_meets (s := s) (g := sigVdist) (raw := opndD ⟨3, 4, 2, 5, 0, 4⟩)
    (fun t o => accessOk s t false ((s.coreAt t).dotFormats.1.width / 8) [(((s.coreAt t).readG o.c).toNat, (4 : BitVec 32).toNat * ((s.coreAt t).dotFormats.1.width / 8))] = true ∧
      accessOk s t false ((s.coreAt t).dotFormats.2.width / 8) (((s.coreAt t).activeLanes o 16).map (fun i =>
        ((s.coreAt t).laneAddress o i, (4 : BitVec 32).toNat * ((s.coreAt t).dotFormats.2.width / 8)))) = true) (by decide +kernel)
  ⟨s, ⟨3, 4, 2, 5, 0, 4⟩, t, o, hi, hs _, mayAccess_of h1, mayAccess_of h2⟩

end Sys2Proof.Tests
end

