-- ==== Sys2Proof/Tests/WitnessRequests.lean ====
section
/-! SUPPORT. Witnesses: states that meet the hypotheses of the statements about requests, messages and exchange. -/

namespace Sys2Proof.Tests

open Sys2Proof.Machine

set_option Elab.async false

/-! ### Requests -/

/-- A tail that names no wrong field of a request form, with a displacement. -/
def tailFor (f : RequestForm) (imm : BitVec 32) : TailD :=
  ⟨if f.sig.op = 0x40A then 0 else 1, 2, if f.sig.op = 0x406 ∨ f.sig.op = 0x407 then 3 else 0, 0,
    if f.sig.op = 0x404 ∨ f.sig.op = 0x405 ∨ f.sig.op = 0x40A then 0 else 3, imm⟩

/-- A form placed with its tail. -/
def requestState (f : RequestForm) (imm : BitVec 32) : State := placed (f.instr (tailFor f imm)) id

theorem witness_Requests_misaligned : ∀ f ∈ requestForms, ∃ (s : State) (tail : TailD) (t : Nat) (o : Opnd), s.Issues f.sig (opndD tail) t o ∧
    ¬ f.align o ∣ ((s.coreAt t).addressD o tail).toNat ∧ (s.coreAt t).hm = false := fun f hf =>
  let ⟨t, o, hi, _, hp⟩ := issues_of_all (l := requestForms) (st := fun f => requestState f 1) (g := fun f => f.sig) (raw := fun f => opndD (tailFor f 1))
    (fun f t o => (¬ f.align o ∣ (((requestState f 1).coreAt t).addressD o (tailFor f 1)).toNat) ∧ ((requestState f 1).coreAt t).hm = false) (by decide +kernel) f hf
  ⟨_, _, t, o, hi, hp⟩

theorem witness_Requests_sent : ∀ f ∈ requestForms, ∃ (s : State) (tail : TailD) (t : Nat) (o : Opnd), s.Issues f.sig (opndD tail) t o ∧
    f.align o ∣ ((s.coreAt t).addressD o tail).toNat ∧ s.outstanding s.cur < 32 ∧ s.Straight (s.coreAt t) s.mem ∧ o.m.getLsbD 4 = false := fun f hf =>
  let ⟨t, o, hi, hs, h1, h2, h3⟩ := issues_of_all (l := requestForms) (st := fun f => requestState f 64) (g := fun f => f.sig) (raw := fun f => opndD (tailFor f 64))
    (fun f t o => f.align o ∣ (((requestState f 64).coreAt t).addressD o (tailFor f 64)).toNat ∧ (requestState f 64).outstanding (requestState f 64).cur < 32 ∧
      o.m.getLsbD 4 = false) (by decide +kernel) f hf
  ⟨_, _, t, o, hi, h1, h2, hs _, h3⟩

/-- A machine with 32 requests of core 0 outstanding. -/
def crowded (s : State) : State := { s with reqs := (List.range 32).map (fun i => (i, ownStore)), nextId := 32 }

/-- A machine with one store of core 0 outstanding. -/
def oneStore (s : State) : State := { s with reqs := [(0, ownStore)], nextId := 1 }

/-- A machine with one store of core 0 held, as failed. -/
def oneFailed (s : State) : State := { s with reqs := [(0, { ownStore with stage := .held })], nextId := 1 }

theorem witness_Requests_full : Met [⟨.ldn ⟨1, 2, 0, 0, 3, 64⟩, sigMem 0x400 .gw [0, 1], opndD ⟨1, 2, 0, 0, 3, 64⟩, id, crowded⟩]
    (fun s t o => o.mtype.width / 8 ∣ ((s.coreAt t).addressD o ⟨1, 2, 0, 0, 3, 64⟩).toNat ∧ 32 ≤ s.outstanding s.cur) := met _ (by decide +kernel)

/-- The tail of a store that releases at the scope of the core's super-group. -/
def releaseTail : TailD := ⟨1, 2, 0, 0, 0x33, 64⟩

/-- The request of a store that releases, with its earlier requests, and the core as it then stands. -/
def releaseReq (s : State) (t : Nat) (o : Opnd) : Req := s.madeBy (s.coreAt t) (sigMem 0x401 .gr [0, 2]) o releaseTail true (.store 8 ((s.coreAt t).storeValue o)) true

/-- With no earlier request, behind a write not yet acknowledged, and behind one that has failed. -/
theorem witness_Requests_release : Met [caseD .stn (sigMem 0x401 .gr [0, 2]) releaseTail id]
      (fun s t o => o.m.getLsbD 4 = true ∧ s.goesAt (s.coreAt t) (releaseReq s t o) = true) ∧
    Met [⟨.stn releaseTail, sigMem 0x401 .gr [0, 2], opndD releaseTail, fun c => { c with reqSeq := 1 }, oneStore⟩]
      (fun s t o => s.ahead (releaseReq s t o) = [0] ∧ (s.req 0).all (fun q => q.stage != .held) = true) ∧
    Met [⟨.stn releaseTail, sigMem 0x401 .gr [0, 2], opndD releaseTail, fun c => { c with reqSeq := 1 }, oneFailed⟩]
      (fun s t o => s.ahead (releaseReq s t o) = [0] ∧ (s.req 0).any (fun q => q.stage == .held) = true) :=
  ⟨met _ (by decide +kernel), met _ (by decide +kernel), met _ (by decide +kernel)⟩

theorem witness_Waits : Issued [caseW .fence sigFence ⟨0, 0, 0, 0, 0x38⟩ id] ∧
    Met [caseW .waitc sigWaitc ⟨1, 2, 15, 0, 1⟩ (fun c => { regs [(2, 5)] c with counters := c.counters.set 15 5 })] (fun s t o => s.counterMark s.cur o.b.toNat = none ∧
      ((s.coreAt t).readG o.a).toNat % 2 ^ 32 ≤ ((s.coreAt t).counters[o.b.toNat]?.getD 0).toNat) ∧
    Met [caseW .waitc sigWaitc ⟨1, 2, 15, 0, 0⟩ (fun c => { regs [(2, 6)] c with counters := c.counters.set 15 5 })] (fun s t o => s.counterMark s.cur o.b.toNat = none ∧
      ((s.coreAt t).counters[o.b.toNat]?.getD 0).toNat < ((s.coreAt t).readG o.a).toNat % 2 ^ 32) ∧
    Met [caseW .inbox sigInbox ⟨1, 0, 0, 2, 1⟩ id, caseW .inbox sigInbox ⟨1, 0, 0, 2, 0⟩ id] (fun s t _ => (s.coreAt t).inbox = []) ∧
    Met [caseW .inbox sigInbox ⟨1, 0, 0, 2, 1⟩ (fun c => { c with inbox := [⟨1, 0, 0, 7, 9⟩] })] (fun s t _ => (s.coreAt t).inbox = [⟨1, 0, 0, 7, 9⟩]) :=
  ⟨issued (by decide +kernel), met _ (by decide +kernel), met _ (by decide +kernel), met _ (by decide +kernel), met _ (by decide +kernel)⟩

theorem witness_Waits_requests : Met [caseD .waita sigWaita ⟨1, 2, 3, 4, 3, 64⟩ id]
      (fun s t o => o.mtype.width / 8 ∣ ((s.coreAt t).addressD o ⟨1, 2, 3, 4, 3, 64⟩).toNat ∧ s.outstanding s.cur < 32) ∧
    Met [caseD .flush sigFlush ⟨0, 2, 3, 0, 1, 0⟩ id] (fun s t o => ((s.coreAt t).readG o.b).toNat % 2 ^ 32 = 0) ∧
    Met [caseD .flush sigFlush ⟨0, 2, 3, 0, 1, 0⟩ (regs [(2, 0xE000_0000_0000_0000), (3, 0xFFFF_FFFF)])]
      (fun s t o => ((s.coreAt t).readG o.b).toNat % 2 ^ 32 ≠ 0 ∧ s.outstanding s.cur < 32) ∧
    Met [caseD .capgive sigCapgive ⟨0, 2, 3, 0, 0, 0⟩ id] (fun s _ _ => s.outstanding s.cur < 32) :=
  ⟨met _ (by decide +kernel), met _ (by decide +kernel), met _ (by decide +kernel), met _ (by decide +kernel)⟩

/-- A machine with every unit ready and cores 0 and 1 in one launch. -/
def twoCores (s : State) : State :=
  let s := (launched s).setCore 1 { Core.unlisted 1 with run := .running, launch := some 0, part := 0x0005_0000_0000_0001 }
  { s with bar0 := [(0, 0xFFFF_FFFF_FFFF_FFFF), (8, 0xFFFF_FFFF_FFFF_FFFF), (0x10, 0xFFFF_FFFF_FFFF_FFFF)] }

/-- A load, a store and an atomic of core 0 to the last doubleword of core 1's slice. -/
def nearReq (op : ReqOp) (writes : Bool) : Req := { ownStore with op := op, ea := 0x7_FFF8, writes := writes }

/-- The machine of a near request of core 0. -/
def nearState (x : ReqOp × Bool) : State :=
  let s := twoCores (placed .nop id)
  { s.setCore 1 { s.core 1 with sliceQueue := [0] } with reqs := [(0, nearReq x.1 x.2)] }

/-- A request at the slice of core 1 that passes every check there. -/
def servable (s : State) (r : Req) (off : Nat) : Bool :=
  s.req 0 == some r && s.reqs.all (fun e => e.2 == r) && r.client == .core && r.stage == .sent && r.near && !s.drops (s.pidOf r.core) &&
    nearPlace r.core r.ea == .slice 1 off && decide (max (s.core 1).sliceFree (s.core 1).fetchFree ≤ s.now) && (s.core 1).sliceQueue == [0] && s.sharesRange r.core 1 && s.ready (r.core / 1024) (.slice 1 off)

theorem atSlice_of {s : State} {r : Req} {off : Nat} (h : servable s r off = true) : s.AtSlice 0 r 1 off := by
  simp only [servable, Bool.and_eq_true, beq_iff_eq, Bool.not_eq_true', decide_eq_true_eq, List.all_eq_true] at h
  obtain ⟨⟨⟨⟨⟨⟨⟨⟨⟨⟨h1, ho⟩, hc⟩, h2⟩, h3⟩, h4⟩, h5⟩, h6⟩, h7⟩, h8⟩, h9⟩ := h
  exact ⟨h1, fun e he _ => ho e he, hc, h2, h3, h4, h5, h6, h7, h8, h9⟩

theorem witness_Destinations_near : ∀ x ∈ [(ReqOp.load 8 false, false), (ReqOp.store 8 5, true), (ReqOp.amo 7 8 true 1 2, true)],
    (nearState x).AtSlice 0 (nearReq x.1 x.2) 1 0x3_FFF8 ∧ (nearState x).Passes (nearReq x.1 x.2) 1 0x3_FFF8 := fun x hx =>
  have h := List.all_eq_true.mp (show [(ReqOp.load 8 false, false), (ReqOp.store 8 5, true), (ReqOp.amo 7 8 true 1 2, true)].all (fun x =>
      servable (nearState x) (nearReq x.1 x.2) 0x3_FFF8 && decide (∀ i < x.1.size, ((nearState x).core 1).accessible 62 (0x3_FFF8 + i) = true ∧
        ((nearState x).core 1).accessible 61 (0x3_FFF8 + i) = true) &&
        ((nearState x).capability (nearReq x.1 x.2) (sliceKey 1 0x3_FFF8)
          ((nearState x).granuleLeaf 1 ((nearState x).vfOf (nearReq x.1 x.2).core) (.slice 1 0x3_FFF8) 0)).isNone &&
        ((nearState x).badData (nearReq x.1 x.2) (sliceKey 1 0x3_FFF8)).isNone) = true by decide +kernel) x hx
  by
    simp only [Bool.and_eq_true, decide_eq_true_eq, Option.isNone_iff_eq_none] at h
    obtain ⟨⟨⟨h1, h2⟩, h3⟩, h4⟩ := h
    exact ⟨atSlice_of h1, ⟨fun _ i hi => (h2 i hi).1, fun _ i hi => (h2 i hi).2, h3, h4⟩⟩

/-- The machine of a near store to a slice of which no byte may be written. -/
def guarded : State :=
  let s := nearState (.store 8 5, true)
  s.setCore 1 { s.core 1 with prot := (s.core 1).prot.set 0 0xD003_FFFF_0000_0000 }

theorem witness_Destinations_refused : guarded.AtSlice 0 (nearReq (.store 8 5) true) 1 0x3_FFF8 ∧
    ∃ i < 8, (guarded.core 1).accessible 61 (0x3_FFF8 + i) = false := ⟨atSlice_of (by decide +kernel), 0, by decide +kernel⟩

/-- A release that waits for a write acknowledged since. -/
def releasing : State := { nearState (.load 8 false, false) with reqs := [(1, { ownStore with release := some 1, stage := .atInterface [0] })] }

theorem witness_Destinations_release : ∃ r, releasing.req 1 = some r ∧ r.stage = .atInterface [0] ∧ r.release = some 1 ∧ releasing.req 0 = none ∧
    (releasing.core r.core).ranges.all (fun g => !g.drain) = true := ⟨{ ownStore with release := some 1, stage := .atInterface [0] }, by decide +kernel⟩

/-- A machine in which pages 1 of HBM and of host memory translate to frame 7 for the function of core 0, with every right, at its interfaces. -/
def mapped (r : Req) : State :=
  let leaf : Word := 0x9800_0000_0000_0000
  { twoCores (placed .nop id) with
    reqs := [(0, r)]
    tcache := [⟨ifaceOf 0 (.hbm 0x1_0000), 0, 0, true, 1, leaf + 1⟩, ⟨ifaceOf 0 (.hbm 0x1_0000), 0, 0, false, 1, leaf + 7⟩,
      ⟨8704, 0, 2, true, 1, leaf + 1⟩, ⟨8704, 0, 2, false, 1, leaf + 7⟩] }

/-- A request of core 0 to HBM at 0x1_0000. -/
def hbmReq (op : ReqOp) : Req := { ownStore with op := op, near := false, ea := 0x1_0000, writes := false }

theorem witness_Destinations_handover : ∃ r, (mapped { hbmReq (.capgive 3) with stage := .handing (hbmKey 0x7_0000) }).req 0 = some r ∧ r.op = .capgive 3 ∧
    r.stage = .handing (hbmKey 0x7_0000) ∧ r.near = false := ⟨{ hbmReq (.capgive 3) with stage := .handing (hbmKey 0x7_0000) }, by decide +kernel⟩

/-- A read of host memory by core 0, at the host. -/
def hostReq : Req := { hbmReq (.load 8 false) with ea := 0xE000_0000_0001_0038, stage := .atHost (hostKey 0x7_0038) }

theorem witness_Destinations_host : (mapped hostReq).req 0 = some hostReq ∧ (∀ e ∈ (mapped hostReq).reqs, e.1 = 0 → e.2 = hostReq) ∧
    hostReq.stage = .atHost (hostKey 0x7_0038) ∧ hostReq.near = false ∧ hostKey 0 ≤ hostKey 0x7_0038 ∧ hostKey 0x7_0038 % 64 + 8 ≤ 64 ∧
    (mapped hostReq).reqs.map (·.2.stage) = [.atHost (hostKey 0x7_0038)] := by decide +kernel

/-- A machine whose partition has used its budget of 4096 bytes of stack 0 in the first interval, with a read at that stack. -/
def budgeted (held : List Nat) : State :=
  { (mapped (hbmReq (.load 8 false))).setPage 0 0x18 1 with budgetUsed := [(128 * (channelOf 0x1_0000 / 32), 4096)], budgetHeld := held }

theorem witness_Destinations_budget : let s := budgeted []
    s.req 0 = some (hbmReq (.load 8 false)) ∧ (hbmReq (.load 8 false)).stage = .sent ∧ s.drops (s.pidFor (hbmReq (.load 8 false))) = false ∧
      s.placeOf (hbmReq (.load 8 false)) = .hbm 0x1_0000 ∧ s.partOf (s.core 0) = some 0 ∧ 0 ∉ s.budgetHeld ∧ 4096 * bitsOf (s.page 0 0x18) 31 0 = 4096 ∧
      s.now / (1000 * tickUnits) = s.budgetEpoch ∧ SMap.get (fun _ => 0) s.budgetUsed (128 * (channelOf 0x1_0000 / 32) + 0) = 4096 ∧ (budgeted [0]).budgetHeld = [0] := by decide +kernel

/-- A request over a link. -/
def onLink : State := { nearState (.load 8 false, false) with reqs := [(4, { hbmReq (.load 8 false) with stage := .onLink 100 })] }

theorem witness_Destinations_link : ∃ r, onLink.req 4 = some r ∧ r.stage = .onLink 100 ∧ r.near = false := ⟨{ hbmReq (.load 8 false) with stage := .onLink 100 }, by decide +kernel⟩

/-! ### Responses, results and messages -/

/-- A load of core 0 into g1, answered. -/
def answered (a : Answer) : State :=
  let s := placed .nop (fun c => { c with var := [⟨0, .req 9, [.glob 0], [], [], false⟩], varNext := 1 })
  { s with reqs := [(9, { hbmReq (.load 8 false) with result := some 0, dst := some (.glob 0), stage := .answered a })] }

theorem witness_Responses : ∀ a ∈ [Answer.ok 77 0, .fail 0x0A 0x03], ∃ r, (answered a).req 9 = some r ∧ r.client = .core ∧ r.stage = .answered a ∧
    ((answered a).core r.core).run = .running := fun a ha =>
  ⟨{ hbmReq (.load 8 false) with result := some 0, dst := some (.glob 0), stage := .answered a }, by
    simp only [List.mem_cons, List.not_mem_nil, or_false] at ha
    rcases ha with rfl | rfl <;> decide +kernel⟩

/-- A core with a quotient due. -/
def dueResult : State := placed .nop (fun c => { c with var := [⟨0, .at 0, [.glob 0], [], [.gen (some (.glob 0)) 5], false⟩], varNext := 1 })

theorem witness_Results_due : ∃ v : VarResult, (dueResult.core 0).var.find? (fun v => v.id = 0 && v.arrived dueResult.now) = some v ∧ v.source = .at 0 :=
  ⟨⟨0, .at 0, [.glob 0], [], [.gen (some (.glob 0)) 5], false⟩, by decide +kernel⟩

/-- A message for core 0, which holds 63 or 64. -/
def mailed (n : Nat) : State :=
  let s := placed .nop (fun c => { c with inbox := List.replicate n ⟨1, 0, 0, 7, 9⟩ })
  { s with mail := [(2, ⟨0, 5, ⟨1, 0, 0, 7, 9⟩, false⟩)] }

theorem witness_Messages : (SMap.find (mailed 63).mail 2 = some ⟨0, 5, ⟨1, 0, 0, 7, 9⟩, false⟩ ∧ ((mailed 63).core 0).inbox.length = 63) ∧
    (mailed 63).mail.any (fun e => decide (e.1 < 2) && decide (e.2.core = 0) && decide (e.2.sender = 5)) = false ∧ ((mailed 64).core 0).inbox.length = 64 := by decide +kernel

/-- A core asleep at a WAITA whose withdrawal has reached its monitor, with or without an interrupt. -/
def withdrawing (irq : Bool) : State :=
  let s := placed .nop (fun c => { c with run := .sleeping (.waita 3 true), stat := if irq then 0x40 else 0, tcmp := if irq then 1 else 0 })
  { s with reqs := [(3, { hbmReq (.waita 8 false 0) with withdrawn := true, stage := .armed (hbmKey 0x7_0000) 0 })] }

theorem witness_Withdrawal : ∀ irq ∈ [true, false], ∃ r, ((withdrawing irq).core (withdrawing irq).cur).run = .sleeping (.waita 3 true) ∧ (withdrawing irq).req 3 = some r ∧
    r.withdrawn = true ∧ r.stage = .armed (hbmKey 0x7_0000) 0 ∧ (withdrawing irq).forcedStop (withdrawing irq).cur = false ∧
    ((withdrawing irq).core (withdrawing irq).cur).interrupt.isSome = irq := fun irq hi =>
  ⟨{ hbmReq (.waita 8 false 0) with withdrawn := true, stage := .armed (hbmKey 0x7_0000) 0 }, by
    simp only [List.mem_cons, List.not_mem_nil, or_false] at hi
    rcases hi with rfl | rfl <;> decide +kernel⟩

/-! ### Exchange -/

/-- A core in an exchange phase, whose route is every core of its super-group. -/
def routed (c : Core) : Core := { phased c with routeMask := 0xFFFF_FFFF_FFFF_FFFF, phase := some 0 }

theorem witness_Exchange : Issued [caseH .send sigSend ⟨2, 0, 7⟩ routed, caseI .recv sigRecv ⟨1, 0, 7⟩ routed, caseI .recvm sigRecvm ⟨1, 0, 0x3F⟩ routed,
      ⟨.muxsel ⟨0, 2, 15⟩, sigMuxsel, opndI ⟨0, 2, 15⟩, routed, launched⟩] ∧
    Met [⟨.muxsel ⟨0, 2, 0xFFFFF⟩, sigMuxsel, opndI ⟨0, 2, 0xFFFFF⟩, routed, launched⟩, ⟨.muxsel ⟨0, 2, 16⟩, sigMuxsel, opndI ⟨0, 2, 16⟩, routed, launched⟩]
      (fun s t _ => (s.coreAt t).hm = false) :=
  ⟨issued (by decide +kernel), met _ (by decide +kernel)⟩

theorem witness_Exchange_route : Met [⟨.muxsel ⟨0, 2, 0⟩, sigMuxsel, opndI ⟨0, 2, 0⟩, fun c => regs [(2, 0x8000_0000_0000_0001)] (routed c), launched⟩]
    (fun s _ _ => ∀ i ∈ [0, 63], s.sharesRange s.cur i = true) := met _ (by decide +kernel)

theorem witness_Exchange_word : SMap.find ({ State.reset with xwords := [(3, ⟨65, 7, 2, 99, 500⟩)] } : State).xwords 3 = some ⟨65, 7, 2, 99, 500⟩ := by decide

end Sys2Proof.Tests
end

