-- ==== Sys2Proof/Tests/WitnessEngines.lean ====
section
/-! SUPPORT. Witnesses: states that meet the hypotheses of the statements about the matrix engine and the copy unit. -/

namespace Sys2Proof.Tests

open Sys2Proof.Machine

set_option Elab.async false

/-! ### The matrix engine -/

/-- A machine whose slice 0 of pod 0 holds slot 255, with slot 0 another slice's. -/
def claimed (s : State) : State := s.setMatrix 0 { Matrix.empty with slots := [(0, ⟨some 3, false⟩), (255, ⟨some 0, false⟩)] }

/-- A machine whose pod 0 has no free slot. -/
def filled (s : State) : State := s.setMatrix 0 { Matrix.empty with slots := (List.range 256).map (fun k => (k, ⟨some 1, false⟩)) }

/-- A machine in which core 0 has eight commands queued. -/
def queued (s : State) : State :=
  s.setMatrix 0 { Matrix.empty with cmds := (List.range 8).map (fun k => (k, ⟨0, .zero 0, false, false, 0, none, 0, none⟩)), nextCmd := 8, slots := [(255, ⟨some 0, false⟩)] }

theorem witness_Matrix_claims : Issued [caseW .mgeo sigMgeo ⟨1, 2, 0, 0, 0⟩ id] ∧
    (∃ t o, (filled (placed (.mclaim ⟨1, 0, 0, 0, 0⟩) id)).Issues sigMclaim (opndW ⟨1, 0, 0, 0, 0⟩) t o ∧ ∀ i, ¬ ((filled (placed (.mclaim ⟨1, 0, 0, 0, 0⟩) id)).matrix 0).FreeAt 1 i) ∧
    Met [⟨.mclaim ⟨1, 0, 0, 0, 1⟩, sigMclaim, opndW ⟨1, 0, 0, 0, 1⟩, id, claimed⟩]
      (fun s _ _ => (1 + 2 ≤ 256 ∧ ∀ j < 2, ((s.matrix s.curPod).slot (1 + j)).claim = none) ∧ ∀ j < 1, ¬ (j + 2 ≤ 256 ∧ ∀ k < 2, ((s.matrix s.curPod).slot (j + k)).claim = none)) := by
  refine ⟨issued (by decide +kernel), ?_, met _ (by decide +kernel)⟩
  obtain ⟨t, o, h, -, -⟩ := issues_of_meets (s := filled (placed (.mclaim ⟨1, 0, 0, 0, 0⟩) id)) (g := sigMclaim) (raw := opndW ⟨1, 0, 0, 0, 0⟩) (fun _ _ => True) (by decide +kernel)
  refine ⟨t, o, h, fun i hi => ?_⟩
  have all : ∀ k < 256, (((filled (placed (.mclaim ⟨1, 0, 0, 0, 0⟩) id)).matrix 0).slot k).claim = some 1 := by decide +kernel
  have h0 := hi.2 0 (by decide)
  rw [Nat.add_zero, all i (by have := hi.1; omega)] at h0
  cases h0

theorem witness_Matrix_releases : Met [⟨.mrel ⟨0, 2, 0, 0, 1⟩, sigMrel, opndW ⟨0, 2, 0, 0, 1⟩, regs [(2, 255)], claimed⟩,
      ⟨.mrel ⟨0, 2, 0, 0, 0⟩, sigMrel, opndW ⟨0, 2, 0, 0, 0⟩, regs [(2, 0x100)], claimed⟩]
      (fun s t o => (bitsOf ((s.coreAt t).readG o.a) 63 8 ≠ 0 ∨ 256 < bitsOf ((s.coreAt t).readG o.a) 7 0 + (o.m.toNat + 1)) ∧ (s.coreAt t).hm = false) ∧
    Met [⟨.mrel ⟨0, 2, 0, 0, 0⟩, sigMrel, opndW ⟨0, 2, 0, 0, 0⟩, regs [(2, 255)], claimed⟩]
      (fun s t o => bitsOf ((s.coreAt t).readG o.a) 63 8 = 0 ∧ ((s.matrix s.curPod).slot (bitsOf ((s.coreAt t).readG o.a) 7 0)).claim = some (s.cur % 8) ∧
        s.boarded s.curPod none (bitsOf ((s.coreAt t).readG o.a) 7 0) = false ∧ s.queueFull = false) ∧
    Met [⟨.mrel ⟨0, 2, 0, 0, 0⟩, sigMrel, opndW ⟨0, 2, 0, 0, 0⟩, regs [(2, 255)], queued⟩]
      (fun s t o => bitsOf ((s.coreAt t).readG o.a) 63 8 = 0 ∧ ((s.matrix s.curPod).slot (bitsOf ((s.coreAt t).readG o.a) 7 0)).claim = some (s.cur % 8) ∧
        s.boarded s.curPod none (bitsOf ((s.coreAt t).readG o.a) 7 0) = false ∧ s.queueFull = true) ∧
    Met [caseW .mzero sigMzero ⟨0, 0, 0, 0, 3⟩ id] (fun s _ _ => s.queueFull = false) :=
  ⟨met _ (by decide +kernel), met _ (by decide +kernel), met _ (by decide +kernel), met _ (by decide +kernel)⟩

/-- A machine whose pod 0 is in one launch, with members waiting for the next gang. -/
def ganged (n : Nat) (s : State) : State :=
  let s := (List.range 7).foldl (fun s i => s.setCore (i + 1) { Core.unlisted (i + 1) with run := .running, launch := some 0, part := 0x0005_0000_0000_0000 }) (launched s)
  s.setMatrix 0 { Matrix.empty with
    slots := [(0, ⟨some 3, false⟩)], members := (List.range n).map (fun i => (i + 1, ⟨0, 0, 4, 4, 3, true⟩)) }

/-- The FMT of a gang of two formats of code 4. -/
def gangFmt : Core → Core := formatted ⟨0, 4, 4, 0, 0⟩

/-- The fault of a gang of members, if they are any. -/
def membersFault (m : Matrix) : SMap GangMember → Option Raise
  | [] => some ⟨0, 0, 0⟩
  | first :: rest => m.gangFault first.2 (rest.map Prod.snd)

theorem witness_Matrix_gangs : Met [⟨.mgang ⟨0, 2, 3, 0, 7⟩, sigMgang, opndW ⟨0, 2, 3, 0, 7⟩, gangFmt, ganged 6⟩]
      (fun s _ o => s.gangBroken s.cur = none ∧ o.m.getLsbD 2 = true ∧ s.queueFull = false ∧ SMap.find (s.matrix s.curPod).members (s.cur % 8) = none ∧
        (s.matrix s.curPod).members.length < 7) ∧
    Met [⟨.mgang ⟨0, 2, 3, 0, 7⟩, sigMgang, opndW ⟨0, 2, 3, 0, 7⟩, gangFmt, ganged 7⟩, ⟨.mgang ⟨0, 2, 3, 0, 3⟩, sigMgang, opndW ⟨0, 2, 3, 0, 3⟩, gangFmt, ganged 7⟩]
      (fun s t o => s.gangBroken s.cur = none ∧ (o.m.getLsbD 2 = true ∨ ((s.matrix s.curPod).bank (s.cur % 8) (o.m.toNat % 4)).mark = none) ∧ s.queueFull = false ∧
        SMap.find (s.matrix s.curPod).members (s.cur % 8) = none ∧ (s.matrix s.curPod).members.length = 7 ∧
        membersFault (s.matrix s.curPod) (SMap.put (s.matrix s.curPod).members (s.cur % 8)
          ⟨(s.coreAt t).readG o.a, (s.coreAt t).readG o.b, (s.coreAt t).fmtTail.a, (s.coreAt t).fmtTail.b, o.m.toNat % 4, o.m.getLsbD 2⟩) = none) :=
  ⟨met _ (by decide +kernel), met _ (by decide +kernel)⟩

/-- Moves of the whole of a slot and of half of one, in the slice, and a global one; m[2] halves the scales of a load. -/
def moves : List Case :=
  [⟨.mload ⟨1, 2, 0, 31, 0, 0⟩, sigMove 0xA02, opndD ⟨1, 2, 0, 31, 0, 0⟩, regs [(1, 255), (2, 0x3_C000)], claimed⟩,
    ⟨.mload ⟨1, 2, 0, 0, 5, 0⟩, sigMove 0xA02, opndD ⟨1, 2, 0, 0, 5, 0⟩, regs [(1, 0x1FF), (2, 0x3_C000)], claimed⟩,
    ⟨.mload ⟨1, 2, 0, 0, 2, 0⟩, sigMove 0xA02, opndD ⟨1, 2, 0, 0, 2, 0⟩, regs [(1, 255), (2, 0xE000_0000_0000_0040)], claimed⟩,
    ⟨.mstore ⟨1, 2, 0, 16, 0, 0⟩, sigMove 0xA03, opndD ⟨1, 2, 0, 16, 0, 0⟩, regs [(1, 255), (2, 0x3_C000)], claimed⟩,
    ⟨.mstore ⟨1, 2, 0, 0, 3, 0⟩, sigMove 0xA03, opndD ⟨1, 2, 0, 0, 3, 0⟩, regs [(1, 255), (2, 0xE000_0000_0000_0040)], claimed⟩]

/-- The image of a move that is local lies within the slice and its rights, read or written. -/
def imageIn (c : Core) (o : Opnd) (bit : Nat) : Bool :=
  (List.range (imageLength (!o.m.getLsbD 0) (o.m.getLsbD 2))).all (fun i => decide ((c.eaD o).toNat + i < 262144) && c.accessible bit ((c.eaD o).toNat + i))

/-- The conditions of a move that enters the queue. -/
abbrev MoveMay (bit : Nat) (s : State) (t : Nat) (o : Opnd) : Prop :=
  64 ∣ ((s.coreAt t).eaD o).toNat ∧ (o.m.getLsbD 1 = true ∨ imageIn (s.coreAt t) o bit = true) ∧
    bitsOf ((s.coreAt t).readG o.d) 63 9 = 0 ∧ (o.m.getLsbD 0 = false → ((s.coreAt t).readG o.d).getLsbD 8 = false) ∧
    ((s.matrix s.curPod).slot (bitsOf ((s.coreAt t).readG o.d) 7 0)).claim = some (s.cur % 8) ∧
    s.boarded s.curPod none (bitsOf ((s.coreAt t).readG o.d) 7 0) = false ∧ s.queueFull = false ∧ (s.coreAt t).ranges.length < 16

theorem witness_Matrix_moves : Met (moves.take 3) (MoveMay 62) ∧ Met (moves.drop 3) (MoveMay 61) := ⟨met _ (by decide +kernel), met _ (by decide +kernel)⟩

theorem witness_Matrix_move_faults : Met [⟨.mload ⟨1, 2, 0, 0, 2, 0⟩, sigMove 0xA02, opndD ⟨1, 2, 0, 0, 2, 0⟩, regs [(1, 0x100)], claimed⟩,
      ⟨.mstore ⟨1, 2, 0, 0, 2, 0⟩, sigMove 0xA03, opndD ⟨1, 2, 0, 0, 2, 0⟩, regs [(1, 0x200)], claimed⟩]
      (fun s t o => 64 ∣ ((s.coreAt t).eaD o).toNat ∧ (bitsOf ((s.coreAt t).readG o.d) 63 9 ≠ 0 ∨ ((!o.m.getLsbD 0) = true ∧ ((s.coreAt t).readG o.d).getLsbD 8 = true)) ∧
        (s.coreAt t).hm = false) ∧
    Met [⟨.mload ⟨1, 2, 0, 0, 2, 0⟩, sigMove 0xA02, opndD ⟨1, 2, 0, 0, 2, 0⟩, regs [(1, 1)], claimed⟩,
      ⟨.mstore ⟨1, 2, 0, 0, 2, 0⟩, sigMove 0xA03, opndD ⟨1, 2, 0, 0, 2, 0⟩, regs [(1, 1)], claimed⟩]
      (fun s t o => 64 ∣ ((s.coreAt t).eaD o).toNat ∧ ((s.matrix s.curPod).slot (bitsOf ((s.coreAt t).readG o.d) 7 0)).claim = none ∧ (s.coreAt t).hm = false) ∧
    Met [⟨.mload ⟨1, 2, 0, 0, 2, 0⟩, sigMove 0xA02, opndD ⟨1, 2, 0, 0, 2, 0⟩, id, claimed⟩, ⟨.mstore ⟨1, 2, 0, 0, 2, 0⟩, sigMove 0xA03, opndD ⟨1, 2, 0, 0, 2, 0⟩, id, claimed⟩]
      (fun s t o => 64 ∣ ((s.coreAt t).eaD o).toNat ∧ ((s.matrix s.curPod).slot (bitsOf ((s.coreAt t).readG o.d) 7 0)).claim = some 3 ∧ 3 ≠ s.cur % 8 ∧ (s.coreAt t).hm = false) :=
  ⟨met _ (by decide +kernel), met _ (by decide +kernel), met _ (by decide +kernel)⟩

/-- The address, the stride, the mask and the rows of a drain. -/
def drainOf (c : Core) (o : Opnd) : List (Nat × Nat) :=
  drainRuns (o.m.toNat / 4 % 8) (c.eaD o).toNat (c.readG o.b) (if o.c = 0 then 64 else min 64 (bitsOf (c.readG o.c) 22 16))
    (if o.c = 0 then 0xFFFF else bitsOf (c.readG o.c) 15 0) (c.readG o.d).toNat

theorem witness_Matrix_drains : Met [caseD .mdrain sigMdrain ⟨0, 2, 3, 4, 0x20, 1⟩ (regs [(3, 4)])] (fun s t o => ¬ (4 ∣ ((s.coreAt t).eaD o).toNat ∧ 4 ∣ ((s.coreAt t).readG o.b).toNat) ∧ (s.coreAt t).hm = false) ∧
    Met [caseD .mdrain sigMdrain ⟨0, 2, 3, 0, 0, 0⟩ (regs [(3, 64)]), caseD .mdrain sigMdrain ⟨5, 2, 3, 4, 0x2B, 0⟩ (regs [(3, 0xFFFF_FFFF_FFFF_FFF0), (2, 0x3_FFF0), (4, 0x3_FFFF), (5, 0)])]
      (fun s t o => drainWidth (o.m.toNat / 4 % 8) ∣ ((s.coreAt t).eaD o).toNat ∧ drainWidth (o.m.toNat / 4 % 8) ∣ ((s.coreAt t).readG o.b).toNat ∧
        (∀ r ∈ drainOf (s.coreAt t) o, ∀ i < r.2, r.1 + i < 262144 ∧ (s.coreAt t).accessible 61 (r.1 + i) = true) ∧
        ((s.matrix s.curPod).bank (s.cur % 8) (o.m.toNat % 4)).mark = none ∧ s.queueFull = false ∧ (s.coreAt t).ranges.length < 16) :=
  ⟨met _ (by decide +kernel), met _ (by decide +kernel)⟩

/-- A machine at a matrix edge, with one command of core 1 in the queue of pod 0. -/
def commanded (kind : MatKind) (accepted : Bool) : State :=
  ({ State.reset with now := tickUnits } : State).setMatrix 0 { Matrix.empty with
    cmds := [(5, ⟨1, kind, accepted, accepted, 0, if accepted then some tickUnits else none, 0, none⟩)], nextCmd := 6 }

theorem witness_Commands_accept : ((commanded (.rel 255 1) false).matrix 0).members = [] ∧
    (∀ e ∈ ((commanded (.rel 255 1) false).matrix 0).cmds, ∀ k, e.2.kind ≠ .zero k) ∧
    ((commanded (.rel 255 1) false).matrix 0).cmds.find? (fun e => !e.2.accepted) = some (5, ⟨1, .rel 255 1, false, false, 0, none, 0, none⟩) ∧
    (MatKind.rel 255 1).isGang = false ∧ (commanded (.rel 255 1) false).matEdgeAfter 0 0 ≤ (commanded (.rel 255 1) false).now :=
  ⟨by decide +kernel, fun e he k => by
    rw [show ((commanded (.rel 255 1) false).matrix 0).cmds = [(5, ⟨1, .rel 255 1, false, false, 0, none, 0, none⟩)] by decide +kernel] at he
    simp only [List.mem_cons, List.not_mem_nil, or_false] at he
    subst he
    simp, by decide +kernel⟩

/-- A gang of formats of code 4 on bank 3 of each slice, from zero in slice 0 alone. -/
def gangKind : MatKind := .gang 4 4 255 1 0 ((3, true) :: List.replicate 7 (3, false))

theorem witness_Commands_gang : ((commanded gangKind true).matrix 0).cmds.find? (fun e => e.2.kind.isGang && e.2.started && (match e.2.due with | some d => decide (d ≤ (commanded gangKind true).now) | none => false)) =
      some (5, ⟨1, gangKind, true, true, 0, some tickUnits, 0, none⟩) ∧ (Fmt.ofCode 4).any (fun A => ((commanded gangKind true).gangBadSlot 0 A A 255 1 0).isNone) = true ∧
    (∀ x ∈ (3, true) :: List.replicate 7 (3, false), x.1 < 4) ∧ ∀ sl < 8, (commanded gangKind true).opBad (bankKey 0 sl 3) 4096 = false := by decide +kernel

theorem witness_Commands_moves : ∀ x ∈ [(true, true, 0, true), (true, false, 1, false), (false, true, 0, false), (false, false, 1, false)],
    let s := commanded (.move x.1 255 x.2.2.1 x.2.1 x.2.2.2 false 0x3_C000 (some 15)) true
    SMap.find (s.matrix 0).cmds 5 = some ⟨1, .move x.1 255 x.2.2.1 x.2.1 x.2.2.2 false 0x3_C000 (some 15), true, true, 0, some tickUnits, 0, none⟩ ∧ tickUnits ≤ s.now ∧ x.2.2.1 < 2 ∧
      (x.2.1 = true → x.2.2.1 = 0) ∧ 0x3_C000 + imageLength x.2.1 x.2.2.2 ≤ 262144 ∧ s.badIn (sliceKey 1 0x3_C000) (imageLength x.2.1 x.2.2.2) = none := by decide +kernel

theorem witness_Commands_drain : SMap.find ((commanded (.drain 3 0 false 64 64 64 0xFFFF 0) true).matrix 0).cmds 5 =
      some ⟨1, .drain 3 0 false 64 64 64 0xFFFF 0, true, true, 0, some tickUnits, 0, none⟩ ∧ tickUnits ≤ (commanded (.drain 3 0 false 64 64 64 0xFFFF 0) true).now ∧
    (commanded (.drain 3 0 false 64 64 64 0xFFFF 0) true).opBad (bankKey 0 1 3) 4096 = false ∧
    ∀ x ∈ (commanded (.drain 3 0 false 64 64 64 0xFFFF 0) true).drainStores 0 1 3 64 64 64 0xFFFF, x.1 + 4 ≤ 262144 := by decide +kernel

theorem witness_Commands_free : SMap.find ((commanded (.rel 255 1) true).matrix 0).cmds 5 = some ⟨1, .rel 255 1, true, true, 0, some tickUnits, 0, none⟩ := by decide +kernel

/-! ### The copy unit -/

/-- The order of a COPY of core 5, of a form, with 16 bytes from 0x1_0000 to 0x1_0100 of HBM. -/
def order (form : Nat) (bytes : List (Nat × Byte)) : CopyOrder :=
  let desc := (List.range 64).map (fun i => match SMap.find bytes i with | some x => x | none => if i = 2 ∨ i = 10 ∨ i = 9 then 1 else if i = 16 then 16 else 0)
  ⟨5, desc, form, 15, true, false, false, some (.glob 0), 0⟩

/-- A job of an order, at a stage, that has nothing left to send. -/
def jobOf (o : CopyOrder) (stage : CopyStage) : CopyJob :=
  ⟨o, 0, stage, true, none, 0, [], [], [], 0, 0, 0, false, none, none, 0, false, none, []⟩

/-- A machine at a memory edge whose unit of pod 0 has the given entries, with core 5 asleep at its COPY or running. -/
def copying (entries : SMap CopyEntry) (waiting : List CopyOrder) : State :=
  let s := ({ State.reset with now := tickUnits, bar0 := [(0, 0xFFFF_FFFF_FFFF_FFFF), (8, 0xFFFF_FFFF_FFFF_FFFF), (0x10, 0xFFFF_FFFF_FFFF_FFFF)] } : State).setCore 5
    { Core.unlisted 5 with run := if waiting.isEmpty then .running else .sleeping .copy }
  s.setCopyUnit 0 { CopyUnit.empty with entries := entries, waiting := waiting }

theorem witness_Copy_instructions : ∃ (s : State) (t : Nat) (o : Opnd), s.Issues sigCopy (opndD ⟨1, 2, 0, 31, 8, 0⟩) t o ∧
    s.MayAccess t false 64 [(((s.coreAt t).addressD o ⟨1, 2, 0, 31, 8, 0⟩).toNat, 64)] :=
  let s := placed (.copy ⟨1, 2, 0, 31, 8, 0⟩) (regs [(2, 0x3_FFC0)])
  let ⟨t, o, h, _, ha⟩ := issues_of_meets (s := s) (g := sigCopy) (raw := opndD ⟨1, 2, 0, 31, 8, 0⟩)
    (fun t o => accessOk s t false 64 [(((s.coreAt t).addressD o ⟨1, 2, 0, 31, 8, 0⟩).toNat, 64)] = true) (by decide +kernel)
  ⟨s, t, o, h, mayAccess_of ha⟩

/-- A machine whose entry 63 of pod 0 holds a job of generation 7, or is free after one of generation 6. -/
def tested (busy : Bool) (s : State) : State :=
  s.setCopyUnit 0 { CopyUnit.empty with entries := [(63, ⟨7, 0x19, if busy then some (jobOf (order 0 []) .active) else none⟩)] }

theorem witness_Copy_tests : Met [⟨.jwait ⟨1, 2, 0, 0, 0⟩, sigJtest 0xB02, opndW ⟨1, 2, 0, 0, 0⟩, regs [(2, 0x73F)], tested true⟩] (fun s t o => (s.copyUnit s.curPod).test ((s.coreAt t).readG o.a) = 0) ∧
    Met [⟨.jtest ⟨1, 2, 0, 0, 0⟩, sigJtest 0xB01, opndW ⟨1, 2, 0, 0, 0⟩, regs [(2, 0x73F)], tested true⟩] (fun s t o => (s.copyUnit s.curPod).test ((s.coreAt t).readG o.a) = 0) ∧
    Met [⟨.jtest ⟨1, 2, 0, 0, 0⟩, sigJtest 0xB01, opndW ⟨1, 2, 0, 0, 0⟩, regs [(2, 0x63F)], tested false⟩, ⟨.jwait ⟨1, 2, 0, 0, 0⟩, sigJtest 0xB02, opndW ⟨1, 2, 0, 0, 0⟩, regs [(2, 0x63F)], tested false⟩]
      (fun s t o => (s.copyUnit s.curPod).test ((s.coreAt t).readG o.a) = 0x1901) :=
  ⟨met _ (by decide +kernel), met _ (by decide +kernel), met _ (by decide +kernel)⟩

/-- A unit with a COPY waiting and the entries below one in use. -/
def accepting (e : Nat) : State := copying ((List.range e).map (fun k => (k, ⟨0, 0, some (jobOf (order 0 []) .queued)⟩))) [order 0 []]

theorem witness_Copy_accept : ∀ e ∈ [0, 63], let s := accepting e
    let u := s.copyUnit 0
    (∀ q ∈ u.jobs, q.2.recorded = true) ∧ (u.entry e).job = none ∧ (∀ k < e, (u.entry k).job ≠ none) ∧
      cyclicFirst 8 u.aptr (fun i => u.waiting.any (fun o => o.core % 8 = i)) = some 5 ∧ u.waiting.find? (fun o => o.core % 8 = 5) = some (order 0 []) ∧
      (s.core 5).ranges.length + (s.copyRanges (order 0 []) e).length ≤ 16 ∧ (s.core 5).run = .sleeping .copy ∧ s.partOf (s.core 5) = none ∧
      ((s.core 5).advance (s.lastHead 5)).back = false := by decide +kernel

/-- A job that passes its check, and one whose descriptor sets a byte its form does not use. -/
def starts : List (CopyOrder × Option Byte) := [(order 0 [], none), (order 0 [(63, 1)], some 0x01)]

theorem witness_Copy_start : ∀ x ∈ starts, let s := copying [(63, ⟨0, 0, some (jobOf x.1 .queued)⟩)] []
    let u := s.copyUnit 0
    (u.entries.map Prod.fst).Pairwise (· < ·) ∧ (∀ q ∈ u.jobs, q.2.stage = .queued) ∧ u.active < 4 ∧ s.copyHeld 0 < 8 ∧ s.podStopping 0 = false ∧
      s.nextJob 0 = some (5, 63, jobOf x.1 .queued) ∧ s.copyRegion x.1 = none ∧ s.copyError x.1 = x.2 := by decide +kernel

/-- A job with a piece whose data has arrived, one with a read still out, and one with a write out. -/
def pieceJob (ready : List Nat) (left : Nat) : CopyJob := { jobOf (order 0 []) .active with ready := ready, pieces := [(3, ⟨0x1_0100, 16, 7, left⟩)], out := 1 }

theorem witness_Copy_request : let s := copying [(63, ⟨0, 0, some (pieceJob [3] 0)⟩)] []
    let u := s.copyUnit 0
    s.copyCredit 0 = true ∧ cyclicFirst 64 u.iptr (fun i => (u.jobs.filter (fun q => s.mayRequest q.2)).any (fun q => q.1 = i)) = some 63 ∧
      (u.entry 63).job = some (pieceJob [3] 0) ∧ badAddress false 0x1_0100 = false := by decide +kernel

/-- The machine with a response of a piece come back. -/
def pieceBack (write : Bool) (a : Answer) : State :=
  { copying [(63, ⟨0, 0, some (pieceJob [] 1)⟩)] [] with reqs := [(9, { engineReq 5 (.copy 0 63 3 8 write) (.load 8 false) 0x1_0008 write with stage := .returned a })] }

theorem witness_Copy_piece : ∀ x ∈ [(true, Answer.ok 0 4), (false, .ok 5 0), (true, .fail 0x0A 0x83), (false, .fail 0x0F 0)], let s := pieceBack x.1 x.2
    ((s.copyUnit 0).entry 63).job = some (pieceJob [] 1) ∧ SMap.find (pieceJob [] 1).pieces 3 = some ⟨0x1_0100, 16, 7, 1⟩ ∧
      s.reqs.map (fun q => (q.1, q.2.client, q.2.stage)) = [(9, .copy 0 63 3 8 x.1, .returned x.2)] ∧ s.partOf (s.core 5) = none := by decide +kernel

/-- Jobs that are complete: one that has moved its bytes, and one that failed. -/
def finished : List CopyJob := [{ jobOf (order 0 []) .active with written := 16 }, { jobOf (order 0 []) .active with failure := some (0x0A, 0x83, 2) }]

theorem witness_Copy_complete : ∀ j ∈ finished, let s := copying [(63, ⟨2 ^ 24 - 1, 0, some j⟩)] []
    ((s.copyUnit 0).entry 63).job = some j ∧ j.stage = .active ∧ j.recorded = true ∧ (∀ q ∈ (s.copyUnit 0).jobs, q.2.stage = .active) ∧ s.copyHeld 0 < 8 ∧ j.order.dcnt = false ∧
      j.region = none ∧ s.partOf (s.core 5) = none ∧ j.order.quiet = false := by decide +kernel

/-- A storage job of one block of 512 bytes, whose command has been sent, of a namespace that is set up. -/
def storageJob : CopyJob := { jobOf (order 4 [(16, 0), (17, 2), (48, 1), (49, 0)]) .active with command := true }

/-- The machine of the storage job, with page 1 of HBM translated. -/
def storing : State :=
  let s := copying [(63, ⟨0, 0, some storageJob⟩)] []
  let leaf : Word := 0x9800_0000_0000_0000
  { s with bar0 := SMap.put s.bar0 (0x400040 + 32) (2 ^ 48 + 9 * 2 ^ 32)
           tcache := [⟨ifaceOf 0 (.hbm 0x1_0100), 0, 0, true, 1, leaf + 1⟩, ⟨ifaceOf 0 (.hbm 0x1_0100), 0, 0, false, 1, leaf + 7⟩] }

theorem witness_Copy_storage : ((storing.copyUnit 0).entry 63).job = some storageJob ∧ storageJob.stage = .active ∧ storageJob.command = true ∧ storageJob.order.form = 4 ∧
    storageJob.device = none ∧ storageJob.failure = none ∧ storing.launchOf storageJob.order.core = none ∧ storing.blockSize (storageJob.order.u 48 2) = 512 ∧ 0 * 512 < storageJob.order.len ∧
    (storing.unitWrite (storageJob.order.core / 1024) (storing.vfOf storageJob.order.core) (storing.partOf (storing.core storageJob.order.core))
      (BitVec.ofNat 64 (storageJob.order.dest + 0 * 512)) 512 (leValue (List.replicate 512 1)) none (some storageJob.order.core)).1 = none := by decide +kernel

end Sys2Proof.Tests
end

