-- ==== Sys2Proof/Tests/WitnessIssue.lean ====
section
/-! SUPPORT. Witnesses: states that meet the hypotheses of the statements about the checks at issue, guards, faulting vector accesses and accesses issued again. -/

namespace Sys2Proof.Tests

open Sys2Proof.Machine

set_option Elab.async false

/-! ### Steps 5 to 7 of the checks -/

/-- The time at which the core in turn comes to its checks. -/
def checkTime (s : State) : Nat := (s.core s.cur).notPast s.now ((s.core s.cur).earliest s.now s.stallHere)

/-- An instruction of user mode that passes steps 1 to 4 of the checks, and is neither guarded nor held by the governor. -/
abbrev Checked (s : State) (g : Sig) (raw : Opnd) : Prop :=
  let c := s.core s.cur
  let o := c.stagger (g.roles raw) raw
  (c.issues && !c.holding && c.interrupt.isNone) = true ∧ c.hm = false ∧ s.lineFault s.cur = none ∧ s.prefixMisuse s.cur g.op raw.m = none ∧
    g.illegal c o = none ∧ c.xm = false ∧ opClass g.op ≠ 0x9 ∧ c.gdPending = false ∧ g.waitsFlags o = false ∧ g.misuses s (c.at (checkTime s)) o = false ∧
    c.blocks (checkTime s) (chargeOf g.op) = false ∧ 0 < c.clock.pipePeriod

/-- A core with STAT.CE set, and results on their way to g2 and g3, each early or late. -/
def undersized (due2 due3 : Nat) (c : Core) : Core :=
  { c with stat := c.stat ||| 0x100, flight := [⟨due2, .gen (some (.glob 1)) 5⟩, ⟨due3, .gen (some (.glob 2)) 5⟩] }

/-- An ADD whose first source is still in flight, and one whose second is. -/
theorem witness_ChecksInOrder_stall : ∀ x ∈ [(1000000, 0, 0), (0, 1000000, 1)],
    let s := placed (.add ⟨1, 2, 3, 0, 7⟩) (undersized x.1 x.2.1)
    let g := sigBinary 0x100 1
    let raw := opndW ⟨1, 2, 3, 0, 7⟩
    let c := s.core s.cur
    let o := c.stagger (g.roles raw) raw
    Checked s g raw ∧ c.ce = true ∧ c.var = [] ∧ g.waitsAll = false ∧ isDrainPoint g.op = false ∧ touchesMemory g.op = false ∧
      (∀ f ∈ c.flight, ∀ w ∈ g.writesOf c o, f.covers w = false) ∧
      (g.readsOf c o)[x.2.2]?.any (fun u => c.flight.any (fun f => decide (checkTime s < f.due) && f.covers u)) = true ∧
      ∀ w ∈ (g.readsOf c o).take x.2.2, ∀ f ∈ c.flight, f.covers w = true → f.due ≤ checkTime s := by decide +kernel

/-- A core that has sent a request, which has failed and is held, with the request's result pending in g2. -/
def failing (c : Core) : Core :=
  { c with held := [⟨3, some (0x0A, 0x03), false⟩], var := [⟨0, .req 3, [.glob 1], [], [], false⟩], varNext := 1 }

/-- The machine with the held request, a load into g2. -/
def withHeld (s : State) : State :=
  { s with reqs := [(3, { hbmReq (.load 8 false) with result := some 0, dst := some (.glob 1), stage := .held })], nextId := 4 }

/-- The cases in which the failed access is reported: an ADD that reads its register, an ADD that writes it, and a FENCE. -/
def reporting : List Case :=
  [⟨.add ⟨1, 2, 3, 0, 7⟩, sigBinary 0x100 1, opndW ⟨1, 2, 3, 0, 7⟩, failing, withHeld⟩,
    ⟨.add ⟨2, 1, 3, 0, 7⟩, sigBinary 0x100 1, opndW ⟨2, 1, 3, 0, 7⟩, failing, withHeld⟩,
    ⟨.fence ⟨0, 0, 0, 0, 0x38⟩, sigFence, opndW ⟨0, 0, 0, 0, 0x38⟩, failing, withHeld⟩]

theorem witness_ChecksInOrder_held : ∀ x ∈ reporting, let s := x.state
    let c := s.core s.cur
    let o := c.stagger (x.sig.roles x.raw) x.raw
    Checked s x.sig x.raw ∧ c.flight = [] ∧ (∀ v ∈ c.var, c.failedResult v = true) ∧ s.acquiring s.cur = false ∧ c.memReady ≤ s.now ∧ s.flushing s.cur = false ∧
      s.outstanding s.cur = 0 ∧ c.ranges = [] ∧ (isDrainPoint x.sig.op = true ∨ ∃ v ∈ c.var, ∃ u ∈ x.sig.readsOf c o ++ x.sig.writesOf c o, v.covers u = true) ∧
      c.held = [⟨3, some (0x0A, 0x03), false⟩] ∧ (s.req 3).isSome = true := by decide +kernel

/-- A boarding context whose counter is c9, with a bad frame of its segment. -/
def badContext (retry header : Bool) : BoardCtx := { BoardCtx.idle with layer := 0x34, counter := 9, state := 3, corrupt := true, retry := retry, bad := [(5, header)] }

/-- A WAITC of c9 beside a context of each number with a bad frame. -/
theorem witness_ChecksInOrder_corrupt : ∀ x < 2, Met [⟨.waitc ⟨1, 2, 9, 0, 0⟩, sigWaitc, opndW ⟨1, 2, 9, 0, 0⟩, id, fun s => s.setCtx x (badContext true true)⟩]
    (fun s t o => (s.coreAt t).hm = false ∧ (s.ctx (2 * s.cur + x)).counter = o.b.toNat ∧ (s.ctx (2 * s.cur + x)).corrupt = true ∧
      (s.ctx (2 * s.cur + x)).reported = false ∧
      (x = 1 → ¬ ((s.ctx (2 * s.cur)).counter = o.b.toNat ∧ (s.ctx (2 * s.cur)).corrupt = true ∧ (s.ctx (2 * s.cur)).reported = false)) ∧
      (s.ctx (2 * s.cur + x)).bad = [(5, true)]) := fun x hx => by
  have h : x = 0 ∨ x = 1 := by omega
  rcases h with rfl | rfl <;> exact met _ (by decide +kernel)

/-! ### Guards and loops -/

/-- A core with a GD pending on bit 0 of g1, which is 0, with its flag. -/
def guardedBy (flag : Bool) (c : Core) : Core := { c with stat := 3, epfx := if flag then 0x1001 else 1, runStart := some (0, 1) }

/-- A target behind a guard of each value, with nothing on its way. -/
theorem witness_Squashed_guard : ∀ flag ∈ [false, true], let s := placed (.add ⟨1, 2, 3, 0, 7⟩) (guardedBy flag)
    let g := sigBinary 0x100 1
    let raw := opndW ⟨1, 2, 3, 0, 7⟩
    let c := s.core s.cur
    c.run = .running ∧ c.gdPending = true ∧ isPrefix g.op = false ∧ c.xm = false ∧ c.ce = false ∧ c.flight = [] ∧ c.var = [] ∧ c.held = [] ∧ c.ranges = [] ∧
      c.charges = [] ∧ s.lineFault s.cur = none ∧ s.prefixMisuse s.cur g.op raw.m = none ∧ g.illegal c (c.stagger (g.roles raw) raw) = none ∧ opClass g.op ≠ 0x9 ∧
      s.outstanding s.cur = 0 ∧ s.acquiring s.cur = false ∧ s.flushing s.cur = false ∧ chargeOf g.op ≤ c.budget.toNat ∧ 1 ≤ c.budget.toNat ∧
      (((c.readG (c.epfx.extractLsb' 0 6)).getLsbD (bitsOf c.epfx 11 6) ≠ c.epfx.getLsbD 12) ↔ flag = true) := by decide +kernel

/-- The last pass of a repetition at the end of both loops. -/
theorem witness_Loops_repetition : ∃ c : Core, c.inRep = true ∧ bitsOf c.reps 34 32 ≤ bitsOf c.reps 37 35 ∧ bitsOf c.reps 63 48 = 1 ∧
    c.lc1 = 1 ∧ c.pc = c.le1 ∧ c.lc0 = 2 ∧ c.pc = c.le0 := ⟨{ Core.reset with reps := 0x0001_0009_0000_0000, lc1 := 1, lc0 := 2 }, by decide +kernel⟩

/-! ### Vector accesses that fault -/

/-- A run of an access passes the checks of a core. -/
def runGood (c : Core) (write : Bool) (align : Nat) (x : Nat × Nat) : Bool :=
  decide (align ∣ x.1) && (List.range x.2).all (fun i => decide (x.1 + i < 262144) && c.accessible (if write then 61 else 62) (x.1 + i))

/-- Run `k` of an access is the first that does not: it is misaligned, or begins outside the slice. -/
def failsAt (c : Core) (write : Bool) (align : Nat) (runs : List (Nat × Nat)) (k : Nat) : Bool :=
  (runs.take k).all (runGood c write align) && runs[k]?.any (fun x => !decide (align ∣ x.1) || decide (0 < x.2 ∧ 262144 ≤ x.1))

theorem runGood_spec {c : Core} {write : Bool} {align : Nat} {x : Nat × Nat} (h : runGood c write align x = true) :
    align ∣ x.1 ∧ ∀ i < x.2, ¬ (262144 ≤ x.1 + i ∨ c.accessible (if write then 61 else 62) (x.1 + i) = false) := by
  simp only [runGood, Bool.and_eq_true, decide_eq_true_eq, List.all_eq_true, List.mem_range] at h
  exact ⟨h.1, fun i hi => by have := h.2 i hi; rw [not_or]; exact ⟨by omega, by simp [this.2]⟩⟩

theorem runsFail_of {c : Core} {write : Bool} {align : Nat} {runs : List (Nat × Nat)} {k : Nat} (h : failsAt c write align runs k = true) :
    ∃ r, c.RunsFail write align runs r := by
  simp only [failsAt, Bool.and_eq_true, List.all_eq_true, Option.any_eq_true, Bool.or_eq_true, Bool.not_eq_true', decide_eq_false_iff_not, decide_eq_true_eq] at h
  obtain ⟨h1, x, hx, h2⟩ := h
  obtain ⟨hk, rfl⟩ := List.getElem?_eq_some_iff.mp hx
  have hr : runs = runs.take k ++ runs[k] :: runs.drop (k + 1) := by rw [← List.drop_eq_getElem_cons hk, List.take_append_drop]
  have hp := fun y hy => runGood_spec (h1 y hy)
  by_cases ha : align ∣ runs[k].1
  · have hx := h2.resolve_left (not_not.mpr ha)
    exact ⟨_, _, _, _, hr, hp, .inr ⟨ha, 0, hx.1, .inl (by omega), fun j hj => absurd hj (by omega), rfl⟩⟩
  · exact ⟨_, _, _, _, hr, hp, .inl ⟨ha, rfl⟩⟩

theorem not_runsFail_of {c : Core} {write : Bool} {align : Nat} {runs : List (Nat × Nat)} (h : runs.all (runGood c write align) = true) (r : Raise) :
    ¬ c.RunsFail write align runs r := by
  rintro ⟨pre, x, post, rfl, -, hx⟩
  have hg := runGood_spec (List.all_eq_true.mp h x (by simp))
  rcases hx with ⟨ha, -⟩ | ⟨-, i, hi, hr, -, -⟩
  · exact ha hg.1
  · exact hg.2 i hi hr

/-- A strided access whose first element is misaligned, or whose second lies outside the slice. -/
theorem witness_LocalFaults_strided : ∀ f ∈ [(Instr.ldvs, sigLdvs 0x304 .vw 5, false, (0x101 : Word), 0), (Instr.ldvs, sigLdvs 0x304 .vw 5, false, 0x3_FFF0, 1),
      (Instr.stvs, sigLdvs 0x305 .vr 0, true, 0x101, 0), (Instr.stvs, sigLdvs 0x305 .vr 0, true, 0x3_FFF0, 1)],
    ∃ (s : State) (t : Nat) (o : Opnd) (r : Raise), s.Issues f.2.1 (opndW ⟨1, 2, 3, 0, 3⟩) t o ∧ (s.coreAt t).hm = false ∧
      (s.coreAt t).RunsFail f.2.2.1 (o.mtype.width / 8) ((s.coreAt t).stridedRuns o) r := fun f hf =>
  let ⟨t, o, hi, _, h1, h2⟩ := issues_of_all (st := fun f : (TailW → Instr) × Sig × Bool × Word × Nat => placed (f.1 ⟨1, 2, 3, 0, 3⟩) (base f.2.2.2.1))
    (g := fun f => f.2.1) (raw := fun _ => opndW ⟨1, 2, 3, 0, 3⟩)
    (fun f t o => let s := placed (f.1 ⟨1, 2, 3, 0, 3⟩) (base f.2.2.2.1)
      (s.coreAt t).hm = false ∧ failsAt (s.coreAt t) f.2.2.1 (o.mtype.width / 8) ((s.coreAt t).stridedRuns o) f.2.2.2.2 = true) (by decide +kernel) f hf
  let ⟨r, hr⟩ := runsFail_of h2
  ⟨_, t, o, r, hi, h1, hr⟩

/-- A core whose g2 is a base, with two active offsets in v3. -/
def offsetting (b : Word) (c : Core) : Core := regs [(2, b)] (vecs [(3, lanesOf 32 (8 :: 16 :: List.replicate 14 0xFFFF_FFFF))] c)

/-- A gather or a scatter whose first active element is misaligned, or whose second lies outside the slice. -/
theorem witness_LocalFaults_gather : ∀ f ∈ [(Instr.vgath, sigGather 0x804 .vw 4, false, (0x101 : Word), 0), (Instr.vgath, sigGather 0x804 .vw 4, false, 0x3_FFF0, 1),
      (Instr.vscat, sigGather 0x805 .vr 0, true, 0x101, 0), (Instr.vscat, sigGather 0x805 .vr 0, true, 0x3_FFF0, 1)],
    ∃ (s : State) (t : Nat) (o : Opnd) (r : Raise), s.Issues f.2.1 (opndW ⟨1, 3, 2, 0, 3⟩) t o ∧ (s.coreAt t).hm = false ∧
      (s.coreAt t).RunsFail f.2.2.1 (o.mtype.width / 8)
        (((s.coreAt t).activeLanes o (elements o.mtype.width)).map (fun i => ((s.coreAt t).laneAddress o i, o.mtype.width / 8))) r := fun f hf =>
  let ⟨t, o, hi, _, h1, h2⟩ := issues_of_all (st := fun f : (TailW → Instr) × Sig × Bool × Word × Nat => placed (f.1 ⟨1, 3, 2, 0, 3⟩) (offsetting f.2.2.2.1))
    (g := fun f => f.2.1) (raw := fun _ => opndW ⟨1, 3, 2, 0, 3⟩)
    (fun f t o => let s := placed (f.1 ⟨1, 3, 2, 0, 3⟩) (offsetting f.2.2.2.1)
      (s.coreAt t).hm = false ∧ failsAt (s.coreAt t) f.2.2.1 (o.mtype.width / 8)
        (((s.coreAt t).activeLanes o (elements o.mtype.width)).map (fun i => ((s.coreAt t).laneAddress o i, o.mtype.width / 8))) f.2.2.2.2 = true) (by decide +kernel) f hf
  let ⟨r, hr⟩ := runsFail_of h2
  ⟨_, t, o, r, hi, h1, hr⟩

/-- The VDIST of two candidates, with a base, a query and the offset of the second candidate. -/
def distancing (x : Word × Nat) : State :=
  placed (.vdist ⟨3, 4, 2, 5, 0, 4⟩) (fun c => regs [(2, 0), (5, x.1)] (vecs [(4, lanesOf 32 (0x200 :: x.2 :: List.replicate 14 0xFFFF_FFFF))] c))

/-- A query that is misaligned, or outside the slice. -/
theorem witness_LocalFaults_query : ∀ x ∈ [((0x101 : Word), 0x300), (0x4_0000, 0x300)], ∃ (s : State) (t : Nat) (o : Opnd) (r : Raise),
    s.Issues sigVdist (opndD ⟨3, 4, 2, 5, 0, 4⟩) t o ∧ (s.coreAt t).hm = false ∧
      (s.coreAt t).RunsFail false ((s.coreAt t).dotFormats.1.width / 8) [(((s.coreAt t).readG o.c).toNat, 4 * ((s.coreAt t).dotFormats.1.width / 8))] r := fun x hx =>
  let ⟨t, o, hi, _, h1, h2⟩ := issues_of_all (st := distancing) (g := fun _ => sigVdist) (raw := fun _ => opndD ⟨3, 4, 2, 5, 0, 4⟩)
    (fun x t o => ((distancing x).coreAt t).hm = false ∧ failsAt ((distancing x).coreAt t) false (((distancing x).coreAt t).dotFormats.1.width / 8)
      [((((distancing x).coreAt t).readG o.c).toNat, 4 * (((distancing x).coreAt t).dotFormats.1.width / 8))] 0 = true) (by decide +kernel) x hx
  let ⟨r, hr⟩ := runsFail_of h2
  ⟨_, t, o, r, hi, h1, hr⟩

/-- A second candidate that is misaligned, or outside the slice, behind a good query. -/
theorem witness_LocalFaults_candidates : ∀ x ∈ [((0x100 : Word), 0x301), (0x100, 0x4_0000)], ∃ (s : State) (t : Nat) (o : Opnd) (r : Raise),
    s.Issues sigVdist (opndD ⟨3, 4, 2, 5, 0, 4⟩) t o ∧ (s.coreAt t).hm = false ∧
      (∀ y, ¬ (s.coreAt t).RunsFail false ((s.coreAt t).dotFormats.1.width / 8) [(((s.coreAt t).readG o.c).toNat, 4 * ((s.coreAt t).dotFormats.1.width / 8))] y) ∧
      (s.coreAt t).RunsFail false ((s.coreAt t).dotFormats.2.width / 8)
        (((s.coreAt t).activeLanes o 16).map (fun i => ((s.coreAt t).laneAddress o i, 4 * ((s.coreAt t).dotFormats.2.width / 8)))) r := fun x hx =>
  let ⟨t, o, hi, _, h1, h2, h3⟩ := issues_of_all (st := distancing) (g := fun _ => sigVdist) (raw := fun _ => opndD ⟨3, 4, 2, 5, 0, 4⟩)
    (fun x t o => ((distancing x).coreAt t).hm = false ∧
      ([((((distancing x).coreAt t).readG o.c).toNat, 4 * (((distancing x).coreAt t).dotFormats.1.width / 8))].all
        (runGood ((distancing x).coreAt t) false (((distancing x).coreAt t).dotFormats.1.width / 8))) = true ∧
      failsAt ((distancing x).coreAt t) false (((distancing x).coreAt t).dotFormats.2.width / 8)
        ((((distancing x).coreAt t).activeLanes o 16).map (fun i => (((distancing x).coreAt t).laneAddress o i, 4 * (((distancing x).coreAt t).dotFormats.2.width / 8)))) 1 = true)
    (by decide +kernel) x hx
  let ⟨r, hr⟩ := runsFail_of h3
  ⟨_, t, o, r, hi, h1, not_runsFail_of h2, hr⟩

/-! ### Held accesses -/

/-- An MFR.DROP of the held load that MFR reports. -/
theorem witness_ControlWrites_drop : Met [⟨.mtc ⟨0, 1, 0x35⟩, sigMtc, opndI ⟨0, 1, 0x35⟩,
      fun c => { regs [(1, 0x4000_0000_0000_0000)] (failing (handler c)) with reported := some 3 }, withHeld⟩] (fun s t o =>
    ((s.coreAt t).readG o.a).getLsbD 62 = true ∧ (s.coreAt t).reported = some 3 ∧
      (s.req 3).any (fun q => q.result == some 0 && q.dst == some (.glob 1) && q.vec == none) = true ∧ (s.coreAt t).var.map (·.id) = [0]) := met _ (by decide +kernel)

/-- A core in its handler with a load held that has failed, whose result is pending in g2, and a release behind it. -/
def returning (c : Core) : Core := let c := failing (handler c)
  { c with held := c.held ++ [⟨5, none, false⟩] }

/-- The machine with those two requests. -/
def withTwoHeld (s : State) : State := { withHeld s with reqs := (withHeld s).reqs ++ [(5, { ownStore with stage := .held })], nextId := 6 }

theorem witness_Rett_held : Met [⟨.rett, sigZ 0x009 (fun c => !c.hm), noOpnd, returning, withTwoHeld⟩] (fun s t _ =>
    s.badTarget s.cur (s.coreAt t).epc = false ∧ (∀ h ∈ (s.coreAt t).held, h.req < s.nextId ∧ (s.req h.req).all (fun q => q.core == s.cur) = true) ∧
      ((s.coreAt t).held.map (·.req)).Nodup ∧ ((s.coreAt t).held.filterMap (fun h => (s.req h.req).map (fun q => (h.req, q)))).length = 2) := met _ (by decide +kernel)

end Sys2Proof.Tests
end

