-- ==== Sys2Proof/Tests/WitnessLaunch.lean ====
section
/-! SUPPORT. Witnesses: states that meet the hypotheses of the statements about launches, barriers and interrupts. -/

namespace Sys2Proof.Tests

open Sys2Proof.Machine

set_option Elab.async false

/-! ### A container and a launch block -/

/-- A list of fields, each with its offset and size, as one little-endian number. -/
def fieldsOf (xs : List (Nat × Nat × Nat)) : Nat := xs.foldl (fun n x => n + x.2.2 % 256 ^ x.2.1 * 256 ^ x.1) 0

/-- A container of one role with an image of 64 bytes, a placement of every core of the first super-group, a boot entry and a stream of one record (R82 to R84, R199). -/
def container (record : Nat) : Nat :=
  fieldsOf [(0, 4, 0x004D594E), (4, 2, 1), (6, 2, 4),
    (64, 4, 1), (72, 8, 256), (80, 8, 128), (96, 4, 2), (104, 8, 384), (112, 8, 16), (128, 4, 3), (136, 8, 448), (144, 8, 8), (160, 4, 4), (168, 8, 512), (176, 8, 16),
    (256, 4, 0x3_FFC0), (260, 4, 0x40), (264, 4, 8), (268, 4, 16), (272, 4, 64), (320, 4, 0x11223344), (380, 4, 0x55667788),
    (388, 4, 63), (452, 1, 1), (512, 16, record)]

/-- END (R200). -/
def endRecord : Nat := 3 * 2 ^ 120

/-- A launch block of a number of cores from rank 0, with its CRC (R177). -/
def launchBlock (count : Nat) : List Byte :=
  let bs := bytesOf 124 (fieldsOf [(0, 2, 1), (8, 4, count), (12, 2, 1), (14, 2, 1), (16, 8, 0x1_0000), (56, 4, 1), (64, 2, 3), (66, 2, 0xFFFF), (120, 4, 77)])
  bs ++ bytesOf 4 (crc32c bs)

/-- A machine with every unit ready, partition 0 of PID 5, and the container at HBM 0x1_0000. -/
def held (record : Nat) : State :=
  let leaf : Word := 0x9800_0000_0000_0000
  { State.reset with
    now := tickUnits
    bar0 := [(0, 0xFFFF_FFFF_FFFF_FFFF), (8, 0xFFFF_FFFF_FFFF_FFFF), (0x10, 0xFFFF_FFFF_FFFF_FFFF)]
    parts := [(0, ⟨true, 5, 0, 1⟩)]
    mem := Memory.writeLE [] (hbmKey 0x7_0000) 528 (container record)
    tcache := (List.range 3).flatMap (fun i => [⟨8192 + channelOf (0x1_0000 + 256 * i), 0, 0, true, 1, leaf + 1⟩, ⟨8192 + channelOf (0x1_0000 + 256 * i), 0, 0, false, 1, leaf + 7⟩]) }

/-- The launch that its check makes of the block. -/
def checked (count : Nat) (record : Nat) : Launch := ((held record).checkLaunch (Launch.fresh (launchBlock count) 0 0 0 false)).2

theorem witness_Launch_good : (held endRecord).checkLaunch (Launch.fresh (launchBlock 64) 0 0 0 false) = (0, checked 64 endRecord) := by decide +kernel

/-- A machine with a valid queue of two blocks whose HEAD and TAIL are given, and in host memory the block at its second place. -/
def queueing (head tail : Nat) (block : List Byte) : State :=
  let s := held endRecord
  { s with
    bar0 := s.bar0 ++ [(0x200000, 0x1000), (0x200008, 0x5_0000_0101), (0x200010, BitVec.ofNat 64 (tail * 2 ^ 32 + head))]
    mem := Memory.writeBytes s.mem (hostKey 0x1080) block }

theorem witness_Launch_doorbell : ((queueing 0xFFFF_FFFF 0xFFFF_FFFF []).queuesOf 0)[0]? = some 0 ∧ ((queueing 0xFFFF_FFFF 0xFFFF_FFFF []).queueEntry 0).log2n = 1 ∧
    ((queueing 0xFFFF_FFFF 0xFFFF_FFFF []).queueEntry 0).head = 0xFFFF_FFFF ∧ (bitsOf (1 : Word) 31 0 + 2 ^ 32 - 0xFFFF_FFFF) % 2 ^ 32 ≤ 2 ^ 1 ∧
    2 ^ 1 < (bitsOf (2 : Word) 31 0 + 2 ^ 32 - 0xFFFF_FFFF) % 2 ^ 32 := by decide +kernel

/-- The block that a fetch reads, the partition it finds, and the machine past it. -/
def fetchCheck (s : State) : Nat × Nat :=
  let e := s.queueEntry 0
  let part := ((s.parts.find? (fun p => p.2.valid && p.2.pid == e.pid && p.2.vf == e.vf)).map Prod.fst).getD 128
  (((s.setQueue 0 (e.head + 1) e.tail).checkLaunch (Launch.fresh (Memory.readBytes s.mem (hostKey (e.base + 128 * (e.head % 2 ^ e.log2n))) 128) part e.vf 0 false)).1, part)

theorem witness_Launch_fetch : ∀ x ∈ [(launchBlock 1, 0), ([], 1)], let s := queueing 0xFFFF_FFFF 0 x.1
    (s.queueEntry 0).valid = true ∧ (s.queueEntry 0).head ≠ (s.queueEntry 0).tail ∧ fetchCheck s = (x.2, 0) ∧
      bitsOf (s.page 0 0x18) 31 0 = 0 ∧ s.now / (1000 * tickUnits) = s.budgetEpoch := by decide +kernel

/-- A machine with one launch of some cores, at a stage, its core 0 in a state. -/
def launching (count record : Nat) (stage : LaunchStage) (run : RunState) : State :=
  let s := { held record with launches := [(0, { checked count record with stage := stage })] }
  s.setCore 0 { Core.unlisted 0 with run := run, launch := some 0, part := 0x0005_0040_0000_0000, stat := 0x40 }

theorem witness_Launch_start : (launching 64 endRecord .waiting .off).mayStart 0 { checked 64 endRecord with stage := .waiting } = true ∧
    (SMap.find (launching 64 endRecord .waiting .off).launches 0).map (·.stage) = some .waiting := by decide +kernel

/-- A machine with a launch of 64 cores that has started, before its wake message arrives. -/
def waking : State := { held endRecord with launches := [(0, { checked 64 endRecord with stage := .started })] }

theorem witness_Launch_wake : (SMap.find waking.launches 0).any (fun l => l.stage == .started) = true ∧ (∀ k < 64, waking.inLaunch 0 k = false) ∧
    waking.rangeCores (checked 64 endRecord) = List.range 64 := by decide +kernel

/-- The header of the container's role. -/
def roleOne : RoleHeader := ⟨0x3_FFC0, 0x40, 8, 16, 64, 320, 1⟩

theorem witness_Launch_image : let s := launching 1 endRecord .started .booting
    let l := { checked 1 endRecord with stage := .started }
    l.header (s.roleOfCore l 0) = some roleOne ∧ s.inLaunch 0 0 = true ∧ (s.core 0).run = .booting ∧ s.parentOf l 0 = none ∧
      bitsOf (s.page 0 0x18) 31 0 = 0 ∧ s.now / (1000 * tickUnits) = s.budgetEpoch := by decide +kernel

theorem witness_Launch_core : let s := launching 1 endRecord .started .ready
    let l := { checked 1 endRecord with stage := .started }
    (s.launchOf s.cur).any (fun x => x.1 == 0 && x.2 == l) = true ∧ l.header (s.roleOfCore l s.cur) = some roleOne ∧ (s.core s.cur).run = .ready ∧
      s.forwarded 0 (s.childrenOf l s.cur) = true := by decide +kernel

theorem witness_Launch_complete : ∀ x ∈ [(LaunchStage.started, true), (.draining, true), (.started, false)], let s := launching 1 endRecord x.1 .halted
    let s := if x.2 then s else oneStore s
    let l := { checked 1 endRecord with stage := x.1 }
    s.allRetired 0 l = true ∧ s.quiet 0 l = x.2 ∧ l.flag 2 = false ∧ l.replay = false ∧
      bitsOf (s.page l.part 0x18) 31 0 = 0 ∧ s.now / (1000 * tickUnits) = s.budgetEpoch := by decide +kernel

/-! ### Barriers -/

/-- A MASK record of core 0 of unit 0, with flags (R199). -/
def maskRecord (flags : Nat) : Nat := 2 ^ 120 + flags * 2 ^ 80 + 1

/-- A machine with a live launch of one core that waits, and a unit's context. -/
def chorused (record level unit : Nat) (c : Chorus) : State := (launching 1 record .started (.waiting false)).setUnit 0 level unit c

/-- A unit whose sequencer has begun. -/
def sequencing : Chorus := { Chorus.empty with started := true }

theorem witness_Barrier_start : ((chorused endRecord 2 255 Chorus.empty).liveLaunch 0).isSome = true ∧ ((chorused endRecord 2 255 Chorus.empty).unitOf 0 2 255).started = false := by
  decide +kernel

theorem witness_Barrier_read : ∀ r ∈ [maskRecord 0xE, endRecord, 0, 4 * 2 ^ 120], let s := chorused r 0 0 sequencing
    let l := { checked 1 r with stage := .started }
    let s1 := s.readRuns l [(BitVec.ofNat 64 (l.field 16 8 + (l.stream.1 + 16 * (s.unitOf 0 0 0).pos)), 16)]
    s.liveLaunch 0 = some l ∧ (s.unitOf 0 0 0).started = true ∧ (s.unitOf 0 0 0).done = none ∧ (s.unitOf 0 0 0).hold = none ∧
      bitsOf (s.page l.part 0x18) 31 0 = 0 ∧ s.now / (1000 * tickUnits) = s.budgetEpoch ∧ s1.streamRecord l (s.unitOf 0 0 0).pos = some r ∧
      (natBits r 127 120 = 1 → s1.goodMask l r = true ∧ natBits r 73 72 = 0 ∧ (s.part l.part).unitAt 0 (natBits r 71 64) = some 0 ∧ (s.unitOf 0 0 0).buf.length < 64) ∧
      (natBits r 127 120 = 3 → natBits r 119 0 = 0) := by decide +kernel

/-- A mask of member 0 with index 9, as a unit of a level holds it. -/
def maskOne (up exch : Bool) (reports : List (Nat × Nat)) : ChorusMask := ⟨9, 1, up, exch, false, false, .unfired, reports⟩

theorem witness_Barrier_fire : ∀ x ∈ [(0, false), (0, true), (1, true), (2, false)], let m := maskOne x.2 (!x.2) (if x.1 = 0 then [] else [(0, 3)])
    let s := chorused endRecord x.1 0 { sequencing with buf := [m] }
    (s.liveLaunch 0).isSome = true ∧ s.maskAt 0 x.1 0 9 = some m ∧ s.canFire 0 x.1 0 m = true := by decide +kernel

theorem witness_Barrier_report : let c := { sequencing with buf := [maskOne false false []], incoming := [(0, 3)] }
    let s := chorused endRecord 2 0 c
    (s.liveLaunch 0).isSome = true ∧ (s.unitOf 0 2 0).incoming.find? (fun x => x.1 = 0) = some (0, 3) ∧ (s.unitOf 0 2 0).loose = [] ∧
      (s.unitOf 0 2 0).buf.find? (fun m => m.hasSender 0 && !m.reports.any (fun x => x.1 = 0)) = some (maskOne false false []) := by decide +kernel

/-- A machine with a release of its mask on its way. -/
def freeing (exch : Bool) : State :=
  { chorused endRecord 0 0 { sequencing with buf := [{ maskOne false exch [] with stage := .firing }] } with releases := [(4, ⟨0, 0, 0, 9⟩)] }

theorem witness_Barrier_release : ∀ exch ∈ [false, true], let s := freeing exch
    let m := { maskOne false exch [] with stage := .firing }
    SMap.find s.releases 4 = some ⟨0, 0, 0, 9⟩ ∧ s.maskAt 0 0 0 9 = some m ∧ m.ratio = false ∧ m.yields = false ∧ m.cores 0 = [0] ∧ (s.core 0).run = .waiting false ∧
      (s.core 0).hm = false ∧ ((s.core 0).advance (s.lastHead 0)).back = false := by decide +kernel

/-- A machine of a unit whose core 0 belongs to no mask, as late as its watchdog's limit of 2^20 ref ticks. -/
def stray (c : Chorus) : State := { chorused endRecord 0 0 c with now := 2 ^ 20 * tickUnits }

theorem witness_Barrier_strays : ∀ c ∈ [{ sequencing with done := some (0, 16) }, { sequencing with stuck := some 0 }], let s := stray c
    (s.liveLaunch 0).isSome = true ∧ s.strays 0 0 = [0] ∧ (s.core 0).hm = false ∧ (s.core 0).runStart = none ∧ 0 + 2 ^ bitsOf (s.page 0 0x10) 5 0 * tickUnits ≤ s.now := by
  decide +kernel

/-! ### Interrupts -/

/-- A core with an interrupt, in a state, at a time. -/
def interrupted (run : RunState) (grant : Bool) : State :=
  ({ State.reset with now := tickUnits } : State).setCore 0
    { Core.unlisted 0 with run := run, stat := 0x40, tcmp := if grant then 0 else 1, grantIrq := if grant then some (tickUnits - 1, 7) else none, clock := ⟨0, 0, 0, 0, ⟨0, periodOf 20⟩, ⟨0, periodOf 20⟩, true⟩ }

theorem witness_Interrupts : ∀ x ∈ [(RunState.waiting false, false), (.sleeping .condition, false), (.sleeping .condition, true)], let s := interrupted x.1 x.2
    let r : Raise := if x.2 then ⟨0x1B, 0, 7⟩ else ⟨0x1A, 0, 0⟩
    let p := if x.2 then tickUnits - 1 else tickUnits
    (s.core s.cur).interrupt = some (p, r) ∧ (s.core s.cur).run = x.1 ∧
      (s.core s.cur).interruptBefore ((s.core s.cur).clock.vec.after (max p s.now)) = some r := by decide +kernel

theorem witness_Interrupts_taken : ∀ grant ∈ [false, true], let s := { interrupted .running grant with now := tickUnits + 1 }
    (s.core s.cur).run = .running ∧ s.midPrefix s.cur = false ∧ s.forcedStop s.cur = false ∧
      ((s.core s.cur).interruptBefore (max (s.core s.cur).ready ((s.core s.cur).clock.pipe.ceil s.now))).map (·.code) = some (if grant then 0x1B else 0x1A) := by decide +kernel

theorem witness_Interrupts_withdrawn : ((interrupted (.waiting true) false).core 0).run = .waiting true ∧ ((interrupted (.waiting true) false).core 0).launch = none := by decide +kernel

end Sys2Proof.Tests
end

