-- ==== Sys2Proof/Tests/WitnessNumbers.lean ====
section
/-! SUPPORT. Witnesses: numbers that meet the hypotheses of the statements about conversion, quantisation, the order of sums and distances. -/

namespace Sys2Proof.Tests

open Sys2Proof.Machine

set_option Elab.async false

/-! ### Conversion and quantisation -/

/-- An i32 from an n8, an n8 from a NaN, an infinity and a number of BF16, and a float from an E4M3 number and an integer. -/
theorem witness_Convert : Fmt.isInt .i32 = some true ∧ Fmt.isInt .n8 = some false ∧ Fmt.isInt .bf16 = none ∧ val .bf16 0x7FC0 = .nan false ∧ val .bf16 0xFF80 = .inf true ∧
    (val .bf16 0x3FC0).rat? = some (3 / 2) ∧ (val .e4m3 0x7E).rat? = some 448 ∧ Fmt.e4m3 ∈ [Fmt.bf16, .f16, .e4m3, .e5m2, .e3m2, .e2m3, .e2m1, .ds8] := by decide +kernel

/-- A block with an element that is no number, one of zeros, and one whose greatest is 448. -/
theorem witness_Quantise : (∃ x ∈ [FVal.num false 1, .inf true], x.rat? = none) ∧
    (([FVal.num false 0, .num true 0].map FVal.rat? = [(0 : Rat), 0].map some ∧ ∀ n m, FVal.num n m ∈ [FVal.num false 0, .num true 0] → 0 ≤ m) ∧ ∀ r ∈ [(0 : Rat), 0], r = 0) ∧
    ([FVal.num false 3, .num true 448].map FVal.rat? = [(3 : Rat), -448].map some ∧ ∀ n m, FVal.num n m ∈ [FVal.num false 3, .num true 448] → 0 ≤ m) ∧
    (∃ r ∈ [(3 : Rat), -448], |r| = 448) ∧ (∀ r ∈ [(3 : Rat), -448], |r| ≤ 448) ∧ (0 : Rat) < 448 := by
  refine ⟨⟨.inf true, by decide +kernel⟩, ⟨⟨by decide +kernel, ?_⟩, by decide +kernel⟩, ⟨by decide +kernel, ?_⟩, by norm_num, by norm_num, by norm_num⟩ <;>
  · intro n m h
    simp only [List.mem_cons, FVal.num.injEq, List.not_mem_nil, or_false] at h
    rcases h with ⟨-, rfl⟩ | ⟨-, rfl⟩ <;> decide +kernel

/-! ### Block sums and distances -/

/-- A block of two elements of each side, without scales. -/
def blockOf (a b : List FVal) : DotBlock := ⟨a, b, .num false 1, .num false 1⟩

/-- A block whose products are numbers has the sum of their values. -/
theorem sums_numbers {k : DotBlock} {x : FVal} {vs : List Rat} (h : (k.a.zip k.b).map (fun e => ((fMul e.1 e.2).v).rat?) = vs.map some) (hx : x.rat? = some vs.sum) :
    k.Sums (fMul (fMul x k.scaleA).v k.scaleB).v := by
  have hn : ∀ y ∈ (k.a.zip k.b).map (fun e => (fMul e.1 e.2).v), y.rat? ≠ none := by
    intro y hy
    have hm : y.rat? ∈ vs.map some := by
      rw [← h]
      obtain ⟨e, he, rfl⟩ := List.mem_map.mp hy
      exact List.mem_map.mpr ⟨e, he, rfl⟩
    obtain ⟨v, -, hv⟩ := List.mem_map.mp hm
    simp [← hv]
  refine ⟨x, rfl, ?_, ?_, ?_⟩
  · rintro (hy | ⟨hy, -⟩) <;> exact absurd rfl (hn _ hy)
  · intro _ n hy
    exact absurd rfl (hn _ hy)
  · intro rs hr
    rw [List.map_map] at hr
    have : rs = vs := by
      have := h.symm.trans hr
      exact (List.map_injective_iff.mpr (Option.some_injective _) this).symm
    rw [this, hx]

/-- 1 x 2 + 1 x -2, and 1 x 2 + 1 x 3. -/
theorem witness_BlockSums : ((blockOf [.num false 1, .num false 1] [.num false 2, .num true 2]).a.length = (blockOf [.num false 1, .num false 1] [.num false 2, .num true 2]).b.length ∧
      ∃ p, (blockOf [.num false 1, .num false 1] [.num false 2, .num true 2]).Sums p ∧ p.rat? = some 0) ∧
    ∃ p, (blockOf [.num false 1, .num false 1] [.num false 2, .num false 3]).Sums p ∧ p.rat? = some 5 :=
  ⟨⟨rfl, _, sums_numbers (x := .num false 0) (vs := [2, -2]) (by decide +kernel) (by decide +kernel), by decide +kernel⟩,
    _, sums_numbers (x := .num false 5) (vs := [2, 3]) (by decide +kernel) (by decide +kernel), by decide +kernel⟩

/-- A sum that is NaN from operands none of which is: infinity x 0. -/
theorem witness_GangNaN : let k := blockOf [.inf false] [.num false 0]
    k.a.length = k.b.length ∧ (∀ x ∈ k.scaleA :: k.scaleB :: (k.a ++ k.b), x.isNan = false) ∧ ∃ p, k.Sums p ∧ p.isNan = true :=
  have hp : ((([FVal.inf false].zip [FVal.num false 0]).map (fun e => (fMul e.1 e.2).v)).map FVal.rat?) = [none] := by decide +kernel
  ⟨rfl, by decide +kernel, .nan false, ⟨.nan false, by decide +kernel, fun _ => rfl, fun h => absurd (by decide +kernel) h, fun rs hr => by
    cases rs <;> cases hp.symm.trans hr⟩, rfl⟩

/-- Elements of a gang of BF16, and of E4M3 by E2M1. -/
theorem witness_GangElements : (Fmt.bf16 ∈ [Fmt.bf16, .f16] ∧ Fmt.f16 ∈ [Fmt.bf16, .f16]) ∧ (Fmt.isNarrow .e4m3 = true ∧ Fmt.isNarrow .e2m1 = true) ∧ 63 < 64 ∧ 127 < 128 := by decide +kernel

/-- The terms of (3 - 1)^2, of (3 - 3)^2, and of a NaN. -/
theorem witness_DistanceTerms : [FVal.num false 3].map FVal.rat? = [(3 : Rat)].map some ∧ [FVal.num false 1].map FVal.rat? = [(1 : Rat)].map some ∧
    (([(3 : Rat)].zip [1]).map (fun e => termOf 0 e.1 e.2)).sum = 4 ∧ (([(3 : Rat)].zip [3]).map (fun e => termOf 0 e.1 e.2)).sum = 0 ∧
    [FVal.nan true][0]? = some (FVal.nan true) ∧ (FVal.nan true).isNan = true := by decide +kernel

end Sys2Proof.Tests
end

