-- ==== Sys2Proof/Tests/WitnessPackage.lean ====
section
/-! SUPPORT. Witnesses: states that meet the hypotheses of the statements about clocks, partitions, the package's registers and the mesh. -/

namespace Sys2Proof.Tests

open Sys2Proof.Machine

set_option Elab.async false

/-! ### Clocks -/

/-- A cap token of a SEQ, a cap and a lease, with its check (R369). -/
def token (seq cap lease : Nat) : BitVec 128 :=
  let bs := bytesOf 12 (fieldsOf [(0, 4, seq), (4, 2, cap), (6, 2, lease)])
  BitVec.ofNat 128 (leValue (bs ++ bytesOf 4 (crc32c bs)))

theorem witness_Clocks_tokens : fieldAt (bytesOf 16 (token 1 2000 5).toNat) 12 4 = crc32c ((bytesOf 16 (token 1 2000 5).toNat).take 12) ∧ fieldAt (bytesOf 16 (token 1 2000 5).toNat) 8 4 = 0 ∧
    fieldAt (bytesOf 16 (token 1 2000 5).toNat) 6 2 = 5 ∧ fieldAt (bytesOf 16 (token 1 2000 5).toNat) 0 4 = 1 ∧
    fieldAt (bytesOf 16 (token 0x8000_0000 2000 5).toNat) 12 4 = crc32c ((bytesOf 16 (token 0x8000_0000 2000 5).toNat).take 12) ∧
    fieldAt (bytesOf 16 (token 0x8000_0000 2000 5).toNat) 0 4 = 0x8000_0000 ∧ fieldAt (bytesOf 16 (token 1 2000 0).toNat) 6 2 = 0 ∧
    State.reset.chameleon.tokenSeq = 0 := by decide +kernel

/-- A machine whose arbiter stands otherwise than at reset. -/
def clocked (f : Chameleon → Chameleon) : State := { State.reset with now := tickUnits, chameleon := f State.reset.chameleon }

theorem witness_Clocks_lease : (clocked (fun c => { c with cap := 2000, leaseEnd := some tickUnits })).chameleon.leaseEnd = some tickUnits ∧
    tickUnits ≤ (clocked (fun c => { c with cap := 2000, leaseEnd := some tickUnits })).now := by decide +kernel

theorem witness_Clocks_alarm : let s := clocked (fun c => { c with cap := 2000 })
    (searchSet s.packageRequest s.inForce (s.chameleon.cutCap - 300) (some s.chameleon.netNow)).isSome = true ∧ s.chameleon.pauseEnd = none := by decide +kernel

theorem witness_Clocks_pause : (clocked (fun c => { c with pauseEnd := some tickUnits, whole := false })).chameleon.pauseEnd = some tickUnits ∧
    tickUnits ≤ (clocked (fun c => { c with pauseEnd := some tickUnits, whole := false })).now := by decide +kernel

theorem witness_Clocks_switch : let s := clocked (fun c => { c with net := 20, whole := false })
    s.chameleon.settled = false ∧ s.launches = [] ∧ s.cores = [] := by decide +kernel

/-! ### Partitions -/

/-- A partition 0 with a live launch of one core, its stop at a state and its core in one. -/
def stopping (stop : StopState) (run : RunState) (now : Nat) : State :=
  let s := { launching 1 endRecord .started run with now := now }
  s.setPartition 0 { s.partition 0 with stop := stop }

theorem witness_Stops_request : (held endRecord).runsLaunch 0 = false ∧ ((held endRecord).partition 0).stop = .none ∧ (stopping .none .running tickUnits).runsLaunch 0 = true ∧
    ((stopping .none .running tickUnits).partition 0).stop = .none := by decide +kernel

/-- The deadline of a partition at reset, in units of time. -/
def limit : Nat := 0x20000 * tickUnits

theorem witness_Stops_deadline : ∀ run ∈ [RunState.sleeping .condition, .waiting false, .running], let s := stopping (.requested 0 none) run limit
    (s.partition 0).stop = .requested 0 none ∧ 0 + s.yieldLimit 0 ≤ s.now ∧ s.runningCores 0 = [0] ∧ (s.core 0).run = run := by decide +kernel

theorem witness_Stops_complete : ∀ forced ∈ [none, some 5], let s := stopping (.requested 0 forced) (.stopped .boundary) tickUnits
    (s.partition 0).stop = .requested 0 forced ∧ s.now % tickUnits = 0 ∧ s.partitionRests 0 = true := by decide +kernel

/-- A core left in an exchange phase past the grace. -/
def leftOver : State :=
  let s := stopping (.requested 0 (some 0)) .running limit
  s.setCore 0 { s.core 0 with stat := 0x80 }

theorem witness_Stops_grace : (leftOver.partition 0).stop = .requested 0 (some 0) ∧ 0 + leftOver.yieldLimit 0 ≤ leftOver.now ∧
    ∃ x ∈ leftOver.launchesOf 0, ∃ n ∈ leftOver.rangeCores x.2, leftOver.inLaunch x.1 n = true ∧ (leftOver.core n).xm = true :=
  ⟨by decide +kernel, by decide +kernel, (0, { checked 1 endRecord with stage := .started }), by decide +kernel, 0, by decide +kernel⟩

theorem witness_Stops_resume : ∀ run ∈ [RunState.stopped (.parked true), .stopped .boundary, .stopped .withdrawn, .stopped .waiting, .stopped .exchange], let s := stopping (.stopped 1 0 1) run tickUnits
    (s.partition 0).stop = .stopped 1 0 1 ∧ (s.partition 0).saved = false ∧ (s.partition 0).debug = [] ∧ SMap.find s.savedCtx 0 = none ∧ s.net.on s.now = true ∧
      s.runningCores 0 = [0] ∧ (s.core 0).run = run := by decide +kernel

theorem witness_Stops_reset : let s := stopping .none .running tickUnits
    (s.partition 0).resetting = false ∧ (s.part 0).valid = true ∧ 0 ∈ SMap.keys s.cores ∧ (s.part 0).sgs.getLsbD (0 / 64) = true ∧ s.partOf (s.core 0) = some 0 := by decide +kernel

/-- A machine with a log at HBM 0x1_0800, of a MAGIC and flags, and a queue of its partition. -/
def logged (magic flags : Nat) : State :=
  let leaf : Word := 0x9800_0000_0000_0000
  let iface := 8192 + channelOf 0x1_0800
  let kept : List CachedLeaf := [⟨iface, 0, 0, true, 1, leaf + 1⟩, ⟨iface, 0, 0, false, 1, leaf + 7⟩]
  let s := queueing 0 0 []
  let s := { s with tcache := s.tcache ++ kept }.setPage 0 0x50 0x1_0800
  { s with mem := Memory.writeLE (Memory.writeLE s.mem (hbmKey 0x7_0800) 4 magic) (hbmKey 0x7_0808) 1 flags }

theorem witness_Stops_replay : (logged 0 0).logWord 0 0 4 ≠ 0x474F4C52 ∧ ((logged 0x474F4C52 1).logWord 0 8 1).testBit 0 = true ∧ (logged 0x474F4C52 0).logWord 0 0 4 = 0x474F4C52 ∧
    ((logged 0x474F4C52 0).logWord 0 8 1).testBit 0 = false ∧ ((logged 0x474F4C52 0).part 0).valid = true ∧ ((logged 0x474F4C52 0).queueEntry 0).valid = true ∧
    ((logged 0x474F4C52 0).queueEntry 0).pid = ((logged 0x474F4C52 0).part 0).pid ∧ ((logged 0x474F4C52 0).queueEntry 0).vf = ((logged 0x474F4C52 0).part 0).vf ∧
    bitsOf ((logged 0x474F4C52 0).page 0 0x18) 31 0 = 0 ∧ (logged 0x474F4C52 0).now / (1000 * tickUnits) = (logged 0x474F4C52 0).budgetEpoch := by decide +kernel

/-- A machine that scrubs super-group 127 after a reset of partition 0. -/
def scrubbing : State :=
  let s := held endRecord
  s.setPartition 0 { s.partition 0 with resetting := true, scrubs := [127] }

theorem witness_Stops_scrub : 127 ∈ scrubbing.slice.scrubs ∨ ∃ e ∈ scrubbing.partitions, 127 ∈ e.2.scrubs := by decide +kernel

/-- A stopped partition with a word of its core's slice, its PC or a field of its record selected. -/
def debugging (space : Word) : State := (stopping (.stopped 0 0 1) (.stopped .boundary) tickUnits).setPage 0 0x88 (BitVec.ofNat 64 (0x3_FFF8 * 2 ^ 32 + space.toNat * 2 ^ 16))

theorem witness_Stops_debug : (debugging 1).page 0 0x88 = 0x3_FFF8_0001_0000 ∧ (debugging 1).debugCore 0 0x3_FFF8_0001_0000 = some 0 ∧ bitsOf (0x3_FFF8_0001_0000 : Word) 17 16 = 1 ∧
    (debugging 2).page 0 0x88 = 0x3_FFF8_0002_0000 ∧ (debugging 2).debugCore 0 0x3_FFF8_0002_0000 = some 0 ∧ bitsOf (0x3_FFF8_0002_0000 : Word) 17 16 = 2 ∧
    (debugging 0).page 0 0x88 = 0x3_FFF8_0000_0000 ∧ (debugging 0).debugCore 0 0x3_FFF8_0000_0000 = some 0 ∧ bitsOf (0x3_FFF8_0000_0000 : Word) 17 16 = 0 ∧
    (debugging 0).recordRead 0 5 ≠ none := by decide +kernel

/-! ### The partition table, slices and invalidations -/

/-- A machine whose words of entry 127 name a super-group, or one that entry 0 has. -/
def committing (sg : Nat) : State :=
  let s := held endRecord
  (s.setReg (0x10000 + 32 * 127) 0x0000_0109).setReg (0x10000 + 32 * 127 + 16) (BitVec.ofNat 64 (2 ^ sg))

theorem witness_Table_commit : (committing 63).goodEntry 127 = true ∧ ((committing 63).part 127).valid = false ∧ (committing 0).goodEntry 127 = false ∧ bitsOf (127 : Word) 6 0 = 127 := by
  decide +kernel

/-- The same entry grown by a super-group, which resizes it. -/
def resizing : State :=
  let s := held endRecord
  (s.setReg 0x10000 0x0000_0105).setReg 0x10010 3

theorem witness_Table_resize : resizing.goodEntry 0 = true ∧ (resizing.part 0).valid = true ∧ (resizing.entryWords 0).sgs ≠ (resizing.part 0).sgs ∧
    resizing.mayResize 0 (if (resizing.entryWords 0).valid then resizing.entryWords 0 else PartEntry.empty) = true := by decide +kernel

theorem witness_Table_save : let s := stopping (.stopped 0 0 1) (.stopped .boundary) tickUnits
    (s.partition 0).stop = .stopped 0 0 1 ∧ (s.partition 0).saved = false ∧ s.runsLaunch 0 = true ∧ s.chameleon.whole = true ∧ (s.launches.all (fun e => e.2.noticed.isEmpty)) = true ∧
      s.inTransit (s.runningCores 0) ((s.launchesOf 0).map Prod.fst) = false := by decide +kernel

/-- The machine after that save. -/
def saved : State :=
  let s := stopping (.stopped 0 0 1) (.stopped .boundary) tickUnits
  { (s.takeOut 0).setPartition 0 { s.partition 0 with saved := true } with savedCtx := [(0, s.saveContext 0)] }

theorem witness_Table_restore : (SMap.find saved.savedCtx 0).any (fun x => x.part == 0 && x.cores.length == 1) = true ∧ (saved.partition 0).saved = true ∧
    saved.toScrub 0 (saved.part 0).list = (saved.part 0).list ∧ saved.scrubPending (saved.part 0).list = false ∧ 0 < (saved.part 0).cores ∧ (saved.part 0).flat 63 = some 63 := by decide +kernel

/-- Time slicing with the first entry of the table in force, or none, and launches waiting for function 0. -/
def sliced (entry : Option Nat) (waiting : Bool) : State :=
  let s := if waiting then launching 1 endRecord .waiting .off else held endRecord
  let s := (s.setReg 0x100 1).setReg 0x11000 (2 ^ 63)
  { s with slice := ⟨true, entry, some 0, some 0, none, .none, [], tickUnits⟩ }

theorem witness_Slices : (sliced (some 0) false).slice.on = true ∧ (sliced (some 0) false).slice.quantumEnd ≤ (sliced (some 0) false).now ∧ ((sliced (some 0) false).reg 0x100).getLsbD 0 = true ∧
    (sliced (some 0) false).nextEntry (some 0) = none ∧ (sliced (some 0) true).nextEntry (some 0) = some 0 ∧
    (sliced (some 0) true).slice.out = some ((sliced (some 0) true).entryVf 0) := by decide +kernel

/-- Function 0 runs a launch at the end of its quantum, and the next entry of the table is function 3's, which has one that waits. -/
def switching : State :=
  let s := stopping .none .running tickUnits
  let s := (s.setReg 0x100 1).setReg 0x11008 (2 ^ 63 + 3 * 2 ^ 32)
  { s with slice := ⟨true, some 0, some 0, some 0, none, .none, [], tickUnits⟩, launches := s.launches ++ [(1, { checked 1 endRecord with vf := 3, part := 1 })] }

theorem witness_Slices_switch : switching.slice.on = true ∧ switching.slice.stage = .none ∧ switching.slice.quantumEnd ≤ switching.now ∧ (switching.reg 0x100).getLsbD 0 = true ∧
    switching.nextEntry switching.slice.entry = some 1 ∧ switching.slice.out ≠ some (switching.entryVf 1) ∧ switching.slice.vf = some 0 ∧ 0 ∈ switching.partsOf 0 ∧
    switching.runsLaunch 0 = true ∧ (switching.partition 0).stop = .none := by decide +kernel

/-- An invalidation of the hypervisor's on its way, whose completion word is the first of HBM. -/
def invalidating : State :=
  { held endRecord with invs := [(3, ⟨4, 0, 0, 0, 0x1000, false, false, []⟩)] }

theorem witness_Invalidations : SMap.find invalidating.invs 3 = some ⟨4, 0, 0, 0, 0x1000, false, false, []⟩ ∧ (∀ e ∈ invalidating.reqs, invalidating.usesEntry ⟨4, 0, 0, 0, 0x1000, false, false, []⟩ e.2 = false) :=
  ⟨by decide +kernel, by intro e he; cases he⟩

/-! ### The package's registers, windows and links -/

theorem witness_Package_boundary : (held endRecord).atBoundary (8191 / 64) = true ∧ (launching 1 endRecord .started .running).atBoundary (0 / 64) = false := by decide +kernel

/-- Page 0 of a partition that no entry has, and of one whose stop is pending. -/
theorem witness_Package_limit : (held endRecord).pagePart 6 = none ∧ (stopping (.requested 0 none) .running tickUnits).pagePart 5 = some 0 ∧
    ((stopping (.requested 0 none) .running tickUnits).partition 0).stop = .requested 0 none := by decide +kernel

/-- A machine whose launch is deterministic, so that it holds host writes to the window of die 0. -/
def deterministic : State :=
  let l := { checked 1 endRecord with stage := .started }
  { launching 1 endRecord .started .running with launches := [(0, { l with block := l.block.set 2 1 })] }

theorem witness_Package_window : deterministic.holdersOf 0 ≠ [] ∧ (∀ w ∈ deterministic.heldWrites, w.holders ≠ []) ∧ (held endRecord).launches = [] ∧
    (held endRecord).heldWrites = [] := by decide +kernel

/-- A machine in which core 3 has its super-group's first spare. -/
def swapped : State := { held endRecord with spares := [(3, 64)] }

theorem witness_Package_spares : (held endRecord).spares ++ (held endRecord).ring.lanes = [] ∧ (∃ e ∈ swapped.spares ++ swapped.ring.lanes, e.1 / 2 ^ 20 = 0 ∧ e.1 % 2 ^ 20 / 64 = 63 / 64 ∧ e.2 = 64) :=
  ⟨by decide +kernel, (3, 64), by decide +kernel⟩

/-- A machine with a request on a link, whose port 23 is down. -/
def linked : State := { onLink with bar0 := [(0x10, 0x1_FFFF_FFFF_FFFF)] }

theorem witness_Package_link : (linked.reg 0x10).getLsbD (26 + 23) = false ∧ (linked.req 4).any (fun q => q.stage == .onLink 100) = true := by decide +kernel

/-! ### The mesh -/

/-- A packet of a number of flits for a slice of router 127, at an input of router 0. -/
def packet (flits : Nat) (arrived : Bool) (since : Option Nat) : Packet := ⟨.message 0, 1, flits, 5, 127, 0, none, [], 0, bufIdx 0 0 1, arrived, since⟩

/-- A machine at a network edge with that packet at the head of its buffer. -/
def meshed (p : Packet) : State := { State.reset with now := tickUnits, nextId := 9, packets := [(3, p)], bufs := [(bufIdx 0 0 1, ⟨[3], [], []⟩)] }

theorem witness_Mesh_arrival : (packet 2 false none).forks = false ∧ SMap.find (meshed (packet 2 false none)).packets 3 = some (packet 2 false none) ∧
    ((meshed (packet 2 false none)).buf (packet 2 false none).buf).queue.contains 3 = true ∧ (meshed (packet 2 false none)).drops 5 = false := by decide +kernel

/-- The packet is the only one that contends. -/
theorem contends_unique {p : Packet} (h : ∀ q < 28, (meshed p).headOf (28 * 0 + q) = if q = 1 then some (3, p) else none) {out q id : Nat} {p' : Packet}
    (hc : (meshed p).Contends 0 out q id p') : q = 1 ∧ id = 3 ∧ p' = p := by
  obtain ⟨hq, hh, -⟩ := hc
  rw [h q hq] at hh
  split at hh
  · cases hh
    exact ⟨‹_›, rfl, rfl⟩
  · cases hh

/-- An output that is busy, and one for which no packet contends. -/
theorem witness_Mesh_none : (let s := (meshed (packet 2 false none)).setOut 0 5 { OutPort.idle with free := tickUnits + 1 }
      s.now < (s.outPort 0 5).free) ∧
    ((meshed (packet 2 false none)).outPort 0 5).free ≤ (meshed (packet 2 false none)).now ∧ ∀ q id p, ¬ (meshed (packet 2 false none)).Contends 0 5 q id p :=
  ⟨by decide +kernel, by decide +kernel, fun q id p hc => by
    obtain ⟨-, -, rfl⟩ := contends_unique (by decide +kernel) hc
    obtain ⟨-, -, ⟨t, -, ht⟩, -⟩ := hc
    cases ht⟩

/-- A packet that contends, by the conditions that name it. -/
theorem contends_of {p : Packet} {out : Nat} (h : ((meshed p).headOf (28 * 0 + 1) == some (3, p) && p.since.any (fun t => decide (t ≤ (meshed p).now)) &&
    !(meshed p).drops p.pid && p.outputs.contains out && decide ((meshed p).bufUsed (targetBuf 0 out p.vc) + p.flits ≤ 8)) = true) :
    (meshed p).Contends 0 out 1 3 p := by
  simp only [Bool.and_eq_true, beq_iff_eq, Option.any_eq_true, decide_eq_true_eq, Bool.not_eq_true', List.contains_iff_mem] at h
  obtain ⟨⟨⟨⟨h1, t, ht, hle⟩, h3⟩, h4⟩, h5⟩ := h
  exact ⟨by omega, h1, ⟨t, hle, ht⟩, h3, h4, h5⟩

/-- A packet that waits a short time, whose output's counts are the weights. -/
theorem witness_Mesh_count : let p := packet 8 true (some tickUnits)
    let s := meshed p
    let out := routeOut 0 127 0
    (s.outPort 0 out).free ≤ s.now ∧ (∀ q' id' p', s.Contends 0 out q' id' p' → p'.ageAt s.now s.netPeriod < 64) ∧ (s.outPort 0 out).ptr < 28 ∧ s.Contends 0 out 1 3 p ∧
      ∃ cnt, s.Counts 0 out cnt ∧ 0 < cnt[1]?.getD 0 ∧
        ∀ q' id' p', s.Contends 0 out q' id' p' → 0 < cnt[q']?.getD 0 → (1 + 27 - (s.outPort 0 out).ptr) % 28 ≤ (q' + 27 - (s.outPort 0 out).ptr) % 28 := by
  have hu : ∀ {out q id : Nat} {p' : Packet}, (meshed (packet 8 true (some tickUnits))).Contends 0 out q id p' → q = 1 ∧ id = 3 ∧ p' = packet 8 true (some tickUnits) :=
    fun hc => contends_unique (by decide +kernel) hc
  refine ⟨by decide +kernel, fun q' id' p' hc => ?_, by decide +kernel, contends_of (by decide +kernel), _, ⟨fun ⟨q, id, p', hc, h0⟩ => ?_, fun _ => rfl⟩, by decide +kernel,
    fun q' id' p' hc _ => ?_⟩
  · obtain ⟨-, -, rfl⟩ := hu hc
    decide +kernel
  · obtain ⟨rfl, -, -⟩ := hu hc
    exact absurd h0 (by decide +kernel)
  · obtain ⟨rfl, -, -⟩ := hu hc
    exact le_refl _

theorem witness_Mesh_grant : ∃ o, (meshed (packet 8 true (some 0))).arbitrate 0 (routeOut 0 127 0) = (some (3, packet 8 true (some 0)), o) ∧ routeOut 0 127 0 < 7 ∧
    (packet 8 true (some 0)).forks = false :=
  ⟨_, Prod.ext (by decide +kernel : ((meshed (packet 8 true (some 0))).arbitrate 0 (routeOut 0 127 0)).1 = some (3, packet 8 true (some 0))) rfl, by decide +kernel⟩

/-- A packet that its arbiter has passed over for 64 cycles since it was granted last, and the oldest that contends. -/
def passedOver : Packet := { packet 8 true (some 0) with age := 40 }

theorem witness_Mesh_urgent : (meshed passedOver).headOf (bufIdx 0 0 1) = some (3, passedOver) ∧ passedOver.since.isSome = true ∧
    64 ≤ passedOver.ageAt (meshed passedOver).now (meshed passedOver).netPeriod ∧ (meshed passedOver).Contends 0 (routeOut 0 127 0) 1 3 passedOver ∧
    ∀ q' id' p', (meshed passedOver).Contends 0 (routeOut 0 127 0) q' id' p' → p'.ageAt (meshed passedOver).now (meshed passedOver).netPeriod =
      passedOver.ageAt (meshed passedOver).now (meshed passedOver).netPeriod ∧ 1 ≤ q' :=
  ⟨by decide +kernel, by decide +kernel, by decide +kernel, contends_of (by decide +kernel), fun _ _ _ hc => by
    obtain ⟨rfl, -, rfl⟩ := contends_unique (by decide +kernel) hc
    exact ⟨rfl, le_refl _⟩⟩

end Sys2Proof.Tests
end

