-- ==== Sys2Proof/Tests/WitnessRing.lean ====
section
/-! SUPPORT. Witnesses: states that meet the hypotheses of the statements about boarding, the weight ring and coverage. -/

namespace Sys2Proof.Tests

open Sys2Proof.Machine

set_option Elab.async false

/-- A BOARD of every slot of the engine, and of one. -/
def boardTail (n : BitVec 32) : TailD := ⟨0, 2, 3, 15, 3, n⟩

/-- A machine whose pod 0 has slots of slice 0, all of them or the last, with the context of bd1 in a state. -/
def boarding (all : Bool) (state : Nat) (s : State) : State :=
  let s := s.setMatrix 0 { Matrix.empty with slots := if all then (List.range 256).map (fun k => (k, ⟨some 0, false⟩)) else [(255, ⟨some 0, false⟩)] }
  s.setCtx 1 { BoardCtx.idle with state := state }

/-- A BOARD of a case: its length, its first slot, and the machine. -/
def boardCase (n : BitVec 32) (slot : Word) (all : Bool) (state : Nat) : Case :=
  ⟨.board (boardTail n), sigBoard, opndD (boardTail n), regs [(2, 0x12_0034), (3, slot)], boarding all state⟩

theorem witness_Board_bad : Met [boardCase 2 255 true 0, boardCase 1 0x100 true 0] (fun s t o =>
    (bitsOf ((s.coreAt t).readG o.b) 63 8 ≠ 0 ∨ 256 < bitsOf ((s.coreAt t).readG o.b) 7 0 + o.imm.toNat) ∧ (s.coreAt t).hm = false) := met _ (by decide +kernel)

/-- The slots of a BOARD are in order: in the engine, of its slice and named by no other context. -/
abbrev BoardMay (s : State) (t : Nat) (o : Opnd) : Prop :=
  bitsOf ((s.coreAt t).readG o.b) 63 8 = 0 ∧ bitsOf ((s.coreAt t).readG o.b) 7 0 + o.imm.toNat ≤ 256 ∧
    ∀ i < o.imm.toNat, ((s.matrix s.curPod).slot (bitsOf ((s.coreAt t).readG o.b) 7 0 + i)).claim = some (s.cur % 8) ∧
      s.boarded s.curPod (some (2 * s.cur + o.m.toNat % 2)) (bitsOf ((s.coreAt t).readG o.b) 7 0 + i) = false

theorem witness_Board_good : Met [boardCase 256 0 true 0, boardCase 1 255 false 4] (fun s t o => BoardMay s t o ∧ (s.ctx (2 * s.cur + o.m.toNat % 2)).state ≠ 2) ∧
    Met [boardCase 1 255 false 2] (fun s t o => BoardMay s t o ∧ (s.ctx (2 * s.cur + o.m.toNat % 2)).state = 2) := ⟨met _ (by decide +kernel), met _ (by decide +kernel)⟩

/-- A BSTAT of bd1 without a mark, and with one of a bad header. -/
def bstatCase (x : BoardCtx) : Case := ⟨.bstat ⟨1, 0, 0, 0, 1⟩, sigBstat, opndW ⟨1, 0, 0, 0, 1⟩, id, fun s => s.setCtx 1 x⟩

theorem witness_Bstat : Met [bstatCase { BoardCtx.idle with state := 3, lap := 7, written := 256 }] (fun s _ o => s.corruptMark s.cur (o.m.toNat % 2) = none) ∧
    Met [bstatCase { BoardCtx.idle with state := 3, layer := 9, corrupt := true, bad := [(5, true)] }]
      (fun s t o => s.corruptMark s.cur (o.m.toNat % 2) = some ⟨0x10, 0x05, 0x9_0000_0005⟩ ∧ (s.coreAt t).hm = false) :=
  ⟨met _ (by decide +kernel), met _ (by decide +kernel)⟩

/-- A segment of one partition's frames, at HBM 0x1_0000. -/
def segment (count : Nat) : Segment := ⟨0, 0x34, 5, 0x21, count, 0x1_0000⟩

/-- What a feeder asks for: a frame of a lap whose image is one segment. -/
def wanted (lap j count : Nat) : FeedWant := ⟨lap, j, segment count, 0, j, decide (j + 1 = count)⟩

/-- A context armed for the segment's first frames. -/
def armed : BoardCtx := { BoardCtx.idle with layer := 0x34, n := 2, slot := 254, counter := 15, state := 1 }

/-- A machine in whose ring frame 7 is on its way, with its bytes and the context of bd0 of core 0. -/
def onRing (x : BoardCtx) (bytes : List Byte := []) : State :=
  let s := launched State.reset
  { s with ring := { s.ring with
      laps := 3, inLap := true, frames := [(7, (wanted 2 0 2).frameRead bytes)], injected := 8, arrived := Vector.replicate 8 7, ctxs := [(0, x)] } }

theorem witness_Board_effect : ((onRing armed).ctx 0).state = 1 ∧ ((onRing armed).ctx 0).effectAt ≤ (onRing armed).now ∧ ((onRing armed).ctx 0).effectLap = none := by decide +kernel

theorem witness_Board_catch : let s := onRing { armed with effectLap := some 1 }
    ∃ x f l crc, s.ring.arrived[0]? = some 7 ∧ SMap.find s.ring.frames 7 = some f ∧ f.head = f.want.header crc ∧ f.want.seg.layer < 65536 ∧ f.want.seg.count < 2 ^ 24 ∧
      f.want.findex = 0 ∧ s.ring.ctxs = [(0, x)] ∧ x.state = 1 ∧ x.effectAt ≤ s.now ∧ x.fromLap ≤ f.want.lap ∧ x.layer = f.want.seg.layer ∧
      bitsOf (s.core (0 / 2)).part 55 48 = f.want.seg.pid.toNat ∧ s.launchOf (0 / 2) = some (0, l) ∧ l.replay = false ∧ l.flag 1 = false ∧
      s.partOf (s.core 0) = some 0 ∧ (s.partition 0).stopped = false ∧ x.f0 = 0 ∧ 0 < x.n ∧ 0 < f.want.seg.count :=
  ⟨{ armed with effectLap := some 1 }, (wanted 2 0 2).frameRead [], oneLaunch, crc32c [], by decide +kernel⟩

/-- A context that catches the segment, at its last frame. -/
def tapping : BoardCtx := { armed with state := 2, base := 6, count := 2, acts := [(7, true)] }

theorem witness_Board_tap : ((onRing tapping).ctx 0).acts = (7, true) :: [] ∧ ((onRing tapping).ctx 0).wants (7 - 6) = true ∧
    (onRing tapping).launchOf (0 / 2) = some (0, oneLaunch) ∧ oneLaunch.replay = false ∧ oneLaunch.flag 1 = false ∧
    ∃ f, SMap.find (onRing tapping (List.replicate 8704 3)).ring.frames 7 = some f ∧ crc32c f.bytes = fieldAt f.head 24 4 ∧ f.bytes.length = 8704 :=
  ⟨by decide +kernel, by decide +kernel, by decide +kernel, by decide +kernel, by decide +kernel, _, rfl, FeedWant.frameRead_good _ _, List.length_replicate⟩

/-- A frame of one byte, whose low bit the lanes flip. -/
theorem witness_Board_tap_bad : (SMap.find (onRing tapping [3]).ring.frames 7).any (fun f => crc32c (flipped f.bytes 1) != fieldAt f.head 24 4) = true := by decide +kernel

/-! ### Laps -/

/-- A machine at a network edge whose lap image is a segment of 9 frames, translated at the channels of a frame, with its ring changed. -/
def lapping (f : Ring → Ring) : State :=
  let s := launched { State.reset with now := tickUnits, bar0 := [(0, 0xFFFF_FFFF_FFFF_FFFF), (8, 0xFFFF_FFFF_FFFF_FFFF), (0x10, 0xFFFF_FFFF_FFFF_FFFF)] }
  let leaf : Word := 0x9800_0000_0000_0000
  { s with
    tcache := (List.range 34).flatMap (fun i => [⟨8192 + channelOf (0x1_0000 + 256 * i), 0, 0, true, 1, leaf + 1⟩, ⟨8192 + channelOf (0x1_0000 + 256 * i), 0, 0, false, 1, leaf + 7⟩])
    ring := f { s.ring with segs := [(0, [segment 9])] } }

/-- A read that succeeds and leaves the ring as it was. -/
def readsWell (s : State) (die : Nat) (w : FeedWant) : Bool :=
  match s.unitReadRun die (s.part w.seg.part).vf (some w.seg.part) (w.seg.addr + BitVec.ofNat 64 (8704 * w.findex)) 136 with
  | (.ok _, s1) => s1.ring == s.ring
  | _ => false

theorem witness_Laps_feeder : let f := (wanted 0 0 9).frameRead []
    let s := lapping (fun r => { r with reads := [(0, ⟨wanted 0 0 9, some f, none⟩)] })
    SMap.find s.ring.reads 0 = some ⟨wanted 0 0 9, some f, none⟩ ∧ s.feedWant 0 = some (wanted 0 0 9) := by decide +kernel

theorem witness_Laps_read : let s := lapping (fun r => { r with reads := [(0, ⟨wanted 0 8 9, none, none⟩)] })
    SMap.find s.ring.reads 0 = some ⟨wanted 0 8 9, none, none⟩ ∧ readsWell (lapping id) 0 (wanted 0 0 9) = true := by decide +kernel

/-- A ring whose station 0 has the first frame of lap `lap`, or the ninth of the lap before. -/
def fedRing (lap frame : Nat) (r : Ring) : Ring := { r with fed := [(0, (wanted lap frame 9).frameRead [])], laps := lap }

theorem witness_Laps_start : ∀ r ∈ [fedRing 3 0, fun r => { fedRing 3 0 r with inLap := true, image := [segment 9], next := 9, ctl := 2 ^ 32, lapDue := tickUnits }], let s := lapping r
    s.net.on s.now = true ∧ s.ring.nextAt ≤ s.now ∧ (s.ring.inLap = true → s.ring.ctl.getLsbD 32 = true → s.ring.lapDue ≤ s.now) ∧
      (s.ring.inLap = true → imageFrames s.ring.image ≤ s.ring.next) ∧ s.lapImage ≠ [] ∧ s.feedWant 0 = some (wanted 3 0 9) ∧ s.fedReady 0 (wanted 3 0 9) = true := by
  decide +kernel

theorem witness_Laps_end : let s := lapping (fun r => { r with segs := [], inLap := true, image := [segment 9], next := 9, laps := 4 })
    s.net.on s.now = true ∧ s.ring.nextAt ≤ s.now ∧ (s.ring.ctl.getLsbD 32 = true → s.ring.lapDue ≤ s.now) ∧ imageFrames s.ring.image ≤ s.ring.next ∧ s.lapImage = [] ∧
      s.ring.inLap = true := by decide +kernel

theorem witness_Laps_inject : ∀ j ∈ [0, 8], let s := lapping (fun r => { fedRing 3 j r with inLap := true, image := [segment 9], next := j, laps := 4 })
    s.net.on s.now = true ∧ s.ring.nextAt ≤ s.now ∧ s.ring.inLap = true ∧ s.feedWant (s.ring.next % 8) = some (wanted 3 j 9) ∧
      SMap.find s.ring.fed (s.ring.next % 8) = some ((wanted 3 j 9).frameRead []) ∧ 3 = s.ring.laps - 1 ∧ j = s.ring.next ∧
      s.fedReady (s.ring.next % 8) (wanted 3 j 9) = true := by decide +kernel

/-! ### Coverage -/

/-- A launch block of the 64 cores of partition 0 with flags, of which field 0 has 4 points of 2 bits. -/
def pointsBlock (flags : Byte) : List Byte :=
  (List.range 128).map (fun i => if i = 2 then flags else if i = 8 then 64 else if i = 24 then 2 else if i = 32 then 3 else if i = 56 then 2 else 0)

/-- A coverage descriptor of two rungs of period 2 along field 0: rung 0 keeps every point, rung 1 the even ones; FP32, kernel K0. -/
def coverage : List Byte :=
  (List.range 192).map (fun i => if i = 0 then 2 else if i = 2 then 0 else if i = 10 ∨ i = 18 ∨ i = 42 then 1 else if i = 64 then 4 else if i = 128 then 8 else if i = 129 ∨ i = 137 then 2 else if i = 130 ∨ i = 138 then 1 else if i = 134 then 3 else if i = 136 then 8
    else if i = 142 then 1 else 0)

/-- A launch with coverage, on a rung. -/
def covered (rung : Nat) (stage : LaunchStage) : Launch := { Launch.fresh (pointsBlock 4) 0 0 0 false with stage := stage, cdesc := coverage, rung := rung }

/-- A walker of two, of rank 0, at a point. -/
def walkerAt (p : Nat) : Walker := { Walker.empty with rank := some 0, count := 2, next := p }

theorem witness_Walker : (walkerAt 4).rank = some 0 ∧ (covered 1 .started).points ≤ (walkerAt 4).next ∧ (walkerAt 0).next < (covered 1 .started).points ∧
    (covered 1 .started).kept ((covered 1 .started).idOf 0) = true ∧ (walkerAt 1).next < (covered 1 .started).points ∧
    (covered 1 .started).kept ((covered 1 .started).idOf 1) = false ∧ (covered 1 .started).every = 0 := by decide +kernel

/-- A core of the launch, with a walker. -/
def walking (w : Walker) (s : State) : State :=
  let s := launched s
  { s with launches := [(0, covered 1 .started)] }.setCore 0 { s.core 0 with walker := w }

theorem witness_Covq : Met [⟨.covqNext ⟨1, 0, 0, 0, 0⟩, sigCovq false, opndW ⟨1, 0, 0, 0, 0⟩, id, id⟩] (fun s _ _ => s.launchOf s.cur = none) ∧
    Met [⟨.covqNext ⟨1, 0, 0, 0, 0⟩, sigCovq false, opndW ⟨1, 0, 0, 0, 0⟩, id, walking (walkerAt 4)⟩]
      (fun s t _ => (s.launchOf s.cur).any (fun x => (Walker.take x.2 (x.2.points + 1) (s.coreAt t).walkerDue).point == none) = true) ∧
    Met [⟨.covqNext ⟨1, 0, 0, 0, 0⟩, sigCovq false, opndW ⟨1, 0, 0, 0, 0⟩, id, walking (walkerAt 0)⟩]
      (fun s t _ => (s.launchOf s.cur).any (fun x => (Walker.take x.2 (x.2.points + 1) (s.coreAt t).walkerDue).point == some 0 &&
        (Walker.take x.2 (x.2.points + 1) (s.coreAt t).walkerDue).slot == none) = true) ∧
    Met [⟨.covqKeep ⟨1, 2, 0, 0, 0⟩, sigCovq true, opndW ⟨1, 2, 0, 0, 0⟩, id, walking (walkerAt 0)⟩] (fun s _ _ => (s.launchOf s.cur).isSome = true) ∧
    Issued [caseW .covqRank (sigCovq false) ⟨1, 0, 0, 0, 0⟩ id, caseW .covqInfo (sigCovq false) ⟨1, 0, 0, 0, 0⟩ id] :=
  ⟨met _ (by decide +kernel), met _ (by decide +kernel), met _ (by decide +kernel), met _ (by decide +kernel), issued (by decide +kernel)⟩

/-- A launch of one core at rest, with coverage, whose page 1 of HBM is translated. -/
def resting : State :=
  let l := { covered 1 .draining with block := (covered 1 .draining).block.set 8 1 }
  let s := launched { State.reset with bar0 := [(0, 0xFFFF_FFFF_FFFF_FFFF), (8, 0xFFFF_FFFF_FFFF_FFFF), (0x10, 0xFFFF_FFFF_FFFF_FFFF)] }
  let leaf : Word := 0x9800_0000_0000_0000
  { s with
    launches := [(0, l)]
    tcache := [⟨8192 + channelOf 0x1_0000, 0, 0, true, 1, leaf + 1⟩, ⟨8192 + channelOf 0x1_0000, 0, 0, false, 1, leaf + 7⟩] }.setCore 0 { s.core 0 with run := .halted }

/-- The launch of that machine. -/
def restingLaunch : Launch := { covered 1 .draining with block := (covered 1 .draining).block.set 8 1 }

/-- Axolotl's writes all succeed, in a machine whose reads have been counted. -/
def axWrites (s : State) (l : Launch) : Bool × State := (s.axResults l).foldl (fun a r => let x := a.2.axWrite l r.writes; (a.1 && x.1, x.2)) (true, s.readRuns l (s.axReads l))

theorem witness_Axolotl : SMap.find resting.launches 0 = some restingLaunch ∧ restingLaunch.stage = .draining ∧ restingLaunch.flag 2 = true ∧ restingLaunch.axolotlDone = false ∧
    resting.allRetired 0 restingLaunch = true ∧ resting.quiet 0 restingLaunch = true ∧ (axWrites resting restingLaunch).1 = true ∧
    (∀ r ∈ resting.axResults restingLaunch, r.failed = false) ∧ restingLaunch.axolotlFailed = false ∧ restingLaunch.replay = false ∧ bitsOf (resting.page 0 0x18) 31 0 = 0 ∧
    resting.now / (1000 * tickUnits) = resting.budgetEpoch ∧ (axWrites resting restingLaunch).2.parts = resting.parts ∧
    (resting.axResults restingLaunch).length = 2 := by decide +kernel

end Sys2Proof.Tests
end

section
/-! SUPPORT. What issue lets an instruction of one general-register result do, and the operand fields that a repetition leaves as encoded (R49, R112, R396). -/

namespace Sys2Proof.Machine

/-- The last steps of issue let an instruction execute with the operands that they are given (R396). -/
theorem State.letPass_go {s : State} {n : Nat} {g : Sig} {t t' : Nat} {squashed : Bool} {sources touched : List RegUse} {o o' : Opnd}
    (h : s.letPass n g t squashed sources touched o = .go t' o') : o' = o := by
  unfold State.letPass at h
  generalize (if squashed then 1 else chargeOf g.op) = w at h
  dsimp only at h
  split at h
  · cases h
  split at h
  · cases h; rfl
  split at h
  · cases h
  split at h
  · cases h
  split at h
  · cases h
  · cases h; rfl

/-- A target that executes does so with the operands that issue has found for it. -/
theorem State.gateTarget_go {s : State} {n : Nat} {g : Sig} {o o' : Opnd} {t t' : Nat} {guard : List RegUse}
    (h : s.gateTarget n g o t guard = .go t' o') : o' = o := by
  unfold State.gateTarget at h
  dsimp only at h
  split at h
  · cases h
  split at h
  · split at h
    · cases h
    split at h
    · cases h
    split at h
    · cases h
    split at h
    · cases h
    exact State.letPass_go h
  · cases h

/-- An instruction executes with its operands as encoded, but for the registers that a repetition staggers (R112). -/
theorem State.gate_go {s : State} {n : Nat} {g : Sig} {raw o : Opnd} {t : Nat} (h : s.gate n g raw = .go t o) :
    o = (s.core n).stagger (g.roles raw) raw := by
  unfold State.gate at h
  dsimp only at h
  split at h
  · cases h
  split at h
  · cases h
  split at h
  · cases h
  split at h
  · cases h
  split at h
  · cases h
  split at h
  · split at h
    · cases h
    split at h
    · split at h
      · exact State.letPass_go h
      · exact State.gateTarget_go h
    · exact State.gateTarget_go h
  · exact State.gateTarget_go h

/-- No repetition staggers an immediate (R112). -/
theorem Core.stagger_imm (c : Core) (r : Roles) (o : Opnd) : (c.stagger r o).imm = o.imm := by
  unfold Core.stagger
  dsimp only
  split <;> rfl

/-- An instruction executes with its immediate as encoded. -/
theorem State.Issues.imm {s : State} {g : Sig} {raw o : Opnd} {t : Nat} (h : s.Issues g raw t o) : o.imm = raw.imm := by
  rw [State.gate_go h.go, Core.stagger_imm]

/-- At issue a general register reads as it stands at that time. -/
theorem State.readG_atIssue (s : State) (g : Sig) (t : Nat) (r : Field) : (s.atIssue g t).cc.readG r = (s.coreAt t).readG r :=
  (s.noted_atIssue g t).readG r

/-- At issue a general register reads as a type as it stands at that time (R88). -/
theorem State.readGT_atIssue (s : State) (g : Sig) (t : Nat) (r : Field) (ty : IType) :
    (s.atIssue g t).cc.readGT r ty = readAs ty.signed ((s.coreAt t).typed r ty.width) := by
  rw [readGT_eq, Core.typed, State.readG_atIssue, Core.typed]

/-- An instruction that completes with one general-register result on its way, after a latency (R49). -/
def State.WritesG (s : State) (t : Nat) (i : Instr) (d : Field) (lat : Nat) (x : Word) : Prop :=
  ∃ s', exec i s = .next s' ∧ s.Completes t s ((s.coreAt t).gets (s.dueAt t lat) (.gen ((s.coreAt t).phys d) x)) s'

/-- An instruction whose effect is one general-register result completes with it on its way. -/
theorem State.Issues.writesG {s : State} {g : Sig} {raw o : Opnd} {t : Nat} (h : s.Issues g raw t o) (hst : s.Straight (s.coreAt t) s.mem)
    {i : Instr} {effect : Opnd → State → Result} {d : Field} {lat : Nat} {x : Word} (hexec : exec i s = issue g raw s effect)
    (heff : effect o (s.atIssue g t) = .done ((s.atIssue g t).putG d x lat)) : s.WritesG t i d lat x := by
  have hp : (s.atIssue g t).cc.phys d = (s.coreAt t).phys d := (s.noted_atIssue g t).phys d
  rw [State.putG, hp] at heff
  obtain ⟨s', hs, hc⟩ := issue_after h effect lat _ heff hst
  exact ⟨s', hexec.trans hs, hc⟩

end Sys2Proof.Machine
end

section
/-! SUPPORT. The results of compare, bit-field, carry-less and constant instructions as patterns of bits (R93 to R100). -/

namespace Sys2Proof.Machine

/-! ### Single bits and bit fields (R93 to R96) -/

/-- A field of one bit replaced is that bit replaced. -/
theorem setBits_bit (x : Word) (i : Nat) (v : Bool) : setBits x i i (if v then 1 else 0) = withBit x i v := by
  apply BitVec.eq_of_getLsbD_eq
  intro j hj
  rw [getLsbD_setBits _ _ _ _ _ (le_refl i), withBit]
  rcases eq_or_ne i j with rfl | hne
  · cases v <;> simp [hj]
  · have hout : ¬ (i ≤ j ∧ j ≤ i) := by omega
    cases v <;> simp [hj, hout] <;> intros <;> omega

/-- The model's bit operation changes one bit of a word (R96). -/
theorem bitOp_eq (f : Bool → Bool) (x : Word) (i : Nat) : bitOp f x i = withBit x i (f (x.getLsbD i)) :=
  setBits_bit x i _

/-- The bits of a word with the field of BFI replaced (R95). -/
theorem getLsbD_setBits_field (x y : Word) (pos k : Nat) {i : Nat} (hi : i < 64) :
    (setBits x (pos + k) pos y.toNat).getLsbD i = if pos ≤ i ∧ i ≤ pos + k then y.getLsbD (i - pos) else x.getLsbD i := by
  rw [getLsbD_setBits _ _ _ _ _ (Nat.le_add_right pos k), decide_eq_true hi, Bool.true_and]
  rfl

/-- Two patterns read alike as a type only if they are equal (R88). -/
theorem readAs_inj {n : Nat} (signed : Bool) (x y : BitVec n) : readAs signed x = readAs signed y ↔ x = y :=
  ⟨fun h => by rw [← ofInt_readAs signed x, h, ofInt_readAs], fun h => by rw [h]⟩

/-- The order of two patterns read as a type. -/
theorem readAs_lt {n : Nat} (signed : Bool) (x y : BitVec n) :
    decide (readAs signed x < readAs signed y) = if signed then x.slt y else x.ult y := by
  cases signed <;> simp [readAs, BitVec.slt, BitVec.ult]

/-- The weak order of two patterns read as a type. -/
theorem readAs_le {n : Nat} (signed : Bool) (x y : BitVec n) :
    decide (readAs signed x ≤ readAs signed y) = if signed then x.sle y else x.ule y := by
  cases signed <;> simp [readAs, BitVec.sle, BitVec.ule]

/-- The model's condition on two operands is that of R93 on their patterns. -/
theorem condition_readAs {n : Nat} (cc : Nat) (signed : Bool) (x y : BitVec n) :
    condition cc (readAs signed x) (readAs signed y) n = holds cc signed x y := by
  unfold condition holds
  split
  · simp [readAs_inj, beq_eq_decide]
  · simp [readAs_inj, bne, beq_eq_decide]
  · exact readAs_lt _ _ _
  · exact readAs_le _ _ _
  · exact readAs_lt _ _ _
  · exact readAs_le _ _ _
  · rw [pat_readAs, pat_readAs, ← BitVec.toNat_and]
    simp [bne, beq_eq_decide, BitVec.toNat_eq]

/-- The low 64 bits of a pattern's signed value are the pattern sign-extended (R36). -/
theorem wordOf_signExt {n : Nat} (x : BitVec n) : wordOf (signExt x.toNat n) = x.signExtend 64 := by
  rw [signExt_eq, BitVec.ofNat_toNat, BitVec.setWidth_eq]
  rfl

/-- A bit field taken out of a word, extended by its signedness (R95). -/
theorem extended_field (signed : Bool) (x : Word) (pos k : Nat) :
    (if signed then wordOf (signExt (natBits x.toNat (pos + (k + 1) - 1) pos) (k + 1))
      else BitVec.ofNat 64 (natBits x.toNat (pos + (k + 1) - 1) pos)) = extended signed (x.extractLsb' pos (k + 1)) := by
  have hf : natBits x.toNat (pos + (k + 1) - 1) pos = (x.extractLsb' pos (k + 1)).toNat := by
    rw [natBits, BitVec.extractLsb'_toNat, Nat.shiftRight_eq_div_pow, show pos + (k + 1) - 1 + 1 - pos = k + 1 by omega]
  rw [hf, wordOf_signExt, BitVec.ofNat_toNat]
  rfl

/-- A pattern read as a type is its low bits read so (R88). -/
theorem readT_toNat (x : Word) (t : IType) : readT x.toNat t = readAs t.signed (x.setWidth t.width) := by
  unfold readT readAs
  split
  · rw [signExt_eq, BitVec.ofNat_toNat]
  · rw [zeroExt, BitVec.toNat_setWidth]

/-- The low 24 bits of CMP's immediate as its operand (R98). -/
theorem readT_cmpImm (imm : BitVec 30) (t : IType) : readT (wordOf (signExt (imm.setWidth 32).toNat 24)).toNat t =
    readAs t.signed (((imm.extractLsb' 0 24).signExtend 64).setWidth t.width) := by
  have he : BitVec.ofNat 24 (imm.setWidth 32).toNat = imm.extractLsb' 0 24 := by
    apply BitVec.eq_of_toNat_eq
    have := imm.isLt
    simp only [BitVec.toNat_ofNat, BitVec.toNat_setWidth, BitVec.extractLsb'_toNat, Nat.shiftRight_zero]
    omega
  rw [readT_toNat, signExt_eq, he]
  rfl

/-- The bit index of CMP's immediate (R98). -/
theorem cmpImm_index (imm : BitVec 30) : (imm.setWidth 32).toNat / 2 ^ 24 % 64 = (imm.extractLsb' 24 6).toNat := by
  have := imm.isLt
  simp only [BitVec.toNat_setWidth, BitVec.extractLsb'_toNat, Nat.shiftRight_eq_div_pow]
  omega

/-! ### Carry-less products (R97) -/

/-- A carry-less product over one more bit of the second factor adds the first factor at that bit's place. -/
theorem clmulNat_succ (x n y : Nat) : clmulNat x (n + 1) y = clmulNat x n y ^^^ (if y.testBit n then x <<< n else 0) := by
  induction n generalizing y with
  | zero => simp [clmulNat, Nat.testBit_zero]
  | succ n ih =>
    have hd : ∀ a b : Nat, 2 * (a ^^^ b) = 2 * a ^^^ 2 * b := fun a b => by
      simpa [Nat.shiftLeft_eq, Nat.mul_comm] using Nat.shiftLeft_xor_distrib (i := 1) (a := a) (b := b)
    have hs : 2 * (if (y / 2).testBit n then x <<< n else 0) = if y.testBit (n + 1) then x <<< (n + 1) else 0 := by
      rw [Nat.testBit_succ]
      split
      · rw [Nat.shiftLeft_succ]
      · rfl
    rw [clmulNat, ih, hd, hs, ← Nat.xor_assoc]
    rfl

/-- The carry-less product of R97 is the model's. -/
theorem carryless_eq (x y : Word) : carryless x y = BitVec.ofNat 128 (clmulNat x.toNat 64 y.toNat) := by
  have h : ∀ n, (List.range n).foldl (fun p i => if y.getLsbD i then p ^^^ (x.setWidth 128 <<< i) else p) 0 =
      BitVec.ofNat 128 (clmulNat x.toNat n y.toNat) := by
    intro n
    induction n with
    | zero => rfl
    | succ n ih =>
      have hx : x.setWidth 128 <<< n = BitVec.ofNat 128 (x.toNat <<< n) := by
        apply BitVec.eq_of_toNat_eq
        rw [BitVec.toNat_shiftLeft, BitVec.toNat_setWidth_of_le (by decide), BitVec.toNat_ofNat]
      rw [List.range_succ, List.foldl_concat, ih, clmulNat_succ, BitVec.ofNat_xor, hx, BitVec.getLsbD]
      split
      · rfl
      · simp
  exact h 64

/-- CLMUL's result is the low half of the product (R97). -/
theorem clmul_low (x y : Word) : BitVec.ofNat 64 (clmulNat x.toNat 64 y.toNat) = (carryless x y).extractLsb' 0 64 := by
  rw [carryless_eq]
  apply BitVec.eq_of_toNat_eq
  simp only [BitVec.toNat_ofNat, BitVec.extractLsb'_toNat, Nat.shiftRight_zero]
  omega

/-- CLMULH's result is the high half of the product (R97). -/
theorem clmul_high (x y : Word) : BitVec.ofNat 64 (clmulNat x.toNat 64 y.toNat / 2 ^ 64) = (carryless x y).extractLsb' 64 64 := by
  rw [carryless_eq]
  apply BitVec.eq_of_toNat_eq
  simp only [BitVec.toNat_ofNat, BitVec.extractLsb'_toNat, Nat.shiftRight_eq_div_pow]
  omega

/-! ### Constants and addresses (R99, R100) -/

/-- An immediate placed above the low half of a word (R99). -/
theorem placed_high (imm : BitVec 32) (x : Word) :
    BitVec.ofNat 64 (imm.toNat * 2 ^ 32 + x.toNat % 2 ^ 32) = (imm ++ x.extractLsb' 0 32 : BitVec 64) := by
  apply BitVec.eq_of_toNat_eq
  have h : x.toNat % 2 ^ 32 < 2 ^ 32 := Nat.mod_lt _ (by decide)
  have hi := imm.isLt
  rw [BitVec.toNat_append, BitVec.extractLsb'_toNat, Nat.shiftRight_zero, ← Nat.shiftLeft_add_eq_or_of_lt h, Nat.shiftLeft_eq, BitVec.toNat_ofNat]
  omega

/-- Base, scaled index and displacement add up in 64 bits (R100). -/
theorem wordOf_lea (x y : Word) (k : Nat) (imm : BitVec 32) :
    wordOf ((x.toNat : Int) + y.toNat * 2 ^ k + signExt imm.toNat 32) = x + y <<< k + imm.signExtend 64 := by
  have hs : BitVec.ofNat 64 (y.toNat * 2 ^ k) = y <<< k := by
    apply BitVec.eq_of_toNat_eq
    rw [BitVec.toNat_ofNat, BitVec.toNat_shiftLeft, Nat.shiftLeft_eq]
  have hc : ((y.toNat : Int) * 2 ^ k) = ((y.toNat * 2 ^ k : Nat) : Int) := by push_cast; rfl
  rw [wordOf, BitVec.ofInt_add, BitVec.ofInt_add, hc, BitVec.ofInt_natCast, BitVec.ofInt_natCast, hs, BitVec.ofNat_toNat, BitVec.setWidth_eq,
    ← wordOf_signExt, wordOf]

end Sys2Proof.Machine
end

section
/-! SUPPORT. What each compare, select, bit-field, product and constant instruction writes (R93 to R100). -/

namespace Sys2Proof.Machine

/-- Each instruction of R96 with its index in a register issues with its own change of the bit. -/
theorem exec_bitForms (s : State) (tail : TailW) :
    ∀ r ∈ bitForms, exec (r.instr tail) s = issue (sigPlain r.op 1) (opndW tail) s (bitRegister r.bit) := by
  intro r hr
  fin_cases hr <;> rfl

/-- Each instruction of R96 with an immediate index issues with its own change of the bit (R98). -/
theorem exec_bitImmForms (s : State) (tail : TailL) :
    ∀ r ∈ bitImmForms, exec (r.instr tail) s = issue (sigBitImm r.op) (opndL tail) s (bitImmediate r.bit) := by
  intro r hr
  fin_cases hr <;> rfl

/-! ### What each instruction writes -/

variable {s : State} {t : Nat} {o : Opnd} (hst : s.Straight (s.coreAt t) s.mem)
include hst


/-- CMP (R93). -/
theorem exec_cmp_writes {tail : TailW} (h : s.Issues sigCmp (opndW tail) t o) :
    s.WritesG t (.cmp tail) o.d 1 (withBit ((s.coreAt t).readG o.d) o.c.toNat (holds (o.m.toNat / 8 % 8) o.mtype.signed
      ((s.coreAt t).typed o.a o.mtype.width) ((s.coreAt t).typed o.b o.mtype.width))) := by
  refine h.writesG hst rfl ?_
  rw [putBit, setBits_bit, State.readGT_atIssue, State.readGT_atIssue, condition_readAs, State.readG_atIssue]

/-- SEL (R94). -/
theorem exec_sel_writes {tail : TailW} (h : s.Issues sigSel (opndW tail) t o) :
    s.WritesG t (.sel tail) o.d 1 (if ((s.coreAt t).readG o.c).getLsbD (o.m.toNat % 64) then (s.coreAt t).readG o.a else (s.coreAt t).readG o.b) := by
  refine h.writesG hst rfl ?_
  simp only [State.readG_atIssue]

/-- BFX (R95). -/
theorem exec_bfx_writes {tail : TailW} (h : s.Issues sigBfx (opndW tail) t o) :
    s.WritesG t (.bfx tail) o.d 1 (extended o.mtype.signed (((s.coreAt t).readG o.a).extractLsb' o.b.toNat (o.c.toNat + 1))) := by
  refine h.writesG hst rfl ?_
  simp only [State.readG_atIssue, extended_field]

/-- BFI (R95). -/
theorem exec_bfi_writes {tail : TailW} (h : s.Issues sigBfi (opndW tail) t o) :
    s.WritesG t (.bfi tail) o.d 1 (setBits ((s.coreAt t).readG o.d) (o.b.toNat + o.c.toNat) o.b.toNat ((s.coreAt t).readG o.a).toNat) := by
  refine h.writesG hst rfl ?_
  simp only [State.readG_atIssue]

/-- BSET, BCLR and BTGL with the index in a register (R96). -/
theorem bitRegister_writes {op : Opcode} {raw : Opnd} {i : Instr} {f : Bool → Bool} (h : s.Issues (sigPlain op 1) raw t o)
    (hexec : exec i s = issue (sigPlain op 1) raw s (bitRegister f)) :
    s.WritesG t i o.d 1 (withBit ((s.coreAt t).readG o.a) (((s.coreAt t).readG o.b).toNat % 64)
      (f (((s.coreAt t).readG o.a).getLsbD (((s.coreAt t).readG o.b).toNat % 64)))) := by
  refine h.writesG hst hexec ?_
  rw [bitRegister, State.readG_atIssue, State.readG_atIssue, bitOp_eq]

/-- BSET, BCLR and BTGL with an immediate index (R96, R98). -/
theorem bitImmediate_writes {op : Opcode} {tail : TailL} {i : Instr} {f : Bool → Bool} (h : s.Issues (sigBitImm op) (opndL tail) t o)
    (hexec : exec i s = issue (sigBitImm op) (opndL tail) s (bitImmediate f)) :
    s.WritesG t i o.d 1 (withBit ((s.coreAt t).readG o.a) (tail.imm.toNat % 64) (f (((s.coreAt t).readG o.a).getLsbD (tail.imm.toNat % 64)))) := by
  have himm : o.imm.toNat = tail.imm.toNat := by
    rw [h.imm]
    exact BitVec.toNat_setWidth_of_le (by decide)
  refine h.writesG hst hexec ?_
  rw [bitImmediate, State.readG_atIssue, himm, bitOp_eq]

/-- CMP with an immediate (R93, R98). -/
theorem exec_cmpImm_writes {tail : TailL} (h : s.Issues sigCmpImm (opndL tail) t o) :
    s.WritesG t (.cmpImm tail) o.d 1 (withBit ((s.coreAt t).readG o.d) (tail.imm.extractLsb' 24 6).toNat (holds (o.b.toNat / 8 % 8) o.btype.signed
      ((s.coreAt t).typed o.a o.btype.width) (((tail.imm.extractLsb' 0 24).signExtend 64).setWidth o.btype.width))) := by
  have himm : o.imm = tail.imm.setWidth 32 := h.imm
  refine h.writesG hst rfl ?_
  rw [putBit, himm, readT_cmpImm, cmpImm_index, setBits_bit, State.readGT_atIssue, condition_readAs, State.readG_atIssue]

/-- CLMUL (R97). -/
theorem exec_clmul_writes {tail : TailW} (h : s.Issues (sigPlain 0x122 3) (opndW tail) t o) :
    s.WritesG t (.clmul tail) o.d 3 ((carryless ((s.coreAt t).readG o.a) ((s.coreAt t).readG o.b)).extractLsb' 0 64) := by
  refine h.writesG hst rfl ?_
  rw [clmulOf, State.readG_atIssue, State.readG_atIssue, clmul_low]

/-- CLMULH (R97). -/
theorem exec_clmulh_writes {tail : TailW} (h : s.Issues (sigPlain 0x123 3) (opndW tail) t o) :
    s.WritesG t (.clmulh tail) o.d 3 ((carryless ((s.coreAt t).readG o.a) ((s.coreAt t).readG o.b)).extractLsb' 64 64) := by
  refine h.writesG hst rfl ?_
  rw [clmulOf, State.readG_atIssue, State.readG_atIssue, clmul_high]

/-- LI (R99). -/
theorem exec_li_writes {tail : TailD} (h : s.Issues (sigLoadImm 0x230 .gw) (opndD tail) t o) :
    s.WritesG t (.li tail) o.d 1 (tail.imm.signExtend 64) := by
  have himm : o.imm = tail.imm := h.imm
  refine h.writesG hst rfl ?_
  rw [himm, wordOf_signExt]

/-- LIH (R99). -/
theorem exec_lih_writes {tail : TailD} (h : s.Issues (sigLoadImm 0x231 .grw) (opndD tail) t o) :
    s.WritesG t (.lih tail) o.d 1 (tail.imm ++ ((s.coreAt t).readG o.d).extractLsb' 0 32 : BitVec 64) := by
  have himm : o.imm = tail.imm := h.imm
  refine h.writesG hst rfl ?_
  rw [himm, State.readG_atIssue, placed_high]

/-- LEA (R100). -/
theorem exec_lea_writes {tail : TailD} (h : s.Issues sigLea (opndD tail) t o) :
    s.WritesG t (.lea tail) o.d 1 ((s.coreAt t).readG o.a + (s.coreAt t).readG o.b <<< (o.m.toNat % 4) + tail.imm.signExtend 64) := by
  have himm : o.imm = tail.imm := h.imm
  refine h.writesG hst rfl ?_
  simp only [himm, State.readG_atIssue, wordOf_lea]

end Sys2Proof.Machine
end

section
/-! The statements about compare, select, bit-field, product and constant instructions. -/

open Sys2Proof Sys2Proof.Machine

/-- Settles O18: each instruction has one general-register result, so `State.Issues.writesG` gives its completion, and what it writes is its value read as a pattern of bits. -/
theorem bitFormsWriteTheirResult : Obligations.BitFormsWriteTheirResult := by
  unfold Obligations.BitFormsWriteTheirResult
  intro s t o hst
  refine ⟨fun tail => ⟨exec_cmp_writes hst, exec_sel_writes hst, exec_bfx_writes hst, fun h => ?_,
    fun r hr h => bitRegister_writes hst h (exec_bitForms s tail r hr)⟩,
    fun tail => ⟨exec_cmpImm_writes hst, fun r hr h => bitImmediate_writes hst h (exec_bitImmForms s tail r hr)⟩⟩
  obtain ⟨s', hs, hc⟩ := exec_bfi_writes hst h
  exact ⟨s', _, hs, fun _ hi => getLsbD_setBits_field _ _ _ _ hi, hc⟩

/-- Settles O19: one general-register result each; the model's carry-less product, which recurs on the lowest bit of its second factor, is the sum of R97 by `clmulNat_succ`. -/
theorem productsAndConstantsWriteTheirResult : Obligations.ProductsAndConstantsWriteTheirResult := by
  unfold Obligations.ProductsAndConstantsWriteTheirResult
  intro s t o hst
  exact ⟨fun tail => ⟨exec_clmul_writes hst, exec_clmulh_writes hst⟩, fun tail => ⟨exec_li_writes hst, exec_lih_writes hst, exec_lea_writes hst⟩⟩

end

section
/-! SUPPORT. Lanes of a vector register: what a pattern packed from lanes holds, and the lanes, flags and format that an instruction reads at issue (R139, R145, R148). -/

namespace Sys2Proof.Machine

/-! ### Patterns made of lanes (R145) -/

/-- A pattern packed from lanes has no bit above them. -/
theorem packLanes_lt (n : Nat) (xs : List Nat) : packLanes n xs < 2 ^ (n * xs.length) := by
  induction xs with
  | nil => simp [packLanes]
  | cons x xs ih =>
    have hx : x % 2 ^ n < 2 ^ n := Nat.mod_lt _ (Nat.two_pow_pos n)
    calc x % 2 ^ n + 2 ^ n * packLanes n xs
        < 2 ^ n * (packLanes n xs + 1) := by rw [Nat.mul_succ]; omega
      _ ≤ 2 ^ n * 2 ^ (n * xs.length) := Nat.mul_le_mul_left _ ih
      _ = 2 ^ (n * (x :: xs).length) := by rw [← Nat.pow_add, List.length_cons, Nat.mul_succ, Nat.add_comm]

/-- A lane of a packed pattern is the one it was packed from, and zero above them all. -/
theorem laneOf_packLanes (n : Nat) (xs : List Nat) (i : Nat) : laneOf (packLanes n xs) n i = xs.getD i 0 % 2 ^ n := by
  induction xs generalizing i with
  | nil => simp [packLanes, laneOf]
  | cons x xs ih =>
    cases i with
    | zero => simp [packLanes, laneOf]
    | succ i =>
      have hx : x % 2 ^ n < 2 ^ n := Nat.mod_lt _ (Nat.two_pow_pos n)
      have hdrop : packLanes n (x :: xs) / 2 ^ n = packLanes n xs := by
        rw [packLanes, Nat.add_mul_div_left _ _ (Nat.two_pow_pos n), Nat.div_eq_of_lt hx, Nat.zero_add]
      rw [List.getD_cons_succ, ← ih, laneOf, laneOf, Nat.mul_succ, Nat.add_comm, Nat.pow_add, ← Nat.div_div_eq_div_mul, hdrop]

/-- A lane of a vector as a field of its bits. -/
theorem laneOf_toNat (x : VWord) (n i : Nat) : laneOf x.toNat n i = (x.extractLsb' (n * i) n).toNat := by
  rw [laneOf, BitVec.extractLsb'_toNat, Nat.shiftRight_eq_div_pow]

/-- The lanes of a vector packed from lanes that fit are those lanes. -/
theorem lanes_packLanes {n count : Nat} (hfit : n * count ≤ 512) (f : Nat → Nat) :
    Lanes (BitVec.ofNat 512 (packLanes n ((List.range count).map f))) n count f := by
  have hlt : packLanes n ((List.range count).map f) < 2 ^ (n * count) := by
    simpa using packLanes_lt n ((List.range count).map f)
  have hnat : (BitVec.ofNat 512 (packLanes n ((List.range count).map f))).toNat = packLanes n ((List.range count).map f) := by
    rw [BitVec.toNat_ofNat, Nat.mod_eq_of_lt (hlt.trans_le (Nat.pow_le_pow_right (by decide) hfit))]
  refine ⟨fun i hi => ?_, by rwa [hnat]⟩
  rw [← laneOf_toNat, hnat, laneOf_packLanes]
  simp [hi]

/-- A lane mask has the bit of a lane set when the lane's condition holds (R145). -/
theorem getLsbD_laneMask (count : Nat) (p : Nat → Bool) {i : Nat} (hi : i < 64) :
    (laneMask ((List.range count).map p)).getLsbD i = (decide (i < count) && p i) := by
  have hlane := laneOf_packLanes 1 (((List.range count).map p).map (fun b => if b then 1 else 0)) i
  rw [laneOf, Nat.one_mul, Nat.pow_one] at hlane
  rw [laneMask, BitVec.getLsbD_ofNat, decide_eq_true hi, Bool.true_and, Nat.testBit_eq_decide_div_mod_eq, hlane]
  rcases Nat.lt_or_ge i count with h | h
  · cases hp : p i <;> simp [h, hp]
  · simp [Nat.not_lt.mpr h]

/-- Coded lanes packed with their flags, as lanes and as the flags of R139. -/
theorem packCoded_range (n count : Nat) (f : Nat → Coded) : packCoded n ((List.range count).map f) =
    (BitVec.ofNat 512 (packLanes n ((List.range count).map (fun i => (f i).code))), flagsUpTo count (fun i => (f i).flags)) := by
  rw [packCoded, List.map_map, List.foldl_map]
  rfl

/-! ### Sources at issue (R140, R148) -/

/-- The governor's record is no part of the FMT fields in force. -/
theorem Core.Noted.fmt {c x : Core} (h : c.Noted x) : x.fmt = c.fmt := by
  obtain ⟨_, _, rfl⟩ := h; rfl
/-- The governor's record is no part of STAT.FZ. -/
theorem Core.Noted.fz {c x : Core} (h : c.Noted x) : x.fz = c.fz := by
  obtain ⟨_, _, rfl⟩ := h; rfl

/-- At issue the fields of the pending FMT are in force as they stand at that time. -/
theorem State.fmt_atIssue (s : State) (g : Sig) (t : Nat) : (s.atIssue g t).cc.fmt = (s.coreAt t).fmt :=
  (s.noted_atIssue g t).fmt

/-- At issue a vector register reads as it stands at that time. -/
theorem State.readV_atIssue (s : State) (g : Sig) (t n : Nat) : (s.atIssue g t).cc.readV n = (s.coreAt t).readV n :=
  (s.noted_atIssue g t).readV n

/-- At issue a general-register result is for the physical register that its field names at that time. -/
theorem State.phys_atIssue (s : State) (g : Sig) (t : Nat) (r : Field) : (s.atIssue g t).cc.phys r = (s.coreAt t).phys r :=
  (s.noted_atIssue g t).phys r

/-- A lane read at issue is that of the register as it stands at that time. -/
theorem State.laneOf_atIssue (s : State) (g : Sig) (t : Nat) (r : Field) (n i : Nat) :
    laneOf ((s.atIssue g t).cc.readV r.toNat).toNat n i = (s.coreAt t).vlane r n i := by
  rw [State.readV_atIssue, laneOf_toNat, Core.vlane]

/-- The floating sources of a vector register at issue, lane by lane. -/
theorem State.srcLanes_atIssue (s : State) (g : Sig) (t : Nat) (r : Field) (F : Fmt) :
    (s.atIssue g t).srcLanes r F = (List.range (512 / F.width)).map (fun i => (s.coreAt t).vsource r F i) := by
  have hfz : (s.atIssue g t).cc.fz = (s.coreAt t).fz := (s.noted_atIssue g t).fz
  rw [State.srcLanes, lanesOf, List.map_map, hfz]
  exact List.map_congr_left (fun i _ => congrArg (fun c => srcVal F c (s.coreAt t).fz) (s.laneOf_atIssue g t r F.width i))

/-- The pairs of floating sources of two vector registers at issue, lane by lane. -/
theorem State.srcPairs_atIssue (s : State) (g : Sig) (t : Nat) (a b : Field) (F : Fmt) :
    ((s.atIssue g t).srcLanes a F).zip ((s.atIssue g t).srcLanes b F) =
      (List.range (512 / F.width)).map (fun i => ((s.coreAt t).vsource a F i, (s.coreAt t).vsource b F i)) := by
  rw [State.srcLanes_atIssue, State.srcLanes_atIssue, List.zip_map']

/-! ### What an instruction of one vector result does (R49, R146) -/

/-- An instruction that completes with results on their way, after a latency (R49). -/
def State.WritesAll (s : State) (t : Nat) (i : Instr) (lat : Nat) (ds : List Dest) : Prop :=
  ∃ s', exec i s = .next s' ∧ s.Completes t s ((s.coreAt t).getsAll (s.dueAt t lat) ds) s'

/-- An instruction that completes with every lane of a vector register on its way (R145). -/
def State.WritesLanes (s : State) (t : Nat) (i : Instr) (d : Field) (lat w : Nat) (f : Nat → Nat) : Prop :=
  ∃ s' v, exec i s = .next s' ∧ Lanes v w (512 / w) f ∧ s.Completes t s ((s.coreAt t).gets (s.dueAt t lat) (.vec d.toNat v)) s'

/-- An instruction that completes with every lane of a vector register and the lanes' flags on their way (R139, R145). -/
def State.WritesCoded (s : State) (t : Nat) (i : Instr) (d : Field) (lat w : Nat) (f : Nat → Coded) : Prop :=
  ∃ s' v, exec i s = .next s' ∧ Lanes v w (512 / w) (fun i => (f i).code) ∧
    s.Completes t s ((s.coreAt t).getsAll (s.dueAt t lat) [.vec d.toNat v, .flags (flagsUpTo (512 / w) (fun i => (f i).flags))]) s'

section
variable {s : State} {g : Sig} {raw o : Opnd} {t : Nat} (h : s.Issues g raw t o) (hst : s.Straight (s.coreAt t) s.mem)
  {i : Instr} {effect : Opnd → State → Result} (hexec : exec i s = issue g raw s effect)
include h hst hexec

/-- An instruction whose effect is register results completes with them on their way. -/
theorem State.Issues.writesAll {lat : Nat} {ds : List Dest} (heff : effect o (s.atIssue g t) = .done ((s.atIssue g t).after lat ds)) :
    s.WritesAll t i lat ds := by
  obtain ⟨s', hs, hc⟩ := issue_after h effect lat ds heff hst
  exact ⟨s', hexec.trans hs, hc⟩

/-- An instruction whose effect is a vector packed from lanes completes with those lanes on their way. -/
theorem State.Issues.writesLanes {d : Field} {lat w : Nat} {f : Nat → Nat}
    (heff : effect o (s.atIssue g t) =
      .done ((s.atIssue g t).after lat [.vec d.toNat (BitVec.ofNat 512 (packLanes w ((List.range (512 / w)).map f)))])) :
    s.WritesLanes t i d lat w f := by
  obtain ⟨s', hs, hc⟩ := h.writesAll hst hexec heff
  exact ⟨s', _, hs, lanes_packLanes (Nat.mul_div_le 512 w) f, hc⟩

/-- An instruction whose effect is packed coded lanes completes with them and their flags on their way. -/
theorem State.Issues.writesCoded {d : Field} {lat w : Nat} {f : Nat → Coded}
    (heff : effect o (s.atIssue g t) = .done ((s.atIssue g t).putV d (packCoded w ((List.range (512 / w)).map f)).1
      (packCoded w ((List.range (512 / w)).map f)).2 lat)) : s.WritesCoded t i d lat w f := by
  rw [packCoded_range, State.putV] at heff
  obtain ⟨s', hs, hc⟩ := h.writesAll hst hexec heff
  exact ⟨s', _, hs, lanes_packLanes (Nat.mul_div_le 512 w) _, hc⟩

end

end Sys2Proof.Machine
end

section
/-! SUPPORT. What each minimum, sign, class, compare and select lane form writes (R151 to R154). -/

namespace Sys2Proof.Machine

variable {s : State} {t : Nat} {o : Opnd} (hst : s.Straight (s.coreAt t) s.mem)
include hst

/-- VMIN and VMAX (R151). -/
theorem minMax_writes {op : Opcode} {raw : Opnd} {i : Instr} {greatest : Bool} (h : s.Issues (sigFloat op 2 2) raw t o)
    (hexec : exec i s = issue (sigFloat op 2 2) raw s (minMax greatest)) :
    let c := s.coreAt t
    let F := c.fmt.elem
    s.WritesCoded t i o.d 2 F.width (fun i =>
      let e := fMinMax greatest (c.vsource o.a F i) (c.vsource o.b F i)
      ⟨(roundNE e.v F).code, e.flags⟩) := by
  refine h.writesCoded hst hexec ?_
  rw [minMax, State.fmt_atIssue, State.srcPairs_atIssue, List.map_map]
  rfl

/-- VABS and VNEG (R151). -/
theorem signOp_writes {op : Opcode} {raw : Opnd} {i : Instr} {f : FVal → FVal} (h : s.Issues (sigFloat op 2 1) raw t o)
    (hexec : exec i s = issue (sigFloat op 2 1) raw s (signOp f)) :
    let c := s.coreAt t
    let F := c.fmt.elem
    s.WritesCoded t i o.d 2 F.width (fun i =>
      let x := c.vsource o.a F i
      ⟨(roundNE (if x.isNan then .nan false else f x) F).code, sigFlag x⟩) := by
  refine h.writesCoded hst hexec ?_
  rw [signOp, State.fmt_atIssue, State.srcLanes_atIssue, List.map_map]
  rfl

/-- VCLASS (R154). -/
theorem exec_vclass_writes {tail : TailW} (h : s.Issues (sigFloat 0x512 2 1) (opndW tail) t o) :
    let c := s.coreAt t
    let F := c.fmt.elem
    s.WritesLanes t (.vclass tail) o.d 2 F.width (fun i => 2 ^ classBit F (c.vlane o.a F.width i)) := by
  refine h.writesLanes hst rfl ?_
  simp only [State.fmt_atIssue, lanesOf, List.map_map, Function.comp_def, State.laneOf_atIssue]
  rfl

/-- VSEL (R153). -/
theorem exec_vsel_writes {tail : TailW} (h : s.Issues sigVsel (opndW tail) t o) :
    let c := s.coreAt t
    let w := c.fmt.elem.width
    s.WritesLanes t (.vsel tail) o.d 2 w (fun i => if (c.readG o.c).getLsbD i then c.vlane o.a w i else c.vlane o.b w i) := by
  refine h.writesLanes hst rfl ?_
  simp only [State.fmt_atIssue, State.readG_atIssue, State.laneOf_atIssue]
  rfl

/-- VCMP (R152). -/
theorem exec_vcmp_writes {tail : TailW} (h : s.Issues sigVcmp (opndW tail) t o) :
    let c := s.coreAt t
    let F := c.fmt.elem
    let cc := o.m.toNat / 8 % 8
    s.WritesAll t (.vcmp tail) 2
      [.gen (c.phys o.d) (laneMask ((List.range (512 / F.width)).map (fun i => floatCondition cc (c.vsource o.a F i) (c.vsource o.b F i)))),
        .flags (flagsUpTo (512 / F.width) (fun i => floatConditionFlag cc (c.vsource o.a F i) (c.vsource o.b F i)))] := by
  refine h.writesAll hst rfl ?_
  simp only [State.fmt_atIssue, State.phys_atIssue, State.srcPairs_atIssue, List.map_map, Function.comp_def, List.foldl_map]
  rfl

end Sys2Proof.Machine
end

section
/-! The statement about the minimum, sign, class, compare and select lane forms. -/

open Sys2Proof Sys2Proof.Machine

/-- Settles O35: the model computes each form lane by lane from the sources as they stand at issue, and packs the lanes; `lanes_packLanes` reads a packed vector back, and `getLsbD_laneMask` the mask of VCMP. -/
theorem floatSelectionForms : Obligations.FloatSelectionForms := by
  unfold Obligations.FloatSelectionForms
  intro s tail t o hst
  refine ⟨fun r hr h => minMax_writes hst h ?_, fun r hr h => signOp_writes hst h ?_, exec_vclass_writes hst, fun h => ?_, exec_vsel_writes hst⟩
  · fin_cases hr <;> rfl
  · fin_cases hr <;> rfl
  · obtain ⟨s', hs, hc⟩ := exec_vcmp_writes hst h
    exact ⟨s', _, hs, fun _ hi => getLsbD_laneMask _ _ hi, hc⟩

end
